-- ==== Sys2Proof/Word.lean ====
section
/-!
DEFINITION. Word: the word types and their plainest arithmetic.
-/
namespace Sys2Proof

/-- A scalar register's value (05 R115). -/
abbrev Word := BitVec 64

/-- A byte of memory. -/
abbrev Byte := BitVec 8

/-- Bits [hi:lo] of a number (00 R11). -/
def bits (v hi lo : Nat) : Nat := v / 2 ^ lo % 2 ^ (hi + 1 - lo)

/-- One bit of a number. -/
def bitAt (v n : Nat) : Bool := v / 2 ^ n % 2 == 1

/-- The number v with bits [hi:lo] replaced by x. -/
def setBits (v hi lo x : Nat) : Nat := v - bits v hi lo * 2 ^ lo + (x % 2 ^ (hi + 1 - lo)) * 2 ^ lo

/-- The smallest whole number of d in n, rounded up. -/
def ceilDiv (n d : Nat) : Nat := (n + d - 1) / d

end Sys2Proof
end

