-- ==== Sys2Proof/Syntax.lean ====
section
/-!
DEFINITION. Syntax: the one inductive of instructions, a constructor for each row of the opcode table.
The first 221 constructors are the encoded rows (03 R57-R74), their arguments the fields of the word, every
immediate joined from its pieces.  The other 124 are event rows, which have no word: what comes with an event (the
unit of the machine where it happens, the data from outside) is an Event, and stands in the state while the event's
row is run.
-/
namespace Sys2Proof

/-- An event with the units it names and the data that come with it. -/
inductive Event where
  /-- At each rotation position the core selects at most one eligible slot to issue. (R110) -/
  | rotationPosition (core : Nat)
  /-- A parked thread's condition is met and it becomes eligible to reissue. (R114) -/
  | parkWake (slot : Nat)
  /-- A committed rotation table takes effect at position 0 of the next rotation. (R107) -/
  | rotationTableSwitch (core : Nat)
  /-- A PENDING entry receives its value, error or refusal and becomes PRESENT. (R120) -/
  | registerValueArrival (id : Nat)
  /-- A spawn reaches its target core and a slot is taken or refused. (R134) -/
  | spawnArrival (id : Nat)
  /-- A load, store or atomic is performed at its bank or slice. (R143) -/
  | memoryAccessArrival (id : Nat)
  /-- A full/empty access reaches the place holding its word and proceeds or joins the wait list. (R151) -/
  | feAccessArrival (id : Nat)
  /-- A request refused by a full wait list is reissued after its backoff. (R152) -/
  | feListRetry (slot : Nat)
  /-- A reservation is lost 4,096 cycles after its LR. (R156) -/
  | reservationExpiry (slot : Nat)
  /-- A line held in the cluster merge buffer is dropped after 32 cycles. (R149) -/
  | mergeBufferExpiry (cluster : Nat) (line : Nat)
  /-- An acceptance frees a journal entry, or a refusal records its reason for an asynchronous trap. (R200) -/
  | postedAnswerArrival (core : Nat) (index : Nat) (reason : Nat)
  /-- An echo from a probed point reaches the releasing thread. (R186) -/
  | fenceEchoArrival (slot : Nat) (bit : Nat)
  /-- The block's bank performs or refuses a barinit. (R194) -/
  | barinitAtBank (id : Nat)
  /-- An arrival is counted at the block's bank and a last arrival releases the generation. (R195) -/
  | barrierArrival (id : Nat)
  /-- A barrier release message reaches a core of the unit and wakes its members. (R196) -/
  | barrierReleaseDelivery (core : Nat) (addr : Nat)
  /-- A write request at a die-cache slice is applied or answered from the replay filter. (R214) -/
  | sliceWrite (id : Nat)
  /-- An unanswered request is replayed, or refused or faulted after three replays. (R214) -/
  | requestReplayTimeout (id : Nat)
  /-- A requester's acknowledgement frees the slice's replay filter entry. (R214) -/
  | replayAck (id : Nat)
  /-- A slice sends Sextant a debug event for a matched write once performed at .part. (R216) -/
  | bankWatchEvent (die : Nat) (slice : Nat) (unit : Nat) (addr : BitVec 64) (cls : BitVec 4) (owner : BitVec 12) (ident : BitVec 29)
  /-- A copy engine translates, takes, writes and gives up one destination unit. (R206) -/
  | copyUnitWrite (id : Nat)
  /-- A transfer writes its final status into the ring and C falls. (R278) -/
  | copyCompletion (id : Nat)
  /-- The reduction engine checks and stages a contribution or refuses it. (R300) -/
  | redContributionArrival (id : Nat)
  /-- With all contributions present the engine delivers the tree sum and clears the round. (R301) -/
  | reductionDelivery (die : Nat) (addr : Nat)
  /-- A walker reads the three table levels for a pending entry and fills, faults or denies. (R225) -/
  | pageWalk (die : Nat) (entry : Nat)
  /-- A recorded fault notifies the Sextant pager or sends the host MSI-X vector. (R231) -/
  | pagerNotice (die : Nat)
  /-- Marks a buffered fault's pending entry RESOLVED and frees the buffer entry. (R232) -/
  | fbcmdMapped (die : Nat) (index : Nat)
  /-- Marks a buffered fault's pending entry DENIED and frees the buffer entry. (R232) -/
  | fbcmdDeny (die : Nat) (index : Nat)
  /-- Frees resolved, faulted and denied entries and wakes or traps their requesters. (R233) -/
  | fbcmdReplayAll (die : Nat)
  /-- Removes an owner's translations for a range from every TLB of the partition. (R235) -/
  | fbcmdInval (die : Nat) (owner : Nat)
  /-- Starts migration of a 64 KiB page to a new frame. (R238) -/
  | fbcmdMigrate (die : Nat)
  /-- BUSY clears once removal is acknowledged and affected accesses are performed. (R235) -/
  | invalComplete (die : Nat)
  /-- A running migration finishes copying, rewrites the leaf, invalidates and reports in MIGSTAT. (R238) -/
  | migrationComplete (die : Nat)
  /-- The tile datapath reads and writes one 8-row strip of the head operation. (R247) -/
  | tileStrip (core : Nat)
  /-- Every 4 cycles the matrix unit serves one table entry for a core or a lending sibling. (R308) -/
  | vernierEntry (octet : Nat)
  /-- A Vernier write takes effect at entry 0 of the next table period. (R323) -/
  | vernierTableSwitch (octet : Nat)
  /-- The sequencer reissues a captured word into its queue once room allows. (R321) -/
  | rptReissue (slot : Nat)
  /-- A pushed word enters the receiving core's port queue. (R293) -/
  | portWordArrival (core : Nat) (port : Nat)
  /-- A stream reads a word and pushes it into the copy-stream queue when there is room. (R295) -/
  | sbindStreamPush (id : Nat)
  /-- A bank lock is granted once earlier foreign accesses and strips on the bank are done. (R356) -/
  | bankLockGrant (core : Nat) (bank : Nat)
  /-- A lock held LIMIT cycles is released and LOCK_TIMEOUT raised in the holder. (R359) -/
  | lockTimeout (core : Nat) (bank : Nat)
  /-- The launch unit places a waiting launch's slots on a core that has them free. (R374) -/
  | launchPlacement (launch : Nat) (core : Nat)
  /-- A waiting launch's effective level rises for each 64 µs waited. (R378) -/
  | launchAgeing (launch : Nat)
  /-- When all threads of a launch end, its DONE counter is decremented and its messages discarded. (R371) -/
  | launchDone (launch : Nat)
  /-- The counter table applies a decrement, enqueueing a bound task at zero. (R381) -/
  | counterDecrement (id : Nat)
  /-- The counter table applies a bind. (R381) -/
  | counterBind (id : Nat)
  /-- The counter table applies a free. (R381) -/
  | counterFree (id : Nat)
  /-- A message enters the home die's store and wakes a parked receiver. (R384) -/
  | messageStoreArrival (id : Nat)
  /-- A phase report is recorded at the paired slot. (R386) -/
  | phaseReportArrival (slot : Nat) (link : Nat) (value : Nat) (launch : Nat)
  /-- A qwait's cycle limit passes without its condition and it traps. (R398) -/
  | qtimeout (slot : Nat)
  /-- An rwait rereads its ring control block after a store or 256 cycles. (R399) -/
  | rwaitPoll (slot : Nat)
  /-- An rwait's cycle limit passes and it traps. (R399) -/
  | rtimeout (slot : Nat)
  /-- An INVOKE packet is admitted to a queue or spill ring, or refused, and answered. (R407) -/
  | invoke (die : Nat) (hdr : BitVec 128) (beats : List (BitVec 128))
  /-- The head of a handler's spill ring moves into its priority queue. (R408) -/
  | spillRingMove (die : Nat) (handler : Nat)
  /-- A queue head is placed as a group on a core of the handler's owner. (R409) -/
  | invocationPlacement (die : Nat) (queue : Nat)
  /-- A REPLY packet reaches the requester's die and is taken or dropped. (R411) -/
  | reply (die : Nat) (hdr : BitVec 128) (beats : List (BitVec 128))
  /-- An ANSWER packet delivers an invocation status to the requester. (R401) -/
  | answer (die : Nat) (hdr : BitVec 128) (beats : List (BitVec 128))
  /-- A fabric WRITE packet is checked and performed in the exporter's space. (R479) -/
  | write (die : Nat) (hdr : BitVec 128) (beats : List (BitVec 128))
  /-- A fabric READ packet is checked and answered with data. (R479) -/
  | read (die : Nat) (hdr : BitVec 128) (beats : List (BitVec 128))
  /-- A fabric ATOMIC packet is checked and performed, returning the old value. (R479) -/
  | atomic (die : Nat) (hdr : BitVec 128) (beats : List (BitVec 128))
  /-- A fabric COUNTER packet decrements a counter and is answered. (R479) -/
  | counter (die : Nat) (hdr : BitVec 128) (beats : List (BitVec 128))
  /-- A received PAUSE stops injection of a traffic class. (R415) -/
  | pause (port : Nat) (cls : Nat)
  /-- A received RESUME restarts injection of a class. (R415) -/
  | resume (port : Nat) (cls : Nat)
  /-- A buffer above threshold repeats its PAUSE every 1 µs. (R415) -/
  | pauseRepeat (port : Nat) (cls : Nat)
  /-- A flit is checked by CRC and its packet beats and control fields taken. (R478) -/
  | flitReceive (port : Nat) (beats : List (BitVec 128))
  /-- A Mynis port trains its link, or stays down and refuses traffic. (R477) -/
  | linkTraining (port : Nat) (ok : Bool)
  /-- A contended point draws per owner and lets one owner serve a request. (R424) -/
  | arbitrationRound (die : Nat) (cls : Nat) (inst : Nat)
  /-- A fill places a line in its set, choosing a victim by the owner draw. (R423) -/
  | dieCacheFill (die : Nat) (line : Nat) (owner : Nat)
  /-- A slice sweeper visits a set and relocates its retiring lines. (R430) -/
  | sweeperVisit (die : Nat) (slice : Nat) (owner : Nat)
  /-- A PCMD write with RESET requests a partition reset with ZERO and RELEASE options. (R449) -/
  | pcmdReset (part : Nat) (value : BitVec 64)
  /-- A function-level reset of a virtual function starts a reset of its partition. (R449) -/
  | flr (vf : Nat)
  /-- Owner 0 requests a partition reset through Sextant. (R449) -/
  | sextantResetRequest (part : Nat) (value : BitVec 64)
  /-- A partition reset runs its seven steps within 2 ms. (R450) -/
  | partitionReset (part : Nat)
  /-- After a ZERO reset the partition's packages are cleared and STATE set. (R453) -/
  | zeroClear (part : Nat)
  /-- A module reset leaves one-die READY partitions and resets module state. (R439) -/
  | moduleReset
  /-- A die's ROM verifies the Sextant firmware image and boots or stays in boot. (R481) -/
  | dieBoot (die : Nat) (version : Nat) (image : Nat)
  /-- A write of a partition's die set is accepted or refused. (R455) -/
  | pdiesWrite (part : Nat) (value : BitVec 64)
  /-- A write configures a virtual function, effective at the next reset of its partition. (R443) -/
  | vfcfgWrite (vf : Nat) (value : BitVec 64)
  /-- Owner 0 writes an owner table entry through Sextant, refused if shares or floors overflow. (R417) -/
  | ownerTableWrite (die : Nat) (owner : Nat) (dword : Nat) (value : BitVec 64)
  /-- The scrub engine periodically reads and corrects on-chip state and packages. (R447) -/
  | scrubPass (die : Nat) (struct : Nat) (addr : Nat) (finding : Nat)
  /-- The thermal step rises when the hottest sensor passes its threshold. (R484) -/
  | thermalStepRise (die : Nat) (sensors : BitVec 64)
  /-- The thermal step falls by one after its dwell below the release bound. (R484) -/
  | thermalStepFall (die : Nat) (sensors : BitVec 64)
  /-- The power manager sets a new power step for the dies. (R484) -/
  | powerStepChange (w : BitVec 3)
  /-- A changed applied step takes effect at the next rotation and table period. (R484) -/
  | throttleStepApply (die : Nat)
  /-- Reaching TCRIT resets the die's partition as an unrecoverable fault. (R485) -/
  | thermalTrip (die : Nat) (sensors : BitVec 64)
  /-- A write to KICK signals a queue at the front-end die. (R461) -/
  | kick (part : Nat) (queue : Nat)
  /-- Deferred kicks are delivered at the earliest latency deadline. (R467) -/
  | kickDelivery (part : Nat)
  /-- The scheduler service maps, unmaps and displaces queues by priority. (R466) -/
  | schedulerRun (part : Nat)
  /-- A mapped queue reads and starts its next packet, or halts on a malformed one. (R463) -/
  | queuePacketStart (part : Nat) (queue : Nat)
  /-- A LAUNCH packet acts as lnch of the queue's owner. (R462) -/
  | launch (part : Nat) (packet : Nat)
  /-- A COPY packet copies bytes between host and device addresses. (R462) -/
  | copy (part : Nat) (packet : Nat)
  /-- A WAIT packet waits until a masked memory comparison holds. (R462) -/
  | wait (part : Nat) (packet : Nat)
  /-- A SIGNAL packet stores a value with release and sends a vector. (R462) -/
  | signal (part : Nat) (packet : Nat)
  /-- An INVOKE packet acts as rinv of the owner. (R462) -/
  | queueInvoke (part : Nat) (packet : Nat)
  /-- A TIMESTAMP packet stores module time. (R462) -/
  | timestamp (part : Nat) (packet : Nat)
  /-- A NOP packet completes at start. (R462) -/
  | nop (part : Nat) (packet : Nat)
  /-- A RESET_QUEUE packet discards unstarted packets and clears CDONE. (R462) -/
  | resetQueue (part : Nat) (packet : Nat)
  /-- A packet completes and CDONE is incremented as a release. (R463) -/
  | packetComplete (part : Nat) (packet : Nat)
  /-- A WAIT rereads its address after a store or every 1 µs. (R462) -/
  | waitReread (part : Nat) (packet : Nat)
  /-- A LAUNCH refused for full ready queues is retried after 1 µs. (R462) -/
  | launchRetry (part : Nat) (packet : Nat)
  /-- A queue INVOKE answered BUSY is retried after 1 µs. (R462) -/
  | invokeRetry (part : Nat) (packet : Nat)
  /-- An event is written to the Sextant event ring or sets OVF when full. (R472) -/
  | eventRecord (die : Nat) (d0 : BitVec 64) (d1 : BitVec 64) (d2 : BitVec 64) (d3 : BitVec 64)
  /-- Debug command reads a selected item of the target slot. (R473) -/
  | dbgRead (die : Nat)
  /-- Debug command writes a selected item of a stopped or held slot. (R473) -/
  | dbgWrite (die : Nat)
  /-- Debug command resumes a stopped thread at tepc. (R364) -/
  | dbgRelease (die : Nat)
  /-- Debug command sets the slot's HOLD bit. (R473) -/
  | dbgHold (die : Nat)
  /-- Debug command clears the slot's HOLD bit. (R473) -/
  | dbgUnhold (die : Nat)
  /-- A write to LDREQ makes the loader place an image on cores of a partition. (R49) -/
  | loadRequest (part : Nat) (addr : BitVec 64) (own : Bool)
  /-- A host CXL.mem request is served at the home slice of device memory. (R205) -/
  | hostMemRequest (part : Nat) (write : Bool) (offset : Nat) (data : List (BitVec 8))
  /-- An SPDM request returns the device certificate chain. (R482) -/
  | getCertificate (slot : Nat)
  /-- An SPDM challenge is answered with the Alias key. (R482) -/
  | challenge (nonce : BitVec 256)
  /-- An SPDM request returns the firmware and configuration measurements. (R482) -/
  | getMeasurements (index : Nat)
  /-- An SPDM key exchange establishes a session. (R482) -/
  | keyExchange (share : Nat)
  /-- On a host SPDM request the firmware raises the fused minimum security version. (R481) -/
  | raiseSecurityMinimum (version : Nat)
  /-- A write to a register without behaviour of its own sets fields by their access codes. (R9) -/
  | registerWrite (src : Nat) (die : Nat) (offset : Nat) (value : BitVec 64)
  /-- The host reads an offset of a function's BAR0; the row of register accesses runs it, since the table has none of its own
  (R476, log 108). -/
  | registerRead (fn : Nat) (offset : Nat)
  /-- Owner 0 changes the owner of a core that has no live thread. (R18) -/
  | coreOwnerAssign (core : Nat) (owner : Nat)
  /-- A pop at the receiving core becomes visible as room at the sender's out-port within 8 cycles. (R293) -/
  | portRoomReturn (core : Nat) (port : Nat)
  /-- A ctxout request reaches the target slot's core, which stops the thread and saves it into a frame. (R366) -/
  | ctxoutRequestArrival (id : Nat)
  /-- A ctxin request reaches the target core, which chooses a slot and restores the context. (R367) -/
  | ctxinRequestArrival (id : Nat)
  /-- The CXL host link trains, or trains down to a lower rate or width. (R474) -/
  | hostLinkTraining (rate : Nat) (width : Nat)
  /-- A trained Mynis link is lost, and traffic that depends on it is refused. (R486) -/
  | fabricLinkLost (port : Nat)
  /-- At each cycle Sextant selects the next ready hardware thread and issues one instruction. (R458) -/
  | sextantCycle (die : Nat)
  /-- A write to DMONSELn selects a die event and clears DMONn. (R488) -/
  | dmonselWrite (die : Nat) (index : Nat) (value : BitVec 64)
  /-- Owner 0 clears an owner's N and E counters through Sextant. (R428) -/
  | exceedanceCounterClear (die : Nat) (owner : Nat)
  /-- The host sends a CXL.cache coherence request for a host line that die 0's cache holds, found through the slice directory. (R421) -/
  | hostCoherenceRequest (line : Nat) (kind : Nat)
  deriving DecidableEq, Repr

/-- One instruction or event of the opcode table. -/
inductive Instr where
  /-- Writes the 20-bit immediate shifted left by 12 to xd. (R126) -/
  | lui (d : BitVec 5) (imm : BitVec 20)
  /-- Writes pc plus the sign-extended upper immediate to xd. (R126) -/
  | auipc (d : BitVec 5) (imm : BitVec 20)
  /-- Jumps pc-relative and writes pc+4 to xd. (R126) -/
  | jal (d : BitVec 5) (imm : BitVec 20)
  /-- Jumps to xs plus offset with bit 0 cleared and writes pc+4 to xd. (R126) -/
  | jalr (d : BitVec 5) (s : BitVec 5) (imm : BitVec 12)
  /-- Branches when xs1 equals xs2. (R126) -/
  | beq (s : BitVec 5) (t : BitVec 5) (imm : BitVec 12)
  /-- Branches when xs1 differs from xs2. (R126) -/
  | bne (s : BitVec 5) (t : BitVec 5) (imm : BitVec 12)
  /-- Branches when xs1 is signed-less than xs2. (R126) -/
  | blt (s : BitVec 5) (t : BitVec 5) (imm : BitVec 12)
  /-- Branches when xs1 is signed-greater-or-equal to xs2. (R126) -/
  | bge (s : BitVec 5) (t : BitVec 5) (imm : BitVec 12)
  /-- Branches when xs1 is unsigned-less than xs2. (R126) -/
  | bltu (s : BitVec 5) (t : BitVec 5) (imm : BitVec 12)
  /-- Branches when xs1 is unsigned-greater-or-equal to xs2. (R126) -/
  | bgeu (s : BitVec 5) (t : BitVec 5) (imm : BitVec 12)
  /-- Loads a sign-extended byte through a segment pointer. (R154) -/
  | lb (d : BitVec 5) (s : BitVec 5) (imm : BitVec 12)
  /-- Loads a sign-extended halfword. (R154) -/
  | lh (d : BitVec 5) (s : BitVec 5) (imm : BitVec 12)
  /-- Loads a sign-extended word. (R154) -/
  | lw (d : BitVec 5) (s : BitVec 5) (imm : BitVec 12)
  /-- Loads a doubleword. (R154) -/
  | ld (d : BitVec 5) (s : BitVec 5) (imm : BitVec 12)
  /-- Loads a zero-extended byte. (R154) -/
  | lbu (d : BitVec 5) (s : BitVec 5) (imm : BitVec 12)
  /-- Loads a zero-extended halfword. (R154) -/
  | lhu (d : BitVec 5) (s : BitVec 5) (imm : BitVec 12)
  /-- Loads a zero-extended word. (R154) -/
  | lwu (d : BitVec 5) (s : BitVec 5) (imm : BitVec 12)
  /-- Stores the low byte of xs2. (R155) -/
  | sb (t : BitVec 5) (s : BitVec 5) (imm : BitVec 12)
  /-- Stores the low halfword of xs2. (R155) -/
  | sh (t : BitVec 5) (s : BitVec 5) (imm : BitVec 12)
  /-- Stores the low word of xs2. (R155) -/
  | sw (t : BitVec 5) (s : BitVec 5) (imm : BitVec 12)
  /-- Stores the doubleword xs2. (R155) -/
  | sd (t : BitVec 5) (s : BitVec 5) (imm : BitVec 12)
  /-- Adds a sign-extended immediate. (R126) -/
  | addi (d : BitVec 5) (s : BitVec 5) (imm : BitVec 12)
  /-- Sets xd to 1 when xs is signed-less than the immediate. (R126) -/
  | slti (d : BitVec 5) (s : BitVec 5) (imm : BitVec 12)
  /-- Sets xd to 1 when xs is unsigned-less than the immediate. (R126) -/
  | sltiu (d : BitVec 5) (s : BitVec 5) (imm : BitVec 12)
  /-- Exclusive-ORs an immediate. (R126) -/
  | xori (d : BitVec 5) (s : BitVec 5) (imm : BitVec 12)
  /-- ORs an immediate. (R126) -/
  | ori (d : BitVec 5) (s : BitVec 5) (imm : BitVec 12)
  /-- ANDs an immediate. (R126) -/
  | andi (d : BitVec 5) (s : BitVec 5) (imm : BitVec 12)
  /-- Shifts left by a 6-bit amount. (R126) -/
  | slli (d : BitVec 5) (s : BitVec 5) (sh : BitVec 6)
  /-- Shifts right logically by a 6-bit amount. (R126) -/
  | srli (d : BitVec 5) (s : BitVec 5) (sh : BitVec 6)
  /-- Shifts right arithmetically by a 6-bit amount. (R126) -/
  | srai (d : BitVec 5) (s : BitVec 5) (sh : BitVec 6)
  /-- Adds an immediate in 32 bits and sign-extends. (R126) -/
  | addiw (d : BitVec 5) (s : BitVec 5) (imm : BitVec 12)
  /-- Shifts left in 32 bits. (R126) -/
  | slliw (d : BitVec 5) (s : BitVec 5) (sh : BitVec 5)
  /-- Shifts right logically in 32 bits. (R126) -/
  | srliw (d : BitVec 5) (s : BitVec 5) (sh : BitVec 5)
  /-- Shifts right arithmetically in 32 bits. (R126) -/
  | sraiw (d : BitVec 5) (s : BitVec 5) (sh : BitVec 5)
  /-- Adds two registers. (R126) -/
  | add (d : BitVec 5) (s : BitVec 5) (t : BitVec 5)
  /-- Subtracts two registers. (R126) -/
  | sub (d : BitVec 5) (s : BitVec 5) (t : BitVec 5)
  /-- Shifts left by a register amount. (R126) -/
  | sll (d : BitVec 5) (s : BitVec 5) (t : BitVec 5)
  /-- Signed compare, less-than. (R126) -/
  | slt (d : BitVec 5) (s : BitVec 5) (t : BitVec 5)
  /-- Unsigned compare, less-than. (R126) -/
  | sltu (d : BitVec 5) (s : BitVec 5) (t : BitVec 5)
  /-- Exclusive-ORs two registers. (R126) -/
  | xor (d : BitVec 5) (s : BitVec 5) (t : BitVec 5)
  /-- Shifts right logically by a register amount. (R126) -/
  | srl (d : BitVec 5) (s : BitVec 5) (t : BitVec 5)
  /-- Shifts right arithmetically by a register amount. (R126) -/
  | sra (d : BitVec 5) (s : BitVec 5) (t : BitVec 5)
  /-- ORs two registers. (R126) -/
  | or (d : BitVec 5) (s : BitVec 5) (t : BitVec 5)
  /-- ANDs two registers. (R126) -/
  | and (d : BitVec 5) (s : BitVec 5) (t : BitVec 5)
  /-- Multiplies, low 64 bits. (R126) -/
  | mul (d : BitVec 5) (s : BitVec 5) (t : BitVec 5)
  /-- Multiplies signed, high 64 bits. (R126) -/
  | mulh (d : BitVec 5) (s : BitVec 5) (t : BitVec 5)
  /-- Multiplies signed by unsigned, high 64 bits. (R126) -/
  | mulhsu (d : BitVec 5) (s : BitVec 5) (t : BitVec 5)
  /-- Multiplies unsigned, high 64 bits. (R126) -/
  | mulhu (d : BitVec 5) (s : BitVec 5) (t : BitVec 5)
  /-- Divides signed, with defined results for zero and overflow. (R126) -/
  | div (d : BitVec 5) (s : BitVec 5) (t : BitVec 5)
  /-- Divides unsigned. (R126) -/
  | divu (d : BitVec 5) (s : BitVec 5) (t : BitVec 5)
  /-- Signed remainder. (R126) -/
  | rem (d : BitVec 5) (s : BitVec 5) (t : BitVec 5)
  /-- Unsigned remainder. (R126) -/
  | remu (d : BitVec 5) (s : BitVec 5) (t : BitVec 5)
  /-- Adds in 32 bits and sign-extends. (R126) -/
  | addw (d : BitVec 5) (s : BitVec 5) (t : BitVec 5)
  /-- Subtracts in 32 bits. (R126) -/
  | subw (d : BitVec 5) (s : BitVec 5) (t : BitVec 5)
  /-- Shifts left in 32 bits. (R126) -/
  | sllw (d : BitVec 5) (s : BitVec 5) (t : BitVec 5)
  /-- Shifts right logically in 32 bits. (R126) -/
  | srlw (d : BitVec 5) (s : BitVec 5) (t : BitVec 5)
  /-- Shifts right arithmetically in 32 bits. (R126) -/
  | sraw (d : BitVec 5) (s : BitVec 5) (t : BitVec 5)
  /-- Multiplies in 32 bits. (R126) -/
  | mulw (d : BitVec 5) (s : BitVec 5) (t : BitVec 5)
  /-- Divides signed in 32 bits. (R126) -/
  | divw (d : BitVec 5) (s : BitVec 5) (t : BitVec 5)
  /-- Divides unsigned in 32 bits. (R126) -/
  | divuw (d : BitVec 5) (s : BitVec 5) (t : BitVec 5)
  /-- Signed remainder in 32 bits. (R126) -/
  | remw (d : BitVec 5) (s : BitVec 5) (t : BitVec 5)
  /-- Unsigned remainder in 32 bits. (R126) -/
  | remuw (d : BitVec 5) (s : BitVec 5) (t : BitVec 5)
  /-- Standard fence, executed as fence.s.full.sys whatever its sets. (R190) -/
  | fence (fm : BitVec 1) (pr : BitVec 4) (sc : BitVec 4)
  /-- Waits for S to drain and discards prefetched words so later fetches see changed code. (R352) -/
  | fenceI
  /-- Traps SOFT with TVAL and TINFO 0. (R349) -/
  | ecall
  /-- Traps BREAK. (R64) -/
  | ebreak
  /-- Swaps a CSR with a register. (R128) -/
  | csrrw (d : BitVec 5) (s : BitVec 5) (csr : BitVec 12)
  /-- Reads a CSR and sets bits from a register. (R128) -/
  | csrrs (d : BitVec 5) (s : BitVec 5) (csr : BitVec 12)
  /-- Reads a CSR and clears bits from a register. (R128) -/
  | csrrc (d : BitVec 5) (s : BitVec 5) (csr : BitVec 12)
  /-- Swaps a CSR with a 5-bit immediate. (R128) -/
  | csrrwi (d : BitVec 5) (csr : BitVec 12) (uimm : BitVec 5)
  /-- Reads a CSR and sets immediate bits. (R128) -/
  | csrrsi (d : BitVec 5) (csr : BitVec 12) (uimm : BitVec 5)
  /-- Reads a CSR and clears immediate bits. (R128) -/
  | csrrci (d : BitVec 5) (csr : BitVec 12) (uimm : BitVec 5)
  /-- Loads a word and sets the thread's reservation on its granule. (R156) -/
  | lrW (d : BitVec 5) (s : BitVec 5) (aq : BitVec 1) (rl : BitVec 1)
  /-- Loads a doubleword and sets the reservation. (R156) -/
  | lrD (d : BitVec 5) (s : BitVec 5) (aq : BitVec 1) (rl : BitVec 1)
  /-- Stores a word when the reservation holds, returning 0 or 1. (R156) -/
  | scW (d : BitVec 5) (s : BitVec 5) (t : BitVec 5) (aq : BitVec 1) (rl : BitVec 1)
  /-- Stores a doubleword when the reservation holds. (R156) -/
  | scD (d : BitVec 5) (s : BitVec 5) (t : BitVec 5) (aq : BitVec 1) (rl : BitVec 1)
  /-- Atomically swaps a word. (R158) -/
  | amoswapW (d : BitVec 5) (s : BitVec 5) (t : BitVec 5) (aq : BitVec 1) (rl : BitVec 1)
  /-- Atomically swaps a doubleword. (R158) -/
  | amoswapD (d : BitVec 5) (s : BitVec 5) (t : BitVec 5) (aq : BitVec 1) (rl : BitVec 1)
  /-- Atomically adds to a word. (R158) -/
  | amoaddW (d : BitVec 5) (s : BitVec 5) (t : BitVec 5) (aq : BitVec 1) (rl : BitVec 1)
  /-- Atomically adds to a doubleword. (R158) -/
  | amoaddD (d : BitVec 5) (s : BitVec 5) (t : BitVec 5) (aq : BitVec 1) (rl : BitVec 1)
  /-- Atomically exclusive-ORs a word. (R158) -/
  | amoxorW (d : BitVec 5) (s : BitVec 5) (t : BitVec 5) (aq : BitVec 1) (rl : BitVec 1)
  /-- Atomically exclusive-ORs a doubleword. (R158) -/
  | amoxorD (d : BitVec 5) (s : BitVec 5) (t : BitVec 5) (aq : BitVec 1) (rl : BitVec 1)
  /-- Atomically ANDs a word. (R158) -/
  | amoandW (d : BitVec 5) (s : BitVec 5) (t : BitVec 5) (aq : BitVec 1) (rl : BitVec 1)
  /-- Atomically ANDs a doubleword. (R158) -/
  | amoandD (d : BitVec 5) (s : BitVec 5) (t : BitVec 5) (aq : BitVec 1) (rl : BitVec 1)
  /-- Atomically ORs a word. (R158) -/
  | amoorW (d : BitVec 5) (s : BitVec 5) (t : BitVec 5) (aq : BitVec 1) (rl : BitVec 1)
  /-- Atomically ORs a doubleword. (R158) -/
  | amoorD (d : BitVec 5) (s : BitVec 5) (t : BitVec 5) (aq : BitVec 1) (rl : BitVec 1)
  /-- Atomic signed minimum on a word. (R158) -/
  | amominW (d : BitVec 5) (s : BitVec 5) (t : BitVec 5) (aq : BitVec 1) (rl : BitVec 1)
  /-- Atomic signed minimum on a doubleword. (R158) -/
  | amominD (d : BitVec 5) (s : BitVec 5) (t : BitVec 5) (aq : BitVec 1) (rl : BitVec 1)
  /-- Atomic signed maximum on a word. (R158) -/
  | amomaxW (d : BitVec 5) (s : BitVec 5) (t : BitVec 5) (aq : BitVec 1) (rl : BitVec 1)
  /-- Atomic signed maximum on a doubleword. (R158) -/
  | amomaxD (d : BitVec 5) (s : BitVec 5) (t : BitVec 5) (aq : BitVec 1) (rl : BitVec 1)
  /-- Atomic unsigned minimum on a word. (R158) -/
  | amominuW (d : BitVec 5) (s : BitVec 5) (t : BitVec 5) (aq : BitVec 1) (rl : BitVec 1)
  /-- Atomic unsigned minimum on a doubleword. (R158) -/
  | amominuD (d : BitVec 5) (s : BitVec 5) (t : BitVec 5) (aq : BitVec 1) (rl : BitVec 1)
  /-- Atomic unsigned maximum on a word. (R158) -/
  | amomaxuW (d : BitVec 5) (s : BitVec 5) (t : BitVec 5) (aq : BitVec 1) (rl : BitVec 1)
  /-- Atomic unsigned maximum on a doubleword. (R158) -/
  | amomaxuD (d : BitVec 5) (s : BitVec 5) (t : BitVec 5) (aq : BitVec 1) (rl : BitVec 1)
  /-- Atomically adds an FP32 value to a word with RNE and returns the old value. (R159) -/
  | amofaddS (d : BitVec 5) (a : BitVec 5) (b : BitVec 5) (aq : BitVec 1) (rl : BitVec 1)
  /-- Loads a tile descriptor from a 16-byte local image. (R257) -/
  | tdef (d : BitVec 4) (a : BitVec 5)
  /-- Sets the valid rows and columns of a tile. (R258) -/
  | tshape (d : BitVec 4) (a : BitVec 5) (b : BitVec 5)
  /-- Writes the low bits of xs into every valid element. (R260) -/
  | tfill (d : BitVec 4) (a : BitVec 5)
  /-- Reads a selected descriptor field into xd. (R259) -/
  | txget (d : BitVec 5) (a : BitVec 4) (b : BitVec 5)
  /-- Writes a selected descriptor field. (R259) -/
  | txset (d : BitVec 4) (a : BitVec 5) (b : BitVec 5)
  /-- Elementwise addition with one rounding. (R261) -/
  | tadd (d : BitVec 4) (a : BitVec 5) (b : BitVec 5) (rm : BitVec 2)
  /-- Elementwise subtraction. (R261) -/
  | tsub (d : BitVec 4) (a : BitVec 5) (b : BitVec 5) (rm : BitVec 2)
  /-- Elementwise multiplication. (R261) -/
  | tmul (d : BitVec 4) (a : BitVec 5) (b : BitVec 5) (rm : BitVec 2)
  /-- Elementwise fused multiply-add into the destination. (R261) -/
  | tfma (d : BitVec 4) (a : BitVec 5) (b : BitVec 5) (rm : BitVec 2)
  /-- Elementwise minimum. (R262) -/
  | tmin (d : BitVec 4) (a : BitVec 5) (b : BitVec 5) (rm : BitVec 2)
  /-- Elementwise maximum. (R262) -/
  | tmax (d : BitVec 4) (a : BitVec 5) (b : BitVec 5) (rm : BitVec 2)
  /-- Elementwise correctly rounded division. (R261) -/
  | tdiv (d : BitVec 4) (a : BitVec 5) (b : BitVec 5) (rm : BitVec 2)
  /-- Elementwise absolute value. (R263) -/
  | tabs (d : BitVec 4) (a : BitVec 5)
  /-- Elementwise negation. (R263) -/
  | tneg (d : BitVec 4) (a : BitVec 5)
  /-- Bitwise AND of encodings. (R264) -/
  | tand (d : BitVec 4) (a : BitVec 5) (b : BitVec 5)
  /-- Bitwise OR of encodings. (R264) -/
  | tor (d : BitVec 4) (a : BitVec 5) (b : BitVec 5)
  /-- Bitwise exclusive OR of encodings. (R264) -/
  | txor (d : BitVec 4) (a : BitVec 5) (b : BitVec 5)
  /-- Selects ta or tb per element by the destination's mask. (R265) -/
  | tsel (d : BitVec 4) (a : BitVec 5) (b : BitVec 5)
  /-- Elementwise comparison writing 1 or 0. (R266) -/
  | tcmp (d : BitVec 4) (a : BitVec 5) (b : BitVec 5) (cond : BitVec 3)
  /-- Elementwise e^x by rounding table edition 1. (R267) -/
  | texp (d : BitVec 4) (a : BitVec 5) (rm : BitVec 2)
  /-- Elementwise 2^x. (R267) -/
  | texp2 (d : BitVec 4) (a : BitVec 5) (rm : BitVec 2)
  /-- Elementwise natural logarithm. (R267) -/
  | tlog (d : BitVec 4) (a : BitVec 5) (rm : BitVec 2)
  /-- Elementwise base-2 logarithm. (R267) -/
  | tlog2 (d : BitVec 4) (a : BitVec 5) (rm : BitVec 2)
  /-- Elementwise square root. (R267) -/
  | tsqrt (d : BitVec 4) (a : BitVec 5) (rm : BitVec 2)
  /-- Elementwise reciprocal square root. (R267) -/
  | trsqrt (d : BitVec 4) (a : BitVec 5) (rm : BitVec 2)
  /-- Elementwise reciprocal. (R267) -/
  | trcp (d : BitVec 4) (a : BitVec 5) (rm : BitVec 2)
  /-- Elementwise sine. (R267) -/
  | tsin (d : BitVec 4) (a : BitVec 5) (rm : BitVec 2)
  /-- Elementwise cosine. (R267) -/
  | tcos (d : BitVec 4) (a : BitVec 5) (rm : BitVec 2)
  /-- Elementwise hyperbolic tangent. (R267) -/
  | ttanh (d : BitVec 4) (a : BitVec 5) (rm : BitVec 2)
  /-- Converts each element to the destination format under a rounding mode. (R268) -/
  | tcvt (d : BitVec 4) (a : BitVec 5) (rm : BitVec 2)
  /-- Converts with stochastic rounding from a generator's hash. (R268) -/
  | tcvtSr (d : BitVec 4) (g : BitVec 3) (a : BitVec 5)
  /-- Quantises blocks to a block-scaled format, writing scales and elements. (R269) -/
  | tqnt (d : BitVec 4) (a : BitVec 4) (ns : BitVec 1)
  /-- Reduces by the fixed tree along an axis. (R271) -/
  | tsum (d : BitVec 4) (a : BitVec 5) (axis : BitVec 3)
  /-- Reduces to the maximum along an axis. (R272) -/
  | trmax (d : BitVec 4) (a : BitVec 5) (axis : BitVec 3)
  /-- Writes the position of the first maximum along an axis. (R273) -/
  | targmax (d : BitVec 4) (a : BitVec 5) (axis : BitVec 3)
  /-- Broadcasts a row or column across the destination. (R274) -/
  | tbcast (d : BitVec 4) (a : BitVec 5) (axis : BitVec 1)
  /-- Writes the transpose of a tile. (R275) -/
  | ttrans (d : BitVec 4) (a : BitVec 4)
  /-- Prunes rows 2:4 and writes kept values and metadata. (R276) -/
  | tsparse (d : BitVec 4) (a : BitVec 4)
  /-- Accumulates one K chunk of A times B into C, block by block. (R305) -/
  | mma (gA : BitVec 1) (b : BitVec 4) (a : BitVec 4) (c : BitVec 4) (gB : BitVec 1) (sat : BitVec 1) (z : BitVec 1) (tb : BitVec 1)
  /-- Matrix multiply with A compressed 2:4 along K via side-store metadata. (R315) -/
  | mmas (moff : BitVec 4) (b : BitVec 4) (a : BitVec 4) (c : BitVec 4) (gB : BitVec 1) (sat : BitVec 1) (z : BitVec 1) (tb : BitVec 1)
  /-- Matrix multiply with A rows gathered through an index tile. (R313) -/
  | mmag (b : BitVec 4) (a : BitVec 4) (c : BitVec 4) (sat : BitVec 1) (z : BitVec 1) (tb : BitVec 1)
  /-- Copies a UINT8 tile into the core's side-store slice. (R316) -/
  | mdld (a : BitVec 4) (b : BitVec 5)
  /-- Zeroes a range of the core's side-store slice. (R316) -/
  | mdclr (a : BitVec 5)
  /-- Writes eight entries of the octet's Vernier table. (R323) -/
  | mitw (a : BitVec 5) (b : BitVec 5)
  /-- Loads a generator register from a 32-byte image. (R336) -/
  | gset (g : BitVec 3) (a : BitVec 5)
  /-- Stores a generator register's image to local store. (R337) -/
  | gget (g : BitVec 3) (a : BitVec 5)
  /-- Sets a generator's SEED field. (R338) -/
  | gseed (g : BitVec 3) (a : BitVec 5)
  /-- Fills a tile with generator values on the Gnomon unit. (R339) -/
  | gfill (d : BitVec 4) (g : BitVec 3)
  /-- Captures the next n instructions and reissues them m times with staggered operands. (R321) -/
  | rpt (a : BitVec 5) (m : BitVec 9) (n : BitVec 3)
  /-- Loads a doubleword with acquire at a scope. (R160) -/
  | ldAq (scope : BitVec 3) (d : BitVec 5) (a : BitVec 5) (off : BitVec 9)
  /-- Stores a doubleword with release at a scope. (R160) -/
  | sdRl (scope : BitVec 3) (b : BitVec 5) (a : BitVec 5) (off : BitVec 9)
  /-- Waits for a full word, reads it and sets it empty. (R161) -/
  | ldfe (d : BitVec 5) (a : BitVec 5) (off : BitVec 9)
  /-- Waits for a full word and reads it, leaving it full. (R161) -/
  | ldff (d : BitVec 5) (a : BitVec 5) (off : BitVec 9)
  /-- Waits for an empty word, writes it and sets it full. (R161) -/
  | stfe (b : BitVec 5) (a : BitVec 5) (off : BitVec 9)
  /-- Writes a word and sets it full unconditionally. (R161) -/
  | stff (b : BitVec 5) (a : BitVec 5) (off : BitVec 9)
  /-- Sets a word's full/empty bit to EMPTY and serves waiters. (R162) -/
  | fesetE (a : BitVec 5) (off : BitVec 12)
  /-- Sets a word's full/empty bit to FULL and serves waiters. (R162) -/
  | fesetF (a : BitVec 5) (off : BitVec 12)
  /-- Invalidates the core-cache line holding the target. (R162) -/
  | cinv (a : BitVec 5) (off : BitVec 12)
  /-- Writes back the dirty sectors of a die-cache line. (R162) -/
  | cflush (a : BitVec 5) (off : BitVec 12)
  /-- Prefetches a line into the core cache, never trapping. (R162) -/
  | pref (a : BitVec 5) (off : BitVec 12)
  /-- Scoped acquire, release or full fence probing touched banks. (R189) -/
  | fenceS (kind : BitVec 2) (scope : BitVec 3)
  /-- Arrives at a barrier with release and leaves with acquire when its generation is released. (R195) -/
  | bar (a : BitVec 5)
  /-- Initialises a barrier block at its bank. (R194) -/
  | barinit (a : BitVec 5) (b : BitVec 5) (scope : BitVec 3)
  /-- Copies memory rows into a tile with conversion. (R283) -/
  | cpyLd (d : BitVec 4) (a : BitVec 5) (b : BitVec 5)
  /-- Decodes PX8 rows into an FP8E4 tile. (R286) -/
  | cpyLdPx8 (d : BitVec 4) (a : BitVec 5) (b : BitVec 5)
  /-- Copies a tile into memory rows with conversion. (R283) -/
  | cpySt (t : BitVec 4) (a : BitVec 5) (b : BitVec 5)
  /-- Encodes an FP8E4 tile into PX8 rows. (R286) -/
  | cpyStPx8 (t : BitVec 4) (a : BitVec 5) (b : BitVec 5)
  /-- Copies a tile into a tile of a core in the cluster. (R287) -/
  | cpyTt (d : BitVec 4) (a : BitVec 4) (b : BitVec 5)
  /-- Compresses FP32 values within an error bound into a stream. (R297) -/
  | czip (d : BitVec 5) (a : BitVec 5)
  /-- Decodes an error-bounded stream into FP32 values. (R298) -/
  | cunzip (d : BitVec 5) (a : BitVec 5)
  /-- Contributes a tile to an ordered reduction. (R300) -/
  | red (t : BitVec 4) (a : BitVec 5) (b : BitVec 5)
  /-- Starts a stream of words from memory into the in-port. (R295) -/
  | sbind (a : BitVec 5) (b : BitVec 5)
  /-- Reads a transfer's status or the next sequence. (R289) -/
  | cstat (d : BitVec 5) (a : BitVec 5)
  /-- Stops one or all running transfers of the thread. (R290) -/
  | ccancel (a : BitVec 5)
  /-- Creates a group on one core of the die from a record. (R390) -/
  | gspawn (d : BitVec 5) (a : BitVec 5)
  /-- Submits a launch record to the launch unit. (R389) -/
  | lnch (d : BitVec 5) (a : BitVec 5)
  /-- Allocates a dependency counter. (R392) -/
  | cntnew (d : BitVec 5) (a : BitVec 5)
  /-- Binds a launch record to a counter. (R393) -/
  | cntbind (a : BitVec 5) (b : BitVec 5)
  /-- Decrements a counter as a release. (R394) -/
  | cntdec (a : BitVec 5)
  /-- Frees a counter. (R395) -/
  | cntfree (a : BitVec 5)
  /-- Sends a keyed message to a logical index. (R396) -/
  | msend (a : BitVec 5) (b : BitVec 5)
  /-- Waits for and takes a keyed message. (R396) -/
  | mrecv (d : BitVec 5) (a : BitVec 5)
  /-- Gives the thread its next logical task. (R391) -/
  | tnext (d : BitVec 5)
  /-- Reports a finished phase and waits within lead allowances. (R397) -/
  | phase (a : BitVec 5)
  /-- Parks until the outstanding counters fall to the given bounds. (R191) -/
  | waitc (l : BitVec 3) (s : BitVec 3) (c : BitVec 3) (t : BitVec 3)
  /-- Waits with a limit for a port to have a word or room. (R398) -/
  | qwait (a : BitVec 5) (imm : BitVec 12)
  /-- Waits with a limit for a ring to hold data or room. (R399) -/
  | rwait (a : BitVec 5) (imm : BitVec 12)
  /-- Waits for counters to drain and ends the thread. (R135) -/
  | quit
  /-- Sets the consumer count for the next instruction's destination. (R130) -/
  | ccnt (n : BitVec 4)
  /-- Releases a register entry at once. (R131) -/
  | rel (a : BitVec 5)
  /-- Creates a thread on a core of the cluster, reporting the result in xd. (R133) -/
  | spawn (d : BitVec 5) (a : BitVec 5) (b : BitVec 5)
  /-- Returns from a trap and reissues held operations. (R350) -/
  | tret
  /-- Parks until an asynchronous trap is pending. (R351) -/
  | wfi
  /-- Sets the core's execute boundary. (R353) -/
  | exbset (a : BitVec 5)
  /-- Loads a segment register from an image. (R355) -/
  | segset (g : BitVec 3) (a : BitVec 5)
  /-- Saves a sibling thread into a context frame. (R366) -/
  | ctxout (d : BitVec 5) (a : BitVec 5)
  /-- Restores a saved context into a slot of a target core. (R367) -/
  | ctxinRestore (d : BitVec 5) (a : BitVec 5)
  /-- Discards a saved context, ending its thread. (R367) -/
  | ctxinDiscard (d : BitVec 5) (a : BitVec 5)
  /-- Writes a watchpoint of the thread. (R360) -/
  | watch (a : BitVec 5) (b : BitVec 5)
  /-- Locks a local-store bank for the thread. (R356) -/
  | lockb (a : BitVec 5)
  /-- Releases the thread's bank lock. (R358) -/
  | unlockb (a : BitVec 5)
  /-- Writes eight entries of the shadow rotation table. (R368) -/
  | rotwWriteShadow (a : BitVec 5) (b : BitVec 5)
  /-- Writes a slot's HOLD and ELASTIC bits. (R368) -/
  | rotwWriteAttributes (a : BitVec 5) (b : BitVec 5)
  /-- Checks and commits the shadow table. (R368) -/
  | rotwCommit (a : BitVec 5) (b : BitVec 5)
  /-- Copies the table in force into the shadow. (R368) -/
  | rotwCopy (a : BitVec 5) (b : BitVec 5)
  /-- Sends an invocation request and receives a status. (R401) -/
  | rinv (d : BitVec 5) (a : BitVec 5) (b : BitVec 5)
  /-- Sends an invocation request and awaits a reply value. (R401) -/
  | rinvr (d : BitVec 5) (a : BitVec 5) (b : BitVec 5)
  /-- Sends a reply value to a requester's token. (R411) -/
  | rreply (a : BitVec 5) (b : BitVec 5)
  /-- Writes an import table entry on every die of the partition. (R413) -/
  | impset (a : BitVec 5) (b : BitVec 5)
  /-- Writes an export table entry. (R413) -/
  | expset (a : BitVec 5) (b : BitVec 5)
  /-- Writes a handler table entry. (R413) -/
  | htset (a : BitVec 5) (b : BitVec 5)
  /-- Reads the owner's seed generation, sweep bit and digest. (R433) -/
  | oseed (d : BitVec 5)
  /-- Reseeds the issuing owner on every die of its partition. (R434) -/
  | oreeseed (d : BitVec 5) (a : BitVec 5)
  /-- Returns a draw of the owner's generator. (R435) -/
  | odraw (d : BitVec 5) (a : BitVec 5) (b : BitVec 5)
  /-- Reports placement of a pointer's line or page. (R436) -/
  | oplace (d : BitVec 5) (a : BitVec 5) (b : BitVec 5)
  /-- Returns the stated interference bound or measured exceedances. (R437) -/
  | oxq (d : BitVec 5) (a : BitVec 5) (b : BitVec 5)
  /-- Returns the owner's floor, shares and start for a class. (R438) -/
  | oshare (d : BitVec 5) (a : BitVec 5)
  /-- Sextant waits for a new write offset of the bound queue. (R468) -/
  | wpkQueue (d : BitVec 5) (a : BitVec 5)
  /-- Sextant waits for a nonzero pending vector. (R468) -/
  | wpkPending (d : BitVec 5) (a : BitVec 5)
  /-- Sextant waits for an unread event record. (R468) -/
  | wpkEvent (d : BitVec 5) (a : BitVec 5)
  /-- Sextant kicks a queue without deferral. (R469) -/
  | qkick (a : BitVec 5)
  /-- Reads 64 bits of the pending vector. (R470) -/
  | qstatReadPending (d : BitVec 5) (a : BitVec 5)
  /-- Reads and clears one pending bit. (R470) -/
  | qstatClearPending (d : BitVec 5) (a : BitVec 5)
  /-- Binds or unbinds a queue thread slot. (R470) -/
  | qstatBind (d : BitVec 5) (a : BitVec 5)
  /-- Reads a queue thread slot's map entry. (R470) -/
  | qstatReadSlot (d : BitVec 5) (a : BitVec 5)
  /-- Traps SOFT with the immediate code in TVAL. (R349) -/
  | trap (imm : BitVec 12)
  /-- At each rotation position the core selects at most one eligible slot to issue. (R110) -/
  | rotationPosition
  /-- A parked thread's condition is met and it becomes eligible to reissue. (R114) -/
  | parkWake
  /-- A committed rotation table takes effect at position 0 of the next rotation. (R107) -/
  | rotationTableSwitch
  /-- A PENDING entry receives its value, error or refusal and becomes PRESENT. (R120) -/
  | registerValueArrival
  /-- A spawn reaches its target core and a slot is taken or refused. (R134) -/
  | spawnArrival
  /-- A load, store or atomic is performed at its bank or slice. (R143) -/
  | memoryAccessArrival
  /-- A full/empty access reaches the place holding its word and proceeds or joins the wait list. (R151) -/
  | feAccessArrival
  /-- A request refused by a full wait list is reissued after its backoff. (R152) -/
  | feListRetry
  /-- A reservation is lost 4,096 cycles after its LR. (R156) -/
  | reservationExpiry
  /-- A line held in the cluster merge buffer is dropped after 32 cycles. (R149) -/
  | mergeBufferExpiry
  /-- An acceptance frees a journal entry, or a refusal records its reason for an asynchronous trap. (R200) -/
  | postedAnswerArrival
  /-- An echo from a probed point reaches the releasing thread. (R186) -/
  | fenceEchoArrival
  /-- The block's bank performs or refuses a barinit. (R194) -/
  | barinitAtBank
  /-- An arrival is counted at the block's bank and a last arrival releases the generation. (R195) -/
  | barrierArrival
  /-- A barrier release message reaches a core of the unit and wakes its members. (R196) -/
  | barrierReleaseDelivery
  /-- A write request at a die-cache slice is applied or answered from the replay filter. (R214) -/
  | sliceWrite
  /-- An unanswered request is replayed, or refused or faulted after three replays. (R214) -/
  | requestReplayTimeout
  /-- A requester's acknowledgement frees the slice's replay filter entry. (R214) -/
  | replayAck
  /-- A slice sends Sextant a debug event for a matched write once performed at .part. (R216) -/
  | bankWatchEvent
  /-- A copy engine translates, takes, writes and gives up one destination unit. (R206) -/
  | copyUnitWrite
  /-- A transfer writes its final status into the ring and C falls. (R278) -/
  | copyCompletion
  /-- The reduction engine checks and stages a contribution or refuses it. (R300) -/
  | redContributionArrival
  /-- With all contributions present the engine delivers the tree sum and clears the round. (R301) -/
  | reductionDelivery
  /-- A walker reads the three table levels for a pending entry and fills, faults or denies. (R225) -/
  | pageWalk
  /-- A recorded fault notifies the Sextant pager or sends the host MSI-X vector. (R231) -/
  | pagerNotice
  /-- Marks a buffered fault's pending entry RESOLVED and frees the buffer entry. (R232) -/
  | fbcmdMapped
  /-- Marks a buffered fault's pending entry DENIED and frees the buffer entry. (R232) -/
  | fbcmdDeny
  /-- Frees resolved, faulted and denied entries and wakes or traps their requesters. (R233) -/
  | fbcmdReplayAll
  /-- Removes an owner's translations for a range from every TLB of the partition. (R235) -/
  | fbcmdInval
  /-- Starts migration of a 64 KiB page to a new frame. (R238) -/
  | fbcmdMigrate
  /-- BUSY clears once removal is acknowledged and affected accesses are performed. (R235) -/
  | invalComplete
  /-- A running migration finishes copying, rewrites the leaf, invalidates and reports in MIGSTAT. (R238) -/
  | migrationComplete
  /-- The tile datapath reads and writes one 8-row strip of the head operation. (R247) -/
  | tileStrip
  /-- Every 4 cycles the matrix unit serves one table entry for a core or a lending sibling. (R308) -/
  | vernierEntry
  /-- A Vernier write takes effect at entry 0 of the next table period. (R323) -/
  | vernierTableSwitch
  /-- The sequencer reissues a captured word into its queue once room allows. (R321) -/
  | rptReissue
  /-- A pushed word enters the receiving core's port queue. (R293) -/
  | portWordArrival
  /-- A stream reads a word and pushes it into the copy-stream queue when there is room. (R295) -/
  | sbindStreamPush
  /-- A bank lock is granted once earlier foreign accesses and strips on the bank are done. (R356) -/
  | bankLockGrant
  /-- A lock held LIMIT cycles is released and LOCK_TIMEOUT raised in the holder. (R359) -/
  | lockTimeout
  /-- The launch unit places a waiting launch's slots on a core that has them free. (R374) -/
  | launchPlacement
  /-- A waiting launch's effective level rises for each 64 µs waited. (R378) -/
  | launchAgeing
  /-- When all threads of a launch end, its DONE counter is decremented and its messages discarded. (R371) -/
  | launchDone
  /-- The counter table applies a decrement, enqueueing a bound task at zero. (R381) -/
  | counterDecrement
  /-- The counter table applies a bind. (R381) -/
  | counterBind
  /-- The counter table applies a free. (R381) -/
  | counterFree
  /-- A message enters the home die's store and wakes a parked receiver. (R384) -/
  | messageStoreArrival
  /-- A phase report is recorded at the paired slot. (R386) -/
  | phaseReportArrival
  /-- A qwait's cycle limit passes without its condition and it traps. (R398) -/
  | qtimeout
  /-- An rwait rereads its ring control block after a store or 256 cycles. (R399) -/
  | rwaitPoll
  /-- An rwait's cycle limit passes and it traps. (R399) -/
  | rtimeout
  /-- An INVOKE packet is admitted to a queue or spill ring, or refused, and answered. (R407) -/
  | invoke
  /-- The head of a handler's spill ring moves into its priority queue. (R408) -/
  | spillRingMove
  /-- A queue head is placed as a group on a core of the handler's owner. (R409) -/
  | invocationPlacement
  /-- A REPLY packet reaches the requester's die and is taken or dropped. (R411) -/
  | reply
  /-- An ANSWER packet delivers an invocation status to the requester. (R401) -/
  | answer
  /-- A fabric WRITE packet is checked and performed in the exporter's space. (R479) -/
  | write
  /-- A fabric READ packet is checked and answered with data. (R479) -/
  | read
  /-- A fabric ATOMIC packet is checked and performed, returning the old value. (R479) -/
  | atomic
  /-- A fabric COUNTER packet decrements a counter and is answered. (R479) -/
  | counter
  /-- A received PAUSE stops injection of a traffic class. (R415) -/
  | pause
  /-- A received RESUME restarts injection of a class. (R415) -/
  | resume
  /-- A buffer above threshold repeats its PAUSE every 1 µs. (R415) -/
  | pauseRepeat
  /-- A flit is checked by CRC and its packet beats and control fields taken. (R478) -/
  | flitReceive
  /-- A Mynis port trains its link, or stays down and refuses traffic. (R477) -/
  | linkTraining
  /-- A contended point draws per owner and lets one owner serve a request. (R424) -/
  | arbitrationRound
  /-- A fill places a line in its set, choosing a victim by the owner draw. (R423) -/
  | dieCacheFill
  /-- A slice sweeper visits a set and relocates its retiring lines. (R430) -/
  | sweeperVisit
  /-- A PCMD write with RESET requests a partition reset with ZERO and RELEASE options. (R449) -/
  | pcmdReset
  /-- A function-level reset of a virtual function starts a reset of its partition. (R449) -/
  | flr
  /-- Owner 0 requests a partition reset through Sextant. (R449) -/
  | sextantResetRequest
  /-- A partition reset runs its seven steps within 2 ms. (R450) -/
  | partitionReset
  /-- After a ZERO reset the partition's packages are cleared and STATE set. (R453) -/
  | zeroClear
  /-- A module reset leaves one-die READY partitions and resets module state. (R439) -/
  | moduleReset
  /-- A die's ROM verifies the Sextant firmware image and boots or stays in boot. (R481) -/
  | dieBoot
  /-- A write of a partition's die set is accepted or refused. (R455) -/
  | pdiesWrite
  /-- A write configures a virtual function, effective at the next reset of its partition. (R443) -/
  | vfcfgWrite
  /-- Owner 0 writes an owner table entry through Sextant, refused if shares or floors overflow. (R417) -/
  | ownerTableWrite
  /-- The scrub engine periodically reads and corrects on-chip state and packages. (R447) -/
  | scrubPass
  /-- The thermal step rises when the hottest sensor passes its threshold. (R484) -/
  | thermalStepRise
  /-- The thermal step falls by one after its dwell below the release bound. (R484) -/
  | thermalStepFall
  /-- The power manager sets a new power step for the dies. (R484) -/
  | powerStepChange
  /-- A changed applied step takes effect at the next rotation and table period. (R484) -/
  | throttleStepApply
  /-- Reaching TCRIT resets the die's partition as an unrecoverable fault. (R485) -/
  | thermalTrip
  /-- A write to KICK signals a queue at the front-end die. (R461) -/
  | kick
  /-- Deferred kicks are delivered at the earliest latency deadline. (R467) -/
  | kickDelivery
  /-- The scheduler service maps, unmaps and displaces queues by priority. (R466) -/
  | schedulerRun
  /-- A mapped queue reads and starts its next packet, or halts on a malformed one. (R463) -/
  | queuePacketStart
  /-- A LAUNCH packet acts as lnch of the queue's owner. (R462) -/
  | launch
  /-- A COPY packet copies bytes between host and device addresses. (R462) -/
  | copy
  /-- A WAIT packet waits until a masked memory comparison holds. (R462) -/
  | wait
  /-- A SIGNAL packet stores a value with release and sends a vector. (R462) -/
  | signal
  /-- An INVOKE packet acts as rinv of the owner. (R462) -/
  | queueInvoke
  /-- A TIMESTAMP packet stores module time. (R462) -/
  | timestamp
  /-- A NOP packet completes at start. (R462) -/
  | nop
  /-- A RESET_QUEUE packet discards unstarted packets and clears CDONE. (R462) -/
  | resetQueue
  /-- A packet completes and CDONE is incremented as a release. (R463) -/
  | packetComplete
  /-- A WAIT rereads its address after a store or every 1 µs. (R462) -/
  | waitReread
  /-- A LAUNCH refused for full ready queues is retried after 1 µs. (R462) -/
  | launchRetry
  /-- A queue INVOKE answered BUSY is retried after 1 µs. (R462) -/
  | invokeRetry
  /-- An event is written to the Sextant event ring or sets OVF when full. (R472) -/
  | eventRecord
  /-- Debug command reads a selected item of the target slot. (R473) -/
  | dbgRead
  /-- Debug command writes a selected item of a stopped or held slot. (R473) -/
  | dbgWrite
  /-- Debug command resumes a stopped thread at tepc. (R364) -/
  | dbgRelease
  /-- Debug command sets the slot's HOLD bit. (R473) -/
  | dbgHold
  /-- Debug command clears the slot's HOLD bit. (R473) -/
  | dbgUnhold
  /-- A write to LDREQ makes the loader place an image on cores of a partition. (R49) -/
  | loadRequest
  /-- A host CXL.mem request is served at the home slice of device memory. (R205) -/
  | hostMemRequest
  /-- An SPDM request returns the device certificate chain. (R482) -/
  | getCertificate
  /-- An SPDM challenge is answered with the Alias key. (R482) -/
  | challenge
  /-- An SPDM request returns the firmware and configuration measurements. (R482) -/
  | getMeasurements
  /-- An SPDM key exchange establishes a session. (R482) -/
  | keyExchange
  /-- On a host SPDM request the firmware raises the fused minimum security version. (R481) -/
  | raiseSecurityMinimum
  /-- A write to a register without behaviour of its own sets fields by their access codes. (R9) -/
  | registerWrite
  /-- Owner 0 changes the owner of a core that has no live thread. (R18) -/
  | coreOwnerAssign
  /-- A pop at the receiving core becomes visible as room at the sender's out-port within 8 cycles. (R293) -/
  | portRoomReturn
  /-- A ctxout request reaches the target slot's core, which stops the thread and saves it into a frame. (R366) -/
  | ctxoutRequestArrival
  /-- A ctxin request reaches the target core, which chooses a slot and restores the context. (R367) -/
  | ctxinRequestArrival
  /-- The CXL host link trains, or trains down to a lower rate or width. (R474) -/
  | hostLinkTraining
  /-- A trained Mynis link is lost, and traffic that depends on it is refused. (R486) -/
  | fabricLinkLost
  /-- At each cycle Sextant selects the next ready hardware thread and issues one instruction. (R458) -/
  | sextantCycle
  /-- A write to DMONSELn selects a die event and clears DMONn. (R488) -/
  | dmonselWrite
  /-- Owner 0 clears an owner's N and E counters through Sextant. (R428) -/
  | exceedanceCounterClear
  /-- The host sends a CXL.cache coherence request for a host line that die 0's cache holds, found through the slice directory. (R421) -/
  | hostCoherenceRequest
  deriving DecidableEq, Repr

/-- The row of the opcode table that an event runs. -/
def Event.row : Event → Instr
  | .rotationPosition _ => .rotationPosition
  | .parkWake _ => .parkWake
  | .rotationTableSwitch _ => .rotationTableSwitch
  | .registerValueArrival _ => .registerValueArrival
  | .spawnArrival _ => .spawnArrival
  | .memoryAccessArrival _ => .memoryAccessArrival
  | .feAccessArrival _ => .feAccessArrival
  | .feListRetry _ => .feListRetry
  | .reservationExpiry _ => .reservationExpiry
  | .mergeBufferExpiry _ _ => .mergeBufferExpiry
  | .postedAnswerArrival _ _ _ => .postedAnswerArrival
  | .fenceEchoArrival _ _ => .fenceEchoArrival
  | .barinitAtBank _ => .barinitAtBank
  | .barrierArrival _ => .barrierArrival
  | .barrierReleaseDelivery _ _ => .barrierReleaseDelivery
  | .sliceWrite _ => .sliceWrite
  | .requestReplayTimeout _ => .requestReplayTimeout
  | .replayAck _ => .replayAck
  | .bankWatchEvent _ _ _ _ _ _ _ => .bankWatchEvent
  | .copyUnitWrite _ => .copyUnitWrite
  | .copyCompletion _ => .copyCompletion
  | .redContributionArrival _ => .redContributionArrival
  | .reductionDelivery _ _ => .reductionDelivery
  | .pageWalk _ _ => .pageWalk
  | .pagerNotice _ => .pagerNotice
  | .fbcmdMapped _ _ => .fbcmdMapped
  | .fbcmdDeny _ _ => .fbcmdDeny
  | .fbcmdReplayAll _ => .fbcmdReplayAll
  | .fbcmdInval _ _ => .fbcmdInval
  | .fbcmdMigrate _ => .fbcmdMigrate
  | .invalComplete _ => .invalComplete
  | .migrationComplete _ => .migrationComplete
  | .tileStrip _ => .tileStrip
  | .vernierEntry _ => .vernierEntry
  | .vernierTableSwitch _ => .vernierTableSwitch
  | .rptReissue _ => .rptReissue
  | .portWordArrival _ _ => .portWordArrival
  | .sbindStreamPush _ => .sbindStreamPush
  | .bankLockGrant _ _ => .bankLockGrant
  | .lockTimeout _ _ => .lockTimeout
  | .launchPlacement _ _ => .launchPlacement
  | .launchAgeing _ => .launchAgeing
  | .launchDone _ => .launchDone
  | .counterDecrement _ => .counterDecrement
  | .counterBind _ => .counterBind
  | .counterFree _ => .counterFree
  | .messageStoreArrival _ => .messageStoreArrival
  | .phaseReportArrival _ _ _ _ => .phaseReportArrival
  | .qtimeout _ => .qtimeout
  | .rwaitPoll _ => .rwaitPoll
  | .rtimeout _ => .rtimeout
  | .invoke _ _ _ => .invoke
  | .spillRingMove _ _ => .spillRingMove
  | .invocationPlacement _ _ => .invocationPlacement
  | .reply _ _ _ => .reply
  | .answer _ _ _ => .answer
  | .write _ _ _ => .write
  | .read _ _ _ => .read
  | .atomic _ _ _ => .atomic
  | .counter _ _ _ => .counter
  | .pause _ _ => .pause
  | .resume _ _ => .resume
  | .pauseRepeat _ _ => .pauseRepeat
  | .flitReceive _ _ => .flitReceive
  | .linkTraining _ _ => .linkTraining
  | .arbitrationRound _ _ _ => .arbitrationRound
  | .dieCacheFill _ _ _ => .dieCacheFill
  | .sweeperVisit _ _ _ => .sweeperVisit
  | .pcmdReset _ _ => .pcmdReset
  | .flr _ => .flr
  | .sextantResetRequest _ _ => .sextantResetRequest
  | .partitionReset _ => .partitionReset
  | .zeroClear _ => .zeroClear
  | .moduleReset => .moduleReset
  | .dieBoot _ _ _ => .dieBoot
  | .pdiesWrite _ _ => .pdiesWrite
  | .vfcfgWrite _ _ => .vfcfgWrite
  | .ownerTableWrite _ _ _ _ => .ownerTableWrite
  | .scrubPass _ _ _ _ => .scrubPass
  | .thermalStepRise _ _ => .thermalStepRise
  | .thermalStepFall _ _ => .thermalStepFall
  | .powerStepChange _ => .powerStepChange
  | .throttleStepApply _ => .throttleStepApply
  | .thermalTrip _ _ => .thermalTrip
  | .kick _ _ => .kick
  | .kickDelivery _ => .kickDelivery
  | .schedulerRun _ => .schedulerRun
  | .queuePacketStart _ _ => .queuePacketStart
  | .launch _ _ => .launch
  | .copy _ _ => .copy
  | .wait _ _ => .wait
  | .signal _ _ => .signal
  | .queueInvoke _ _ => .queueInvoke
  | .timestamp _ _ => .timestamp
  | .nop _ _ => .nop
  | .resetQueue _ _ => .resetQueue
  | .packetComplete _ _ => .packetComplete
  | .waitReread _ _ => .waitReread
  | .launchRetry _ _ => .launchRetry
  | .invokeRetry _ _ => .invokeRetry
  | .eventRecord _ _ _ _ _ => .eventRecord
  | .dbgRead _ => .dbgRead
  | .dbgWrite _ => .dbgWrite
  | .dbgRelease _ => .dbgRelease
  | .dbgHold _ => .dbgHold
  | .dbgUnhold _ => .dbgUnhold
  | .loadRequest _ _ _ => .loadRequest
  | .hostMemRequest _ _ _ _ => .hostMemRequest
  | .getCertificate _ => .getCertificate
  | .challenge _ => .challenge
  | .getMeasurements _ => .getMeasurements
  | .keyExchange _ => .keyExchange
  | .raiseSecurityMinimum _ => .raiseSecurityMinimum
  | .registerWrite _ _ _ _ => .registerWrite
  | .registerRead _ _ => .registerWrite
  | .coreOwnerAssign _ _ => .coreOwnerAssign
  | .portRoomReturn _ _ => .portRoomReturn
  | .ctxoutRequestArrival _ => .ctxoutRequestArrival
  | .ctxinRequestArrival _ => .ctxinRequestArrival
  | .hostLinkTraining _ _ => .hostLinkTraining
  | .fabricLinkLost _ => .fabricLinkLost
  | .sextantCycle _ => .sextantCycle
  | .dmonselWrite _ _ _ => .dmonselWrite
  | .exceedanceCounterClear _ _ => .exceedanceCounterClear
  | .hostCoherenceRequest _ _ => .hostCoherenceRequest

end Sys2Proof
end

