-- ==== Sys2Proof/WellFormed.lean ====
section
/-!
DEFINITION. WellFormed: what an instruction's fields must satisfy beyond their widths.
For an encoded row these are the value checks of step 4 of 03 R75 (scope, axis, condition, fence kind, limit,
generator number); for an event row, that the units its arguments name exist (01 R6, R14).
-/
namespace Sys2Proof

/-- Scope codes 000 to 101 (03 R66, R70). -/
def scopeOk (s : BitVec 3) : Bool := s.toNat ≤ 5
/-- Axis codes 000 to 010 (03 R66). -/
def axisOk (x : BitVec 3) : Bool := x.toNat ≤ 2
/-- Condition codes 000 to 101 (03 R66). -/
def condOk (c : BitVec 3) : Bool := c.toNat ≤ 5
/-- Fence kinds 01, 10, 11 (07 R189). -/
def kindOk (k : BitVec 2) : Bool := k != 0
/-- barinit takes the scopes .core to .sys (07 R194). -/
def barScopeOk (s : BitVec 3) : Bool := 1 ≤ s.toNat && s.toNat ≤ 5
/-- A cycle limit of 0 is no qwait or rwait (03 R70). -/
def limitOk (i : BitVec 12) : Bool := i != 0
/-- A generator number field has its top bit 0 (03 R59, R68). -/
def genOk (g : BitVec 1) (n : BitVec 4) : Bool := g == 0 || n.toNat < 8
/-- Dies 0 to 31 (01 R6). -/
def dieOk (d : Nat) : Bool := d < 32
/-- Clusters of the module, numbered die × 200 + cluster. -/
def clusterOk (c : Nat) : Bool := c < 6400
/-- Cores of the module, numbered (die × 200 + cluster) × 64 + core (15 R374). -/
def coreOk (c : Nat) : Bool := c < 409600
/-- Thread slots, numbered core × 64 + slot. -/
def slotOk (s : Nat) : Bool := s < 26214400
/-- Number of an agent: a slot, or 26,214,400 + 64 × die + Sextant hardware thread. -/
def agentOk (n : Nat) : Bool := n < 26214400 || (n < 26216448 && n % 64 < 48)
/-- Octets, numbered cluster × 8 + octet. -/
def octetOk (q : Nat) : Bool := q < 51200
/-- Partitions 0 to 31 (18 R439). -/
def partOk (p : Nat) : Bool := p < 32
/-- Owners 0 to 4,095 (01 R18). -/
def ownerOk (o : Nat) : Bool := o < 4096
/-- Virtual functions 0 to 31 (18 R443). -/
def vfOk (v : Nat) : Bool := v < 32
/-- Mynis ports 0 to 11 (01 R24). -/
def mynisOk (p : Nat) : Bool := p < 12
/-- Receive queues of a core: N, E, S, W, copy stream, invocation arguments (11 R292). -/
def queueOk (q : Nat) : Bool := q < 6
/-- Traffic classes 0 to 3 (16 R415). -/
def classOk (c : Nat) : Bool := c < 4
/-- Classes of contended points 0 to 7 (17 R422). -/
def pointClassOk (c : Nat) : Bool := c < 8
/-- Local-store banks 0 to 15 (01 R20). -/
def bankOk (b : Nat) : Bool := b < 16
/-- Die-cache slices 0 to 63 (01 R20). -/
def sliceOk (s : Nat) : Bool := s < 64

/-- Well-formedness of an instruction: always so for an event row, whose data stand in its Event. -/
def Instr.wf : Instr → Bool
  | .lui _ _ => true
  | .auipc _ _ => true
  | .jal _ _ => true
  | .jalr _ _ _ => true
  | .beq _ _ _ => true
  | .bne _ _ _ => true
  | .blt _ _ _ => true
  | .bge _ _ _ => true
  | .bltu _ _ _ => true
  | .bgeu _ _ _ => true
  | .lb _ _ _ => true
  | .lh _ _ _ => true
  | .lw _ _ _ => true
  | .ld _ _ _ => true
  | .lbu _ _ _ => true
  | .lhu _ _ _ => true
  | .lwu _ _ _ => true
  | .sb _ _ _ => true
  | .sh _ _ _ => true
  | .sw _ _ _ => true
  | .sd _ _ _ => true
  | .addi _ _ _ => true
  | .slti _ _ _ => true
  | .sltiu _ _ _ => true
  | .xori _ _ _ => true
  | .ori _ _ _ => true
  | .andi _ _ _ => true
  | .slli _ _ _ => true
  | .srli _ _ _ => true
  | .srai _ _ _ => true
  | .addiw _ _ _ => true
  | .slliw _ _ _ => true
  | .srliw _ _ _ => true
  | .sraiw _ _ _ => true
  | .add _ _ _ => true
  | .sub _ _ _ => true
  | .sll _ _ _ => true
  | .slt _ _ _ => true
  | .sltu _ _ _ => true
  | .xor _ _ _ => true
  | .srl _ _ _ => true
  | .sra _ _ _ => true
  | .or _ _ _ => true
  | .and _ _ _ => true
  | .mul _ _ _ => true
  | .mulh _ _ _ => true
  | .mulhsu _ _ _ => true
  | .mulhu _ _ _ => true
  | .div _ _ _ => true
  | .divu _ _ _ => true
  | .rem _ _ _ => true
  | .remu _ _ _ => true
  | .addw _ _ _ => true
  | .subw _ _ _ => true
  | .sllw _ _ _ => true
  | .srlw _ _ _ => true
  | .sraw _ _ _ => true
  | .mulw _ _ _ => true
  | .divw _ _ _ => true
  | .divuw _ _ _ => true
  | .remw _ _ _ => true
  | .remuw _ _ _ => true
  | .fence _ _ _ => true
  | .fenceI => true
  | .ecall => true
  | .ebreak => true
  | .csrrw _ _ _ => true
  | .csrrs _ _ _ => true
  | .csrrc _ _ _ => true
  | .csrrwi _ _ _ => true
  | .csrrsi _ _ _ => true
  | .csrrci _ _ _ => true
  | .lrW _ _ _ _ => true
  | .lrD _ _ _ _ => true
  | .scW _ _ _ _ _ => true
  | .scD _ _ _ _ _ => true
  | .amoswapW _ _ _ _ _ => true
  | .amoswapD _ _ _ _ _ => true
  | .amoaddW _ _ _ _ _ => true
  | .amoaddD _ _ _ _ _ => true
  | .amoxorW _ _ _ _ _ => true
  | .amoxorD _ _ _ _ _ => true
  | .amoandW _ _ _ _ _ => true
  | .amoandD _ _ _ _ _ => true
  | .amoorW _ _ _ _ _ => true
  | .amoorD _ _ _ _ _ => true
  | .amominW _ _ _ _ _ => true
  | .amominD _ _ _ _ _ => true
  | .amomaxW _ _ _ _ _ => true
  | .amomaxD _ _ _ _ _ => true
  | .amominuW _ _ _ _ _ => true
  | .amominuD _ _ _ _ _ => true
  | .amomaxuW _ _ _ _ _ => true
  | .amomaxuD _ _ _ _ _ => true
  | .amofaddS _ _ _ _ _ => true
  | .tdef _ _ => true
  | .tshape _ _ _ => true
  | .tfill _ _ => true
  | .txget _ _ _ => true
  | .txset _ _ _ => true
  | .tadd _ _ _ _ => true
  | .tsub _ _ _ _ => true
  | .tmul _ _ _ _ => true
  | .tfma _ _ _ _ => true
  | .tmin _ _ _ _ => true
  | .tmax _ _ _ _ => true
  | .tdiv _ _ _ _ => true
  | .tabs _ _ => true
  | .tneg _ _ => true
  | .tand _ _ _ => true
  | .tor _ _ _ => true
  | .txor _ _ _ => true
  | .tsel _ _ _ => true
  | .tcmp _ _ _ cond => condOk cond
  | .texp _ _ _ => true
  | .texp2 _ _ _ => true
  | .tlog _ _ _ => true
  | .tlog2 _ _ _ => true
  | .tsqrt _ _ _ => true
  | .trsqrt _ _ _ => true
  | .trcp _ _ _ => true
  | .tsin _ _ _ => true
  | .tcos _ _ _ => true
  | .ttanh _ _ _ => true
  | .tcvt _ _ _ => true
  | .tcvtSr _ _ _ => true
  | .tqnt _ _ _ => true
  | .tsum _ _ axis => axisOk axis
  | .trmax _ _ axis => axisOk axis
  | .targmax _ _ axis => axisOk axis
  | .tbcast _ _ _ => true
  | .ttrans _ _ => true
  | .tsparse _ _ => true
  | .mma gA b a _ gB _ _ _ => genOk gA a && genOk gB b
  | .mmas _ b _ _ gB _ _ _ => genOk gB b
  | .mmag _ _ _ _ _ _ => true
  | .mdld _ _ => true
  | .mdclr _ => true
  | .mitw _ _ => true
  | .gset _ _ => true
  | .gget _ _ => true
  | .gseed _ _ => true
  | .gfill _ _ => true
  | .rpt _ _ _ => true
  | .ldAq scope _ _ _ => scopeOk scope
  | .sdRl scope _ _ _ => scopeOk scope
  | .ldfe _ _ _ => true
  | .ldff _ _ _ => true
  | .stfe _ _ _ => true
  | .stff _ _ _ => true
  | .fesetE _ _ => true
  | .fesetF _ _ => true
  | .cinv _ _ => true
  | .cflush _ _ => true
  | .pref _ _ => true
  | .fenceS kind scope => kindOk kind && scopeOk scope
  | .bar _ => true
  | .barinit _ _ scope => barScopeOk scope
  | .cpyLd _ _ _ => true
  | .cpyLdPx8 _ _ _ => true
  | .cpySt _ _ _ => true
  | .cpyStPx8 _ _ _ => true
  | .cpyTt _ _ _ => true
  | .czip _ _ => true
  | .cunzip _ _ => true
  | .red _ _ _ => true
  | .sbind _ _ => true
  | .cstat _ _ => true
  | .ccancel _ => true
  | .gspawn _ _ => true
  | .lnch _ _ => true
  | .cntnew _ _ => true
  | .cntbind _ _ => true
  | .cntdec _ => true
  | .cntfree _ => true
  | .msend _ _ => true
  | .mrecv _ _ => true
  | .tnext _ => true
  | .phase _ => true
  | .waitc _ _ _ _ => true
  | .qwait _ imm => limitOk imm
  | .rwait _ imm => limitOk imm
  | .quit => true
  | .ccnt _ => true
  | .rel _ => true
  | .spawn _ _ _ => true
  | .tret => true
  | .wfi => true
  | .exbset _ => true
  | .segset _ _ => true
  | .ctxout _ _ => true
  | .ctxinRestore _ _ => true
  | .ctxinDiscard _ _ => true
  | .watch _ _ => true
  | .lockb _ => true
  | .unlockb _ => true
  | .rotwWriteShadow _ _ => true
  | .rotwWriteAttributes _ _ => true
  | .rotwCommit _ _ => true
  | .rotwCopy _ _ => true
  | .rinv _ _ _ => true
  | .rinvr _ _ _ => true
  | .rreply _ _ => true
  | .impset _ _ => true
  | .expset _ _ => true
  | .htset _ _ => true
  | .oseed _ => true
  | .oreeseed _ _ => true
  | .odraw _ _ _ => true
  | .oplace _ _ _ => true
  | .oxq _ _ _ => true
  | .oshare _ _ => true
  | .wpkQueue _ _ => true
  | .wpkPending _ _ => true
  | .wpkEvent _ _ => true
  | .qkick _ => true
  | .qstatReadPending _ _ => true
  | .qstatClearPending _ _ => true
  | .qstatBind _ _ => true
  | .qstatReadSlot _ _ => true
  | .trap _ => true
  | .rotationPosition => true
  | .parkWake => true
  | .rotationTableSwitch => true
  | .registerValueArrival => true
  | .spawnArrival => true
  | .memoryAccessArrival => true
  | .feAccessArrival => true
  | .feListRetry => true
  | .reservationExpiry => true
  | .mergeBufferExpiry => true
  | .postedAnswerArrival => true
  | .fenceEchoArrival => true
  | .barinitAtBank => true
  | .barrierArrival => true
  | .barrierReleaseDelivery => true
  | .sliceWrite => true
  | .requestReplayTimeout => true
  | .replayAck => true
  | .bankWatchEvent => true
  | .copyUnitWrite => true
  | .copyCompletion => true
  | .redContributionArrival => true
  | .reductionDelivery => true
  | .pageWalk => true
  | .pagerNotice => true
  | .fbcmdMapped => true
  | .fbcmdDeny => true
  | .fbcmdReplayAll => true
  | .fbcmdInval => true
  | .fbcmdMigrate => true
  | .invalComplete => true
  | .migrationComplete => true
  | .tileStrip => true
  | .vernierEntry => true
  | .vernierTableSwitch => true
  | .rptReissue => true
  | .portWordArrival => true
  | .sbindStreamPush => true
  | .bankLockGrant => true
  | .lockTimeout => true
  | .launchPlacement => true
  | .launchAgeing => true
  | .launchDone => true
  | .counterDecrement => true
  | .counterBind => true
  | .counterFree => true
  | .messageStoreArrival => true
  | .phaseReportArrival => true
  | .qtimeout => true
  | .rwaitPoll => true
  | .rtimeout => true
  | .invoke => true
  | .spillRingMove => true
  | .invocationPlacement => true
  | .reply => true
  | .answer => true
  | .write => true
  | .read => true
  | .atomic => true
  | .counter => true
  | .pause => true
  | .resume => true
  | .pauseRepeat => true
  | .flitReceive => true
  | .linkTraining => true
  | .arbitrationRound => true
  | .dieCacheFill => true
  | .sweeperVisit => true
  | .pcmdReset => true
  | .flr => true
  | .sextantResetRequest => true
  | .partitionReset => true
  | .zeroClear => true
  | .moduleReset => true
  | .dieBoot => true
  | .pdiesWrite => true
  | .vfcfgWrite => true
  | .ownerTableWrite => true
  | .scrubPass => true
  | .thermalStepRise => true
  | .thermalStepFall => true
  | .powerStepChange => true
  | .throttleStepApply => true
  | .thermalTrip => true
  | .kick => true
  | .kickDelivery => true
  | .schedulerRun => true
  | .queuePacketStart => true
  | .launch => true
  | .copy => true
  | .wait => true
  | .signal => true
  | .queueInvoke => true
  | .timestamp => true
  | .nop => true
  | .resetQueue => true
  | .packetComplete => true
  | .waitReread => true
  | .launchRetry => true
  | .invokeRetry => true
  | .eventRecord => true
  | .dbgRead => true
  | .dbgWrite => true
  | .dbgRelease => true
  | .dbgHold => true
  | .dbgUnhold => true
  | .loadRequest => true
  | .hostMemRequest => true
  | .getCertificate => true
  | .challenge => true
  | .getMeasurements => true
  | .keyExchange => true
  | .raiseSecurityMinimum => true
  | .registerWrite => true
  | .coreOwnerAssign => true
  | .portRoomReturn => true
  | .ctxoutRequestArrival => true
  | .ctxinRequestArrival => true
  | .hostLinkTraining => true
  | .fabricLinkLost => true
  | .sextantCycle => true
  | .dmonselWrite => true
  | .exceedanceCounterClear => true
  | .hostCoherenceRequest => true

/-- Well-formedness of an event: the units it names exist. -/
def Event.wf : Event → Bool
  | .rotationPosition core => coreOk core
  | .parkWake slot => agentOk slot
  | .rotationTableSwitch core => coreOk core
  | .registerValueArrival _ => true
  | .spawnArrival _ => true
  | .memoryAccessArrival _ => true
  | .feAccessArrival _ => true
  | .feListRetry slot => agentOk slot
  | .reservationExpiry slot => agentOk slot
  | .mergeBufferExpiry cluster _ => clusterOk cluster
  | .postedAnswerArrival core _ _ => coreOk core
  | .fenceEchoArrival slot _ => agentOk slot
  | .barinitAtBank _ => true
  | .barrierArrival _ => true
  | .barrierReleaseDelivery core _ => coreOk core
  | .sliceWrite _ => true
  | .requestReplayTimeout _ => true
  | .replayAck _ => true
  | .bankWatchEvent die slice _ _ _ _ _ => dieOk die && sliceOk slice
  | .copyUnitWrite _ => true
  | .copyCompletion _ => true
  | .redContributionArrival _ => true
  | .reductionDelivery die _ => dieOk die
  | .pageWalk die _ => dieOk die
  | .pagerNotice die => dieOk die
  | .fbcmdMapped die _ => dieOk die
  | .fbcmdDeny die _ => dieOk die
  | .fbcmdReplayAll die => dieOk die
  | .fbcmdInval die owner => dieOk die && ownerOk owner
  | .fbcmdMigrate die => dieOk die
  | .invalComplete die => dieOk die
  | .migrationComplete die => dieOk die
  | .tileStrip core => coreOk core
  | .vernierEntry octet => octetOk octet
  | .vernierTableSwitch octet => octetOk octet
  | .rptReissue slot => slotOk slot
  | .portWordArrival core port => coreOk core && queueOk port
  | .sbindStreamPush _ => true
  | .bankLockGrant core bank => coreOk core && bankOk bank
  | .lockTimeout core bank => coreOk core && bankOk bank
  | .launchPlacement _ core => coreOk core
  | .launchAgeing _ => true
  | .launchDone _ => true
  | .counterDecrement _ => true
  | .counterBind _ => true
  | .counterFree _ => true
  | .messageStoreArrival _ => true
  | .phaseReportArrival slot _ _ _ => slotOk slot
  | .qtimeout slot => slotOk slot
  | .rwaitPoll slot => slotOk slot
  | .rtimeout slot => slotOk slot
  | .invoke die _ _ => dieOk die
  | .spillRingMove die _ => dieOk die
  | .invocationPlacement die _ => dieOk die
  | .reply die _ _ => dieOk die
  | .answer die _ _ => dieOk die
  | .write die _ _ => dieOk die
  | .read die _ _ => dieOk die
  | .atomic die _ _ => dieOk die
  | .counter die _ _ => dieOk die
  | .pause port cls => mynisOk port && classOk cls
  | .resume port cls => mynisOk port && classOk cls
  | .pauseRepeat port cls => mynisOk port && classOk cls
  | .flitReceive port _ => mynisOk port
  | .linkTraining port _ => mynisOk port
  | .arbitrationRound die cls _ => dieOk die && pointClassOk cls
  | .dieCacheFill die _ owner => dieOk die && ownerOk owner
  | .sweeperVisit die slice owner => dieOk die && sliceOk slice && ownerOk owner
  | .pcmdReset part _ => partOk part
  | .flr vf => vfOk vf
  | .sextantResetRequest part _ => partOk part
  | .partitionReset part => partOk part
  | .zeroClear part => partOk part
  | .moduleReset => true
  | .dieBoot die _ _ => dieOk die
  | .pdiesWrite part _ => partOk part
  | .vfcfgWrite vf _ => vfOk vf
  | .ownerTableWrite die owner _ _ => dieOk die && ownerOk owner
  | .scrubPass die _ _ _ => dieOk die
  | .thermalStepRise die _ => dieOk die
  | .thermalStepFall die _ => dieOk die
  | .powerStepChange _ => true
  | .throttleStepApply die => dieOk die
  | .thermalTrip die _ => dieOk die
  | .kick part _ => partOk part
  | .kickDelivery part => partOk part
  | .schedulerRun part => partOk part
  | .queuePacketStart part _ => partOk part
  | .launch part _ => partOk part
  | .copy part _ => partOk part
  | .wait part _ => partOk part
  | .signal part _ => partOk part
  | .queueInvoke part _ => partOk part
  | .timestamp part _ => partOk part
  | .nop part _ => partOk part
  | .resetQueue part _ => partOk part
  | .packetComplete part _ => partOk part
  | .waitReread part _ => partOk part
  | .launchRetry part _ => partOk part
  | .invokeRetry part _ => partOk part
  | .eventRecord die _ _ _ _ => dieOk die
  | .dbgRead die => dieOk die
  | .dbgWrite die => dieOk die
  | .dbgRelease die => dieOk die
  | .dbgHold die => dieOk die
  | .dbgUnhold die => dieOk die
  | .loadRequest part _ _ => partOk part
  | .hostMemRequest part _ _ _ => partOk part
  | .getCertificate _ => true
  | .challenge _ => true
  | .getMeasurements _ => true
  | .keyExchange _ => true
  | .raiseSecurityMinimum _ => true
  | .registerWrite _ die _ _ => dieOk die
  | .registerRead fn off => fn < 33 && off < 65536
  | .coreOwnerAssign core owner => coreOk core && ownerOk owner
  | .portRoomReturn core port => coreOk core && queueOk port
  | .ctxoutRequestArrival _ => true
  | .ctxinRequestArrival _ => true
  | .hostLinkTraining _ _ => true
  | .fabricLinkLost port => mynisOk port
  | .sextantCycle die => dieOk die
  | .dmonselWrite die _ _ => dieOk die
  | .exceedanceCounterClear die owner => dieOk die && ownerOk owner
  | .hostCoherenceRequest _ _ => true

end Sys2Proof
end

