-- ==== Sys2Proof/Decode.lean ====
section
/-!
DEFINITION. Decode: the decoder of a 32-bit word (03 R53-R74), total, refusing by name, and the encoder written
from the same maps.  A word that the decoder refuses is one that traps ILLEGAL by steps 2 to 4 of 03 R75.
Where several rows share one word (14 R367, R368; 19 R468, R470) the decoder gives the first of them: an operand
value, not the word, tells them apart, and the meaning of each runs what the operand selects.
-/
namespace Sys2Proof

/-- Why a word is no instruction (03 R56, R61, R62-R73). -/
inductive Reject where
  /-- Bits [1:0] are not 0b11 (03 R56). -/
  | shortEncoding
  /-- Bits [4:2] are 0b111 (03 R56). -/
  | longEncoding
  /-- The major opcode is marked ILLEGAL (03 R61). -/
  | opcode
  /-- A selector field holds no listed value (03 R62-R73). -/
  | selector
  /-- A reserved or fixed field is wrong (03 R62-R73). -/
  | reservedField
  /-- A field holds a code the maps do not list (03 R66, R70, R71). -/
  | badCode
  deriving DecidableEq, Repr

/-- Bits [lo + len - 1 : lo] of a word, as a number. -/
def fld (w : BitVec 32) (lo len : Nat) : Nat := w.toNat / 2 ^ lo % 2 ^ len

/-- Bits [lo + len - 1 : lo] of a word. -/
def bf (w : BitVec 32) (lo len : Nat) : BitVec len := BitVec.ofNat len (fld w lo len)

/-- An instruction whose field codes are checked. -/
def chk (i : Instr) : Except Reject Instr := if i.wf then .ok i else .error .badCode

/-- Opcode 0110111 (03 R61). -/
def decLui (w : BitVec 32) : Except Reject Instr :=
  .ok (.lui (bf w 7 5) (bf w 12 20))

/-- Opcode 0010111 (03 R61). -/
def decAuipc (w : BitVec 32) : Except Reject Instr :=
  .ok (.auipc (bf w 7 5) (bf w 12 20))

/-- Opcode 1101111 (03 R61). -/
def decJal (w : BitVec 32) : Except Reject Instr :=
  .ok (.jal (bf w 7 5) (BitVec.ofNat 20 (fld w 31 1 * 524288 + fld w 12 8 * 2048 + fld w 20 1 * 1024 + fld w 21 10)))

/-- Opcode 1100111 (03 R61). -/
def decJalr (w : BitVec 32) : Except Reject Instr :=
  match fld w 12 3 with
  | 0 => .ok (.jalr (bf w 7 5) (bf w 15 5) (bf w 20 12))
  | _ => .error .selector

/-- Opcode 1100011 (03 R61). -/
def decBranch (w : BitVec 32) : Except Reject Instr :=
  match fld w 12 3 with
  | 0 => .ok (.beq (bf w 15 5) (bf w 20 5) (BitVec.ofNat 12 (fld w 31 1 * 2048 + fld w 7 1 * 1024 + fld w 25 6 * 16 + fld w 8 4)))
  | 1 => .ok (.bne (bf w 15 5) (bf w 20 5) (BitVec.ofNat 12 (fld w 31 1 * 2048 + fld w 7 1 * 1024 + fld w 25 6 * 16 + fld w 8 4)))
  | 4 => .ok (.blt (bf w 15 5) (bf w 20 5) (BitVec.ofNat 12 (fld w 31 1 * 2048 + fld w 7 1 * 1024 + fld w 25 6 * 16 + fld w 8 4)))
  | 5 => .ok (.bge (bf w 15 5) (bf w 20 5) (BitVec.ofNat 12 (fld w 31 1 * 2048 + fld w 7 1 * 1024 + fld w 25 6 * 16 + fld w 8 4)))
  | 6 => .ok (.bltu (bf w 15 5) (bf w 20 5) (BitVec.ofNat 12 (fld w 31 1 * 2048 + fld w 7 1 * 1024 + fld w 25 6 * 16 + fld w 8 4)))
  | 7 => .ok (.bgeu (bf w 15 5) (bf w 20 5) (BitVec.ofNat 12 (fld w 31 1 * 2048 + fld w 7 1 * 1024 + fld w 25 6 * 16 + fld w 8 4)))
  | _ => .error .selector

/-- Opcode 0000011 (03 R61). -/
def decLoad (w : BitVec 32) : Except Reject Instr :=
  match fld w 12 3 with
  | 0 => .ok (.lb (bf w 7 5) (bf w 15 5) (bf w 20 12))
  | 1 => .ok (.lh (bf w 7 5) (bf w 15 5) (bf w 20 12))
  | 2 => .ok (.lw (bf w 7 5) (bf w 15 5) (bf w 20 12))
  | 3 => .ok (.ld (bf w 7 5) (bf w 15 5) (bf w 20 12))
  | 4 => .ok (.lbu (bf w 7 5) (bf w 15 5) (bf w 20 12))
  | 5 => .ok (.lhu (bf w 7 5) (bf w 15 5) (bf w 20 12))
  | 6 => .ok (.lwu (bf w 7 5) (bf w 15 5) (bf w 20 12))
  | _ => .error .selector

/-- Opcode 0100011 (03 R61). -/
def decStore (w : BitVec 32) : Except Reject Instr :=
  match fld w 12 3 with
  | 0 => .ok (.sb (bf w 20 5) (bf w 15 5) (BitVec.ofNat 12 (fld w 25 7 * 32 + fld w 7 5)))
  | 1 => .ok (.sh (bf w 20 5) (bf w 15 5) (BitVec.ofNat 12 (fld w 25 7 * 32 + fld w 7 5)))
  | 2 => .ok (.sw (bf w 20 5) (bf w 15 5) (BitVec.ofNat 12 (fld w 25 7 * 32 + fld w 7 5)))
  | 3 => .ok (.sd (bf w 20 5) (bf w 15 5) (BitVec.ofNat 12 (fld w 25 7 * 32 + fld w 7 5)))
  | _ => .error .selector

/-- Opcode 0010011 (03 R61). -/
def decOpImm (w : BitVec 32) : Except Reject Instr :=
  match fld w 12 3 with
  | 0 => .ok (.addi (bf w 7 5) (bf w 15 5) (bf w 20 12))
  | 1 =>
    match fld w 26 6 with
    | 0 => .ok (.slli (bf w 7 5) (bf w 15 5) (bf w 20 6))
    | _ => .error .selector
  | 2 => .ok (.slti (bf w 7 5) (bf w 15 5) (bf w 20 12))
  | 3 => .ok (.sltiu (bf w 7 5) (bf w 15 5) (bf w 20 12))
  | 4 => .ok (.xori (bf w 7 5) (bf w 15 5) (bf w 20 12))
  | 5 =>
    match fld w 26 6 with
    | 0 => .ok (.srli (bf w 7 5) (bf w 15 5) (bf w 20 6))
    | 16 => .ok (.srai (bf w 7 5) (bf w 15 5) (bf w 20 6))
    | _ => .error .selector
  | 6 => .ok (.ori (bf w 7 5) (bf w 15 5) (bf w 20 12))
  | 7 => .ok (.andi (bf w 7 5) (bf w 15 5) (bf w 20 12))
  | _ => .error .selector

/-- Opcode 0011011 (03 R61). -/
def decOpImm32 (w : BitVec 32) : Except Reject Instr :=
  match fld w 12 3 with
  | 0 => .ok (.addiw (bf w 7 5) (bf w 15 5) (bf w 20 12))
  | 1 =>
    match fld w 25 7 with
    | 0 => .ok (.slliw (bf w 7 5) (bf w 15 5) (bf w 20 5))
    | _ => .error .selector
  | 5 =>
    match fld w 25 7 with
    | 0 => .ok (.srliw (bf w 7 5) (bf w 15 5) (bf w 20 5))
    | 32 => .ok (.sraiw (bf w 7 5) (bf w 15 5) (bf w 20 5))
    | _ => .error .selector
  | _ => .error .selector

/-- Opcode 0110011 (03 R61). -/
def decOp (w : BitVec 32) : Except Reject Instr :=
  match fld w 25 7 with
  | 0 =>
    match fld w 12 3 with
    | 0 => .ok (.add (bf w 7 5) (bf w 15 5) (bf w 20 5))
    | 1 => .ok (.sll (bf w 7 5) (bf w 15 5) (bf w 20 5))
    | 2 => .ok (.slt (bf w 7 5) (bf w 15 5) (bf w 20 5))
    | 3 => .ok (.sltu (bf w 7 5) (bf w 15 5) (bf w 20 5))
    | 4 => .ok (.xor (bf w 7 5) (bf w 15 5) (bf w 20 5))
    | 5 => .ok (.srl (bf w 7 5) (bf w 15 5) (bf w 20 5))
    | 6 => .ok (.or (bf w 7 5) (bf w 15 5) (bf w 20 5))
    | 7 => .ok (.and (bf w 7 5) (bf w 15 5) (bf w 20 5))
    | _ => .error .selector
  | 1 =>
    match fld w 12 3 with
    | 0 => .ok (.mul (bf w 7 5) (bf w 15 5) (bf w 20 5))
    | 1 => .ok (.mulh (bf w 7 5) (bf w 15 5) (bf w 20 5))
    | 2 => .ok (.mulhsu (bf w 7 5) (bf w 15 5) (bf w 20 5))
    | 3 => .ok (.mulhu (bf w 7 5) (bf w 15 5) (bf w 20 5))
    | 4 => .ok (.div (bf w 7 5) (bf w 15 5) (bf w 20 5))
    | 5 => .ok (.divu (bf w 7 5) (bf w 15 5) (bf w 20 5))
    | 6 => .ok (.rem (bf w 7 5) (bf w 15 5) (bf w 20 5))
    | 7 => .ok (.remu (bf w 7 5) (bf w 15 5) (bf w 20 5))
    | _ => .error .selector
  | 32 =>
    match fld w 12 3 with
    | 0 => .ok (.sub (bf w 7 5) (bf w 15 5) (bf w 20 5))
    | 5 => .ok (.sra (bf w 7 5) (bf w 15 5) (bf w 20 5))
    | _ => .error .selector
  | _ => .error .selector

/-- Opcode 0111011 (03 R61). -/
def decOp32 (w : BitVec 32) : Except Reject Instr :=
  match fld w 25 7 with
  | 0 =>
    match fld w 12 3 with
    | 0 => .ok (.addw (bf w 7 5) (bf w 15 5) (bf w 20 5))
    | 1 => .ok (.sllw (bf w 7 5) (bf w 15 5) (bf w 20 5))
    | 5 => .ok (.srlw (bf w 7 5) (bf w 15 5) (bf w 20 5))
    | _ => .error .selector
  | 1 =>
    match fld w 12 3 with
    | 0 => .ok (.mulw (bf w 7 5) (bf w 15 5) (bf w 20 5))
    | 4 => .ok (.divw (bf w 7 5) (bf w 15 5) (bf w 20 5))
    | 5 => .ok (.divuw (bf w 7 5) (bf w 15 5) (bf w 20 5))
    | 6 => .ok (.remw (bf w 7 5) (bf w 15 5) (bf w 20 5))
    | 7 => .ok (.remuw (bf w 7 5) (bf w 15 5) (bf w 20 5))
    | _ => .error .selector
  | 32 =>
    match fld w 12 3 with
    | 0 => .ok (.subw (bf w 7 5) (bf w 15 5) (bf w 20 5))
    | 5 => .ok (.sraw (bf w 7 5) (bf w 15 5) (bf w 20 5))
    | _ => .error .selector
  | _ => .error .selector

/-- Opcode 0001111 (03 R61). -/
def decMiscMem (w : BitVec 32) : Except Reject Instr :=
  match fld w 12 3 with
  | 0 => if fld w 7 5 = 0 ∧ fld w 15 5 = 0 ∧ fld w 28 3 = 0 then .ok (.fence (bf w 31 1) (bf w 24 4) (bf w 20 4)) else .error .reservedField
  | 1 => if fld w 7 5 = 0 ∧ fld w 15 17 = 0 then .ok (.fenceI) else .error .reservedField
  | _ => .error .selector

/-- Opcode 1110011 (03 R61). -/
def decSystem (w : BitVec 32) : Except Reject Instr :=
  match fld w 12 3 with
  | 0 =>
    match fld w 20 12 with
    | 0 => if fld w 7 5 = 0 ∧ fld w 15 5 = 0 then .ok (.ecall) else .error .reservedField
    | 1 => if fld w 7 5 = 0 ∧ fld w 15 5 = 0 then .ok (.ebreak) else .error .reservedField
    | _ => .error .selector
  | 1 => .ok (.csrrw (bf w 7 5) (bf w 15 5) (bf w 20 12))
  | 2 => .ok (.csrrs (bf w 7 5) (bf w 15 5) (bf w 20 12))
  | 3 => .ok (.csrrc (bf w 7 5) (bf w 15 5) (bf w 20 12))
  | 5 => .ok (.csrrwi (bf w 7 5) (bf w 20 12) (bf w 15 5))
  | 6 => .ok (.csrrsi (bf w 7 5) (bf w 20 12) (bf w 15 5))
  | 7 => .ok (.csrrci (bf w 7 5) (bf w 20 12) (bf w 15 5))
  | _ => .error .selector

/-- Opcode 0101111 (03 R61). -/
def decAmo (w : BitVec 32) : Except Reject Instr :=
  match fld w 12 3 with
  | 2 =>
    match fld w 27 5 with
    | 0 => .ok (.amoaddW (bf w 7 5) (bf w 15 5) (bf w 20 5) (bf w 26 1) (bf w 25 1))
    | 1 => .ok (.amoswapW (bf w 7 5) (bf w 15 5) (bf w 20 5) (bf w 26 1) (bf w 25 1))
    | 2 => if fld w 20 5 = 0 then .ok (.lrW (bf w 7 5) (bf w 15 5) (bf w 26 1) (bf w 25 1)) else .error .reservedField
    | 3 => .ok (.scW (bf w 7 5) (bf w 15 5) (bf w 20 5) (bf w 26 1) (bf w 25 1))
    | 4 => .ok (.amoxorW (bf w 7 5) (bf w 15 5) (bf w 20 5) (bf w 26 1) (bf w 25 1))
    | 8 => .ok (.amoorW (bf w 7 5) (bf w 15 5) (bf w 20 5) (bf w 26 1) (bf w 25 1))
    | 12 => .ok (.amoandW (bf w 7 5) (bf w 15 5) (bf w 20 5) (bf w 26 1) (bf w 25 1))
    | 16 => .ok (.amominW (bf w 7 5) (bf w 15 5) (bf w 20 5) (bf w 26 1) (bf w 25 1))
    | 20 => .ok (.amomaxW (bf w 7 5) (bf w 15 5) (bf w 20 5) (bf w 26 1) (bf w 25 1))
    | 24 => .ok (.amominuW (bf w 7 5) (bf w 15 5) (bf w 20 5) (bf w 26 1) (bf w 25 1))
    | 28 => .ok (.amomaxuW (bf w 7 5) (bf w 15 5) (bf w 20 5) (bf w 26 1) (bf w 25 1))
    | _ => .error .selector
  | 3 =>
    match fld w 27 5 with
    | 0 => .ok (.amoaddD (bf w 7 5) (bf w 15 5) (bf w 20 5) (bf w 26 1) (bf w 25 1))
    | 1 => .ok (.amoswapD (bf w 7 5) (bf w 15 5) (bf w 20 5) (bf w 26 1) (bf w 25 1))
    | 2 => if fld w 20 5 = 0 then .ok (.lrD (bf w 7 5) (bf w 15 5) (bf w 26 1) (bf w 25 1)) else .error .reservedField
    | 3 => .ok (.scD (bf w 7 5) (bf w 15 5) (bf w 20 5) (bf w 26 1) (bf w 25 1))
    | 4 => .ok (.amoxorD (bf w 7 5) (bf w 15 5) (bf w 20 5) (bf w 26 1) (bf w 25 1))
    | 8 => .ok (.amoorD (bf w 7 5) (bf w 15 5) (bf w 20 5) (bf w 26 1) (bf w 25 1))
    | 12 => .ok (.amoandD (bf w 7 5) (bf w 15 5) (bf w 20 5) (bf w 26 1) (bf w 25 1))
    | 16 => .ok (.amominD (bf w 7 5) (bf w 15 5) (bf w 20 5) (bf w 26 1) (bf w 25 1))
    | 20 => .ok (.amomaxD (bf w 7 5) (bf w 15 5) (bf w 20 5) (bf w 26 1) (bf w 25 1))
    | 24 => .ok (.amominuD (bf w 7 5) (bf w 15 5) (bf w 20 5) (bf w 26 1) (bf w 25 1))
    | 28 => .ok (.amomaxuD (bf w 7 5) (bf w 15 5) (bf w 20 5) (bf w 26 1) (bf w 25 1))
    | _ => .error .selector
  | _ => .error .selector

/-- Opcode 1011011 (03 R61). -/
def decCustom2 (w : BitVec 32) : Except Reject Instr :=
  match fld w 12 3 with
  | 0 => chk (.ldAq (bf w 20 3) (bf w 7 5) (bf w 15 5) (bf w 23 9))
  | 1 => chk (.sdRl (bf w 7 3) (bf w 20 5) (bf w 15 5) (BitVec.ofNat 9 (fld w 25 7 * 4 + fld w 10 2)))
  | 2 =>
    match fld w 20 3 with
    | 0 => .ok (.ldfe (bf w 7 5) (bf w 15 5) (bf w 23 9))
    | 1 => .ok (.ldff (bf w 7 5) (bf w 15 5) (bf w 23 9))
    | _ => .error .selector
  | 3 =>
    match fld w 7 3 with
    | 0 => .ok (.stfe (bf w 20 5) (bf w 15 5) (BitVec.ofNat 9 (fld w 25 7 * 4 + fld w 10 2)))
    | 1 => .ok (.stff (bf w 20 5) (bf w 15 5) (BitVec.ofNat 9 (fld w 25 7 * 4 + fld w 10 2)))
    | _ => .error .selector
  | 4 =>
    match fld w 7 5 with
    | 0 => .ok (.fesetE (bf w 15 5) (bf w 20 12))
    | 1 => .ok (.fesetF (bf w 15 5) (bf w 20 12))
    | 2 => .ok (.cinv (bf w 15 5) (bf w 20 12))
    | 3 => .ok (.cflush (bf w 15 5) (bf w 20 12))
    | 4 => .ok (.pref (bf w 15 5) (bf w 20 12))
    | _ => .error .selector
  | 5 =>
    match fld w 25 7 with
    | 0 | 1 | 2 | 3 => .ok (.amofaddS (bf w 7 5) (bf w 15 5) (bf w 20 5) (bf w 26 1) (bf w 25 1))
    | 4 => if fld w 7 5 = 0 ∧ fld w 18 2 = 0 ∧ fld w 22 3 = 0 then chk (.fenceS (bf w 20 2) (bf w 15 3)) else .error .reservedField
    | 5 => if fld w 7 5 = 0 ∧ fld w 20 5 = 0 then .ok (.bar (bf w 15 5)) else .error .reservedField
    | 6 => if fld w 10 2 = 0 then chk (.barinit (bf w 15 5) (bf w 20 5) (bf w 7 3)) else .error .reservedField
    | 16 => if fld w 11 1 = 0 then .ok (.cpyLd (bf w 7 4) (bf w 15 5) (bf w 20 5)) else .error .reservedField
    | 17 => if fld w 11 1 = 0 then .ok (.cpyLdPx8 (bf w 7 4) (bf w 15 5) (bf w 20 5)) else .error .reservedField
    | 18 => if fld w 11 1 = 0 then .ok (.cpySt (bf w 7 4) (bf w 15 5) (bf w 20 5)) else .error .reservedField
    | 19 => if fld w 11 1 = 0 then .ok (.cpyStPx8 (bf w 7 4) (bf w 15 5) (bf w 20 5)) else .error .reservedField
    | 20 => if fld w 11 1 = 0 ∧ fld w 19 1 = 0 then .ok (.cpyTt (bf w 7 4) (bf w 15 4) (bf w 20 5)) else .error .reservedField
    | 21 => if fld w 20 5 = 0 then .ok (.czip (bf w 7 5) (bf w 15 5)) else .error .reservedField
    | 22 => if fld w 20 5 = 0 then .ok (.cunzip (bf w 7 5) (bf w 15 5)) else .error .reservedField
    | 23 => if fld w 11 1 = 0 then .ok (.red (bf w 7 4) (bf w 15 5) (bf w 20 5)) else .error .reservedField
    | 24 => if fld w 7 5 = 0 then .ok (.sbind (bf w 15 5) (bf w 20 5)) else .error .reservedField
    | 25 => if fld w 20 5 = 0 then .ok (.cstat (bf w 7 5) (bf w 15 5)) else .error .reservedField
    | 26 => if fld w 7 5 = 0 ∧ fld w 20 5 = 0 then .ok (.ccancel (bf w 15 5)) else .error .reservedField
    | 32 => if fld w 20 5 = 0 then .ok (.gspawn (bf w 7 5) (bf w 15 5)) else .error .reservedField
    | 33 => if fld w 20 5 = 0 then .ok (.lnch (bf w 7 5) (bf w 15 5)) else .error .reservedField
    | 34 => if fld w 20 5 = 0 then .ok (.cntnew (bf w 7 5) (bf w 15 5)) else .error .reservedField
    | 35 => if fld w 7 5 = 0 then .ok (.cntbind (bf w 15 5) (bf w 20 5)) else .error .reservedField
    | 36 => if fld w 7 5 = 0 ∧ fld w 20 5 = 0 then .ok (.cntdec (bf w 15 5)) else .error .reservedField
    | 37 => if fld w 7 5 = 0 ∧ fld w 20 5 = 0 then .ok (.cntfree (bf w 15 5)) else .error .reservedField
    | 38 => if fld w 7 5 = 0 then .ok (.msend (bf w 15 5) (bf w 20 5)) else .error .reservedField
    | 39 => if fld w 20 5 = 0 then .ok (.mrecv (bf w 7 5) (bf w 15 5)) else .error .reservedField
    | 40 => if fld w 15 10 = 0 then .ok (.tnext (bf w 7 5)) else .error .reservedField
    | 41 => if fld w 7 5 = 0 ∧ fld w 20 5 = 0 then .ok (.phase (bf w 15 5)) else .error .reservedField
    | _ => .error .selector
  | 6 => if fld w 7 5 = 0 ∧ fld w 15 5 = 0 then .ok (.waitc (bf w 29 3) (bf w 26 3) (bf w 23 3) (bf w 20 3)) else .error .reservedField
  | 7 =>
    match fld w 7 5 with
    | 0 => chk (.qwait (bf w 15 5) (bf w 20 12))
    | 1 => chk (.rwait (bf w 15 5) (bf w 20 12))
    | _ => .error .selector
  | _ => .error .selector

/-- Opcode 0001011 (03 R61). -/
def decCustom0 (w : BitVec 32) : Except Reject Instr :=
  match fld w 25 7 with
  | 0 => if fld w 11 4 = 0 ∧ fld w 20 5 = 0 then .ok (.tdef (bf w 7 4) (bf w 15 5)) else .error .reservedField
  | 1 => if fld w 11 4 = 0 then .ok (.tshape (bf w 7 4) (bf w 15 5) (bf w 20 5)) else .error .reservedField
  | 2 => if fld w 11 4 = 0 ∧ fld w 20 5 = 0 then .ok (.tfill (bf w 7 4) (bf w 15 5)) else .error .reservedField
  | 3 => if fld w 12 3 = 0 ∧ fld w 19 1 = 0 then .ok (.txget (bf w 7 5) (bf w 15 4) (bf w 20 5)) else .error .reservedField
  | 4 => if fld w 11 4 = 0 then .ok (.txset (bf w 7 4) (bf w 15 5) (bf w 20 5)) else .error .reservedField
  | 8 => if fld w 11 1 = 0 ∧ fld w 14 1 = 0 then .ok (.tadd (bf w 7 4) (bf w 15 5) (bf w 20 5) (bf w 12 2)) else .error .reservedField
  | 9 => if fld w 11 1 = 0 ∧ fld w 14 1 = 0 then .ok (.tsub (bf w 7 4) (bf w 15 5) (bf w 20 5) (bf w 12 2)) else .error .reservedField
  | 10 => if fld w 11 1 = 0 ∧ fld w 14 1 = 0 then .ok (.tmul (bf w 7 4) (bf w 15 5) (bf w 20 5) (bf w 12 2)) else .error .reservedField
  | 11 => if fld w 11 1 = 0 ∧ fld w 14 1 = 0 then .ok (.tfma (bf w 7 4) (bf w 15 5) (bf w 20 5) (bf w 12 2)) else .error .reservedField
  | 12 => if fld w 11 1 = 0 ∧ fld w 14 1 = 0 then .ok (.tmin (bf w 7 4) (bf w 15 5) (bf w 20 5) (bf w 12 2)) else .error .reservedField
  | 13 => if fld w 11 1 = 0 ∧ fld w 14 1 = 0 then .ok (.tmax (bf w 7 4) (bf w 15 5) (bf w 20 5) (bf w 12 2)) else .error .reservedField
  | 14 => if fld w 11 1 = 0 ∧ fld w 14 1 = 0 then .ok (.tdiv (bf w 7 4) (bf w 15 5) (bf w 20 5) (bf w 12 2)) else .error .reservedField
  | 16 => if fld w 11 4 = 0 ∧ fld w 20 5 = 0 then .ok (.tabs (bf w 7 4) (bf w 15 5)) else .error .reservedField
  | 17 => if fld w 11 4 = 0 ∧ fld w 20 5 = 0 then .ok (.tneg (bf w 7 4) (bf w 15 5)) else .error .reservedField
  | 20 => if fld w 11 4 = 0 then .ok (.tand (bf w 7 4) (bf w 15 5) (bf w 20 5)) else .error .reservedField
  | 21 => if fld w 11 4 = 0 then .ok (.tor (bf w 7 4) (bf w 15 5) (bf w 20 5)) else .error .reservedField
  | 22 => if fld w 11 4 = 0 then .ok (.txor (bf w 7 4) (bf w 15 5) (bf w 20 5)) else .error .reservedField
  | 23 => if fld w 11 4 = 0 then .ok (.tsel (bf w 7 4) (bf w 15 5) (bf w 20 5)) else .error .reservedField
  | 24 => if fld w 11 1 = 0 then chk (.tcmp (bf w 7 4) (bf w 15 5) (bf w 20 5) (bf w 12 3)) else .error .reservedField
  | 32 => if fld w 11 1 = 0 ∧ fld w 14 1 = 0 ∧ fld w 20 5 = 0 then .ok (.texp (bf w 7 4) (bf w 15 5) (bf w 12 2)) else .error .reservedField
  | 33 => if fld w 11 1 = 0 ∧ fld w 14 1 = 0 ∧ fld w 20 5 = 0 then .ok (.texp2 (bf w 7 4) (bf w 15 5) (bf w 12 2)) else .error .reservedField
  | 34 => if fld w 11 1 = 0 ∧ fld w 14 1 = 0 ∧ fld w 20 5 = 0 then .ok (.tlog (bf w 7 4) (bf w 15 5) (bf w 12 2)) else .error .reservedField
  | 35 => if fld w 11 1 = 0 ∧ fld w 14 1 = 0 ∧ fld w 20 5 = 0 then .ok (.tlog2 (bf w 7 4) (bf w 15 5) (bf w 12 2)) else .error .reservedField
  | 36 => if fld w 11 1 = 0 ∧ fld w 14 1 = 0 ∧ fld w 20 5 = 0 then .ok (.tsqrt (bf w 7 4) (bf w 15 5) (bf w 12 2)) else .error .reservedField
  | 37 => if fld w 11 1 = 0 ∧ fld w 14 1 = 0 ∧ fld w 20 5 = 0 then .ok (.trsqrt (bf w 7 4) (bf w 15 5) (bf w 12 2)) else .error .reservedField
  | 38 => if fld w 11 1 = 0 ∧ fld w 14 1 = 0 ∧ fld w 20 5 = 0 then .ok (.trcp (bf w 7 4) (bf w 15 5) (bf w 12 2)) else .error .reservedField
  | 39 => if fld w 11 1 = 0 ∧ fld w 14 1 = 0 ∧ fld w 20 5 = 0 then .ok (.tsin (bf w 7 4) (bf w 15 5) (bf w 12 2)) else .error .reservedField
  | 40 => if fld w 11 1 = 0 ∧ fld w 14 1 = 0 ∧ fld w 20 5 = 0 then .ok (.tcos (bf w 7 4) (bf w 15 5) (bf w 12 2)) else .error .reservedField
  | 41 => if fld w 11 1 = 0 ∧ fld w 14 1 = 0 ∧ fld w 20 5 = 0 then .ok (.ttanh (bf w 7 4) (bf w 15 5) (bf w 12 2)) else .error .reservedField
  | 48 =>
    if fld w 11 1 = 0 ∧ fld w 14 1 = 0 ∧ fld w 20 5 = 0 then .ok (.tcvt (bf w 7 4) (bf w 15 5) (bf w 12 2)) else
    if fld w 11 4 = 8 ∧ fld w 23 2 = 0 then .ok (.tcvtSr (bf w 7 4) (bf w 20 3) (bf w 15 5)) else .error .reservedField
  | 49 => if fld w 11 1 = 0 ∧ fld w 13 2 = 0 ∧ fld w 19 6 = 0 then .ok (.tqnt (bf w 7 4) (bf w 15 4) (bf w 12 1)) else .error .reservedField
  | 56 => if fld w 11 1 = 0 ∧ fld w 20 5 = 0 then chk (.tsum (bf w 7 4) (bf w 15 5) (bf w 12 3)) else .error .reservedField
  | 57 => if fld w 11 1 = 0 ∧ fld w 20 5 = 0 then chk (.trmax (bf w 7 4) (bf w 15 5) (bf w 12 3)) else .error .reservedField
  | 58 => if fld w 11 1 = 0 ∧ fld w 20 5 = 0 then chk (.targmax (bf w 7 4) (bf w 15 5) (bf w 12 3)) else .error .reservedField
  | 59 => if fld w 11 1 = 0 ∧ fld w 13 2 = 0 ∧ fld w 20 5 = 0 then .ok (.tbcast (bf w 7 4) (bf w 15 5) (bf w 12 1)) else .error .reservedField
  | 64 => if fld w 11 4 = 0 ∧ fld w 19 6 = 0 then .ok (.ttrans (bf w 7 4) (bf w 15 4)) else .error .reservedField
  | 65 => if fld w 11 4 = 0 ∧ fld w 19 6 = 0 then .ok (.tsparse (bf w 7 4) (bf w 15 4)) else .error .reservedField
  | _ => .error .selector

/-- Opcode 0101011 (03 R61). -/
def decCustom1 (w : BitVec 32) : Except Reject Instr :=
  match fld w 12 3 with
  | 0 =>
    match fld w 9 2 with
    | 0 => if fld w 28 3 = 0 then chk (.mma (bf w 31 1) (bf w 24 4) (bf w 20 4) (bf w 16 4) (bf w 15 1) (bf w 11 1) (bf w 8 1) (bf w 7 1)) else .error .reservedField
    | 1 => chk (.mmas (bf w 28 4) (bf w 24 4) (bf w 20 4) (bf w 16 4) (bf w 15 1) (bf w 11 1) (bf w 8 1) (bf w 7 1))
    | 2 => if fld w 15 1 = 0 ∧ fld w 28 4 = 0 then .ok (.mmag (bf w 24 4) (bf w 20 4) (bf w 16 4) (bf w 11 1) (bf w 8 1) (bf w 7 1)) else .error .reservedField
    | _ => .error .selector
  | 1 =>
    match fld w 25 7 with
    | 0 => if fld w 7 5 = 0 ∧ fld w 19 1 = 0 then .ok (.mdld (bf w 15 4) (bf w 20 5)) else .error .reservedField
    | 1 => if fld w 7 5 = 0 ∧ fld w 20 5 = 0 then .ok (.mdclr (bf w 15 5)) else .error .reservedField
    | 2 => if fld w 7 5 = 0 then .ok (.mitw (bf w 15 5) (bf w 20 5)) else .error .reservedField
    | 8 => if fld w 10 2 = 0 ∧ fld w 20 5 = 0 then .ok (.gset (bf w 7 3) (bf w 15 5)) else .error .reservedField
    | 9 => if fld w 10 2 = 0 ∧ fld w 20 5 = 0 then .ok (.gget (bf w 7 3) (bf w 15 5)) else .error .reservedField
    | 10 => if fld w 10 2 = 0 ∧ fld w 20 5 = 0 then .ok (.gseed (bf w 7 3) (bf w 15 5)) else .error .reservedField
    | 11 => if fld w 11 1 = 0 ∧ fld w 18 7 = 0 then .ok (.gfill (bf w 7 4) (bf w 15 3)) else .error .reservedField
    | _ => .error .selector
  | 2 => if fld w 7 5 = 0 then .ok (.rpt (bf w 15 5) (bf w 23 9) (bf w 20 3)) else .error .reservedField
  | _ => .error .selector

/-- Opcode 1111011 (03 R61). -/
def decCustom3 (w : BitVec 32) : Except Reject Instr :=
  match fld w 12 3 with
  | 0 =>
    match fld w 25 7 with
    | 0 => if fld w 7 5 = 0 ∧ fld w 15 10 = 0 then .ok (.quit) else .error .reservedField
    | 1 => if fld w 7 5 = 0 ∧ fld w 19 6 = 0 then .ok (.ccnt (bf w 15 4)) else .error .reservedField
    | 2 => if fld w 7 5 = 0 ∧ fld w 20 5 = 0 then .ok (.rel (bf w 15 5)) else .error .reservedField
    | 3 => .ok (.spawn (bf w 7 5) (bf w 15 5) (bf w 20 5))
    | 9 => if fld w 7 5 = 0 ∧ fld w 15 10 = 0 then .ok (.tret) else .error .reservedField
    | 10 => if fld w 7 5 = 0 ∧ fld w 15 10 = 0 then .ok (.wfi) else .error .reservedField
    | 11 => if fld w 7 5 = 0 ∧ fld w 20 5 = 0 then .ok (.exbset (bf w 15 5)) else .error .reservedField
    | 12 => if fld w 10 2 = 0 ∧ fld w 20 5 = 0 then .ok (.segset (bf w 7 3) (bf w 15 5)) else .error .reservedField
    | 13 => if fld w 20 5 = 0 then .ok (.ctxout (bf w 7 5) (bf w 15 5)) else .error .reservedField
    | 14 => if fld w 20 5 = 0 then .ok (.ctxinRestore (bf w 7 5) (bf w 15 5)) else .error .reservedField
    | 15 => if fld w 7 5 = 0 then .ok (.watch (bf w 15 5) (bf w 20 5)) else .error .reservedField
    | 16 => if fld w 7 5 = 0 ∧ fld w 20 5 = 0 then .ok (.lockb (bf w 15 5)) else .error .reservedField
    | 17 => if fld w 7 5 = 0 ∧ fld w 20 5 = 0 then .ok (.unlockb (bf w 15 5)) else .error .reservedField
    | 18 => if fld w 7 5 = 0 then .ok (.rotwWriteShadow (bf w 15 5) (bf w 20 5)) else .error .reservedField
    | 24 => .ok (.rinv (bf w 7 5) (bf w 15 5) (bf w 20 5))
    | 25 => .ok (.rinvr (bf w 7 5) (bf w 15 5) (bf w 20 5))
    | 26 => if fld w 7 5 = 0 then .ok (.rreply (bf w 15 5) (bf w 20 5)) else .error .reservedField
    | 27 => if fld w 7 5 = 0 then .ok (.impset (bf w 15 5) (bf w 20 5)) else .error .reservedField
    | 28 => if fld w 7 5 = 0 then .ok (.expset (bf w 15 5) (bf w 20 5)) else .error .reservedField
    | 29 => if fld w 7 5 = 0 then .ok (.htset (bf w 15 5) (bf w 20 5)) else .error .reservedField
    | 32 => if fld w 15 10 = 0 then .ok (.oseed (bf w 7 5)) else .error .reservedField
    | 33 => if fld w 20 5 = 0 then .ok (.oreeseed (bf w 7 5) (bf w 15 5)) else .error .reservedField
    | 34 => .ok (.odraw (bf w 7 5) (bf w 15 5) (bf w 20 5))
    | 35 => .ok (.oplace (bf w 7 5) (bf w 15 5) (bf w 20 5))
    | 36 => .ok (.oxq (bf w 7 5) (bf w 15 5) (bf w 20 5))
    | 37 => if fld w 20 5 = 0 then .ok (.oshare (bf w 7 5) (bf w 15 5)) else .error .reservedField
    | 48 => if fld w 20 5 = 0 then .ok (.wpkQueue (bf w 7 5) (bf w 15 5)) else .error .reservedField
    | 49 => if fld w 7 5 = 0 ∧ fld w 20 5 = 0 then .ok (.qkick (bf w 15 5)) else .error .reservedField
    | 50 => if fld w 20 5 = 0 then .ok (.qstatReadPending (bf w 7 5) (bf w 15 5)) else .error .reservedField
    | _ => .error .selector
  | 1 => if fld w 7 5 = 0 ∧ fld w 15 5 = 0 then .ok (.trap (bf w 20 12)) else .error .reservedField
  | _ => .error .selector

/-- The decoder: length, major opcode, then the map of the opcode (steps 2 to 4 of 03 R75). -/
def decodeWord (w : BitVec 32) : Except Reject Instr :=
  match fld w 0 7 with
  | 3 => decLoad w
  | 11 => decCustom0 w
  | 15 => decMiscMem w
  | 19 => decOpImm w
  | 23 => decAuipc w
  | 27 => decOpImm32 w
  | 35 => decStore w
  | 43 => decCustom1 w
  | 47 => decAmo w
  | 51 => decOp w
  | 55 => decLui w
  | 59 => decOp32 w
  | 91 => decCustom2 w
  | 99 => decBranch w
  | 103 => decJalr w
  | 111 => decJal w
  | 115 => decSystem w
  | 123 => decCustom3 w
  | _ =>
    if fld w 0 2 ≠ 3 then .error .shortEncoding
    else if fld w 2 3 = 7 then .error .longEncoding
    else .error .opcode

/-- Four bytes of a word, lowest address first (00 R2, 03 R53). -/
def wordBytes (w : BitVec 32) : List (BitVec 8) :=
  [BitVec.ofNat 8 w.toNat, BitVec.ofNat 8 (w.toNat / 256), BitVec.ofNat 8 (w.toNat / 65536), BitVec.ofNat 8 (w.toNat / 16777216)]

/-- The word that four bytes hold. -/
def bytesWord (b0 b1 b2 b3 : BitVec 8) : BitVec 32 :=
  BitVec.ofNat 32 (b0.toNat + 256 * b1.toNat + 65536 * b2.toNat + 16777216 * b3.toNat)

/-- The decoder on bytes in memory order: the instruction and the bytes after it. -/
def decode : List (BitVec 8) → Except Reject (Instr × List (BitVec 8))
  | b0 :: b1 :: b2 :: b3 :: rest =>
    match decodeWord (bytesWord b0 b1 b2 b3) with
    | .ok i => .ok (i, rest)
    | .error e => .error e
  | _ => .error .shortEncoding

/-- The instruction that the decoder reads from a table word (bit 0 the least significant of the first byte). -/
def decodeTableWord (nbits w : Nat) : Option Instr :=
  match decode (wordBytes (BitVec.ofNat 32 (w % 2 ^ nbits))) with
  | .ok (i, _) => some i
  | .error _ => none

/-- A field of value v at bit lo. -/
def at' (lo v : Nat) : Nat := v * 2 ^ lo

/-- The word of an encoded instruction as a number, from the same maps (03 R57-R74); events have none. -/
def encodeNat : Instr → Option Nat
  | .lui d imm => some (0x00000037 + at' 7 d.toNat + at' 12 imm.toNat)
  | .auipc d imm => some (0x00000017 + at' 7 d.toNat + at' 12 imm.toNat)
  | .jal d imm => some (0x0000006F + at' 7 d.toNat + at' 31 (imm.toNat / 524288 % 2) + at' 12 (imm.toNat / 2048 % 256) + at' 20 (imm.toNat / 1024 % 2) + at' 21 (imm.toNat / 1 % 1024))
  | .jalr d s imm => some (0x00000067 + at' 7 d.toNat + at' 15 s.toNat + at' 20 imm.toNat)
  | .beq s t imm => some (0x00000063 + at' 15 s.toNat + at' 20 t.toNat + at' 31 (imm.toNat / 2048 % 2) + at' 7 (imm.toNat / 1024 % 2) + at' 25 (imm.toNat / 16 % 64) + at' 8 (imm.toNat / 1 % 16))
  | .bne s t imm => some (0x00001063 + at' 15 s.toNat + at' 20 t.toNat + at' 31 (imm.toNat / 2048 % 2) + at' 7 (imm.toNat / 1024 % 2) + at' 25 (imm.toNat / 16 % 64) + at' 8 (imm.toNat / 1 % 16))
  | .blt s t imm => some (0x00004063 + at' 15 s.toNat + at' 20 t.toNat + at' 31 (imm.toNat / 2048 % 2) + at' 7 (imm.toNat / 1024 % 2) + at' 25 (imm.toNat / 16 % 64) + at' 8 (imm.toNat / 1 % 16))
  | .bge s t imm => some (0x00005063 + at' 15 s.toNat + at' 20 t.toNat + at' 31 (imm.toNat / 2048 % 2) + at' 7 (imm.toNat / 1024 % 2) + at' 25 (imm.toNat / 16 % 64) + at' 8 (imm.toNat / 1 % 16))
  | .bltu s t imm => some (0x00006063 + at' 15 s.toNat + at' 20 t.toNat + at' 31 (imm.toNat / 2048 % 2) + at' 7 (imm.toNat / 1024 % 2) + at' 25 (imm.toNat / 16 % 64) + at' 8 (imm.toNat / 1 % 16))
  | .bgeu s t imm => some (0x00007063 + at' 15 s.toNat + at' 20 t.toNat + at' 31 (imm.toNat / 2048 % 2) + at' 7 (imm.toNat / 1024 % 2) + at' 25 (imm.toNat / 16 % 64) + at' 8 (imm.toNat / 1 % 16))
  | .lb d s imm => some (0x00000003 + at' 7 d.toNat + at' 15 s.toNat + at' 20 imm.toNat)
  | .lh d s imm => some (0x00001003 + at' 7 d.toNat + at' 15 s.toNat + at' 20 imm.toNat)
  | .lw d s imm => some (0x00002003 + at' 7 d.toNat + at' 15 s.toNat + at' 20 imm.toNat)
  | .ld d s imm => some (0x00003003 + at' 7 d.toNat + at' 15 s.toNat + at' 20 imm.toNat)
  | .lbu d s imm => some (0x00004003 + at' 7 d.toNat + at' 15 s.toNat + at' 20 imm.toNat)
  | .lhu d s imm => some (0x00005003 + at' 7 d.toNat + at' 15 s.toNat + at' 20 imm.toNat)
  | .lwu d s imm => some (0x00006003 + at' 7 d.toNat + at' 15 s.toNat + at' 20 imm.toNat)
  | .sb t s imm => some (0x00000023 + at' 20 t.toNat + at' 15 s.toNat + at' 25 (imm.toNat / 32 % 128) + at' 7 (imm.toNat / 1 % 32))
  | .sh t s imm => some (0x00001023 + at' 20 t.toNat + at' 15 s.toNat + at' 25 (imm.toNat / 32 % 128) + at' 7 (imm.toNat / 1 % 32))
  | .sw t s imm => some (0x00002023 + at' 20 t.toNat + at' 15 s.toNat + at' 25 (imm.toNat / 32 % 128) + at' 7 (imm.toNat / 1 % 32))
  | .sd t s imm => some (0x00003023 + at' 20 t.toNat + at' 15 s.toNat + at' 25 (imm.toNat / 32 % 128) + at' 7 (imm.toNat / 1 % 32))
  | .addi d s imm => some (0x00000013 + at' 7 d.toNat + at' 15 s.toNat + at' 20 imm.toNat)
  | .slti d s imm => some (0x00002013 + at' 7 d.toNat + at' 15 s.toNat + at' 20 imm.toNat)
  | .sltiu d s imm => some (0x00003013 + at' 7 d.toNat + at' 15 s.toNat + at' 20 imm.toNat)
  | .xori d s imm => some (0x00004013 + at' 7 d.toNat + at' 15 s.toNat + at' 20 imm.toNat)
  | .ori d s imm => some (0x00006013 + at' 7 d.toNat + at' 15 s.toNat + at' 20 imm.toNat)
  | .andi d s imm => some (0x00007013 + at' 7 d.toNat + at' 15 s.toNat + at' 20 imm.toNat)
  | .slli d s sh => some (0x00001013 + at' 7 d.toNat + at' 15 s.toNat + at' 20 sh.toNat)
  | .srli d s sh => some (0x00005013 + at' 7 d.toNat + at' 15 s.toNat + at' 20 sh.toNat)
  | .srai d s sh => some (0x40005013 + at' 7 d.toNat + at' 15 s.toNat + at' 20 sh.toNat)
  | .addiw d s imm => some (0x0000001B + at' 7 d.toNat + at' 15 s.toNat + at' 20 imm.toNat)
  | .slliw d s sh => some (0x0000101B + at' 7 d.toNat + at' 15 s.toNat + at' 20 sh.toNat)
  | .srliw d s sh => some (0x0000501B + at' 7 d.toNat + at' 15 s.toNat + at' 20 sh.toNat)
  | .sraiw d s sh => some (0x4000501B + at' 7 d.toNat + at' 15 s.toNat + at' 20 sh.toNat)
  | .add d s t => some (0x00000033 + at' 7 d.toNat + at' 15 s.toNat + at' 20 t.toNat)
  | .sub d s t => some (0x40000033 + at' 7 d.toNat + at' 15 s.toNat + at' 20 t.toNat)
  | .sll d s t => some (0x00001033 + at' 7 d.toNat + at' 15 s.toNat + at' 20 t.toNat)
  | .slt d s t => some (0x00002033 + at' 7 d.toNat + at' 15 s.toNat + at' 20 t.toNat)
  | .sltu d s t => some (0x00003033 + at' 7 d.toNat + at' 15 s.toNat + at' 20 t.toNat)
  | .xor d s t => some (0x00004033 + at' 7 d.toNat + at' 15 s.toNat + at' 20 t.toNat)
  | .srl d s t => some (0x00005033 + at' 7 d.toNat + at' 15 s.toNat + at' 20 t.toNat)
  | .sra d s t => some (0x40005033 + at' 7 d.toNat + at' 15 s.toNat + at' 20 t.toNat)
  | .or d s t => some (0x00006033 + at' 7 d.toNat + at' 15 s.toNat + at' 20 t.toNat)
  | .and d s t => some (0x00007033 + at' 7 d.toNat + at' 15 s.toNat + at' 20 t.toNat)
  | .mul d s t => some (0x02000033 + at' 7 d.toNat + at' 15 s.toNat + at' 20 t.toNat)
  | .mulh d s t => some (0x02001033 + at' 7 d.toNat + at' 15 s.toNat + at' 20 t.toNat)
  | .mulhsu d s t => some (0x02002033 + at' 7 d.toNat + at' 15 s.toNat + at' 20 t.toNat)
  | .mulhu d s t => some (0x02003033 + at' 7 d.toNat + at' 15 s.toNat + at' 20 t.toNat)
  | .div d s t => some (0x02004033 + at' 7 d.toNat + at' 15 s.toNat + at' 20 t.toNat)
  | .divu d s t => some (0x02005033 + at' 7 d.toNat + at' 15 s.toNat + at' 20 t.toNat)
  | .rem d s t => some (0x02006033 + at' 7 d.toNat + at' 15 s.toNat + at' 20 t.toNat)
  | .remu d s t => some (0x02007033 + at' 7 d.toNat + at' 15 s.toNat + at' 20 t.toNat)
  | .addw d s t => some (0x0000003B + at' 7 d.toNat + at' 15 s.toNat + at' 20 t.toNat)
  | .subw d s t => some (0x4000003B + at' 7 d.toNat + at' 15 s.toNat + at' 20 t.toNat)
  | .sllw d s t => some (0x0000103B + at' 7 d.toNat + at' 15 s.toNat + at' 20 t.toNat)
  | .srlw d s t => some (0x0000503B + at' 7 d.toNat + at' 15 s.toNat + at' 20 t.toNat)
  | .sraw d s t => some (0x4000503B + at' 7 d.toNat + at' 15 s.toNat + at' 20 t.toNat)
  | .mulw d s t => some (0x0200003B + at' 7 d.toNat + at' 15 s.toNat + at' 20 t.toNat)
  | .divw d s t => some (0x0200403B + at' 7 d.toNat + at' 15 s.toNat + at' 20 t.toNat)
  | .divuw d s t => some (0x0200503B + at' 7 d.toNat + at' 15 s.toNat + at' 20 t.toNat)
  | .remw d s t => some (0x0200603B + at' 7 d.toNat + at' 15 s.toNat + at' 20 t.toNat)
  | .remuw d s t => some (0x0200703B + at' 7 d.toNat + at' 15 s.toNat + at' 20 t.toNat)
  | .fence fm pr sc => some (0x0000000F + at' 31 fm.toNat + at' 24 pr.toNat + at' 20 sc.toNat)
  | .fenceI => some (0x0000100F)
  | .ecall => some (0x00000073)
  | .ebreak => some (0x00100073)
  | .csrrw d s csr => some (0x00001073 + at' 7 d.toNat + at' 15 s.toNat + at' 20 csr.toNat)
  | .csrrs d s csr => some (0x00002073 + at' 7 d.toNat + at' 15 s.toNat + at' 20 csr.toNat)
  | .csrrc d s csr => some (0x00003073 + at' 7 d.toNat + at' 15 s.toNat + at' 20 csr.toNat)
  | .csrrwi d csr uimm => some (0x00005073 + at' 7 d.toNat + at' 20 csr.toNat + at' 15 uimm.toNat)
  | .csrrsi d csr uimm => some (0x00006073 + at' 7 d.toNat + at' 20 csr.toNat + at' 15 uimm.toNat)
  | .csrrci d csr uimm => some (0x00007073 + at' 7 d.toNat + at' 20 csr.toNat + at' 15 uimm.toNat)
  | .lrW d s aq rl => some (0x1000202F + at' 7 d.toNat + at' 15 s.toNat + at' 26 aq.toNat + at' 25 rl.toNat)
  | .lrD d s aq rl => some (0x1000302F + at' 7 d.toNat + at' 15 s.toNat + at' 26 aq.toNat + at' 25 rl.toNat)
  | .scW d s t aq rl => some (0x1800202F + at' 7 d.toNat + at' 15 s.toNat + at' 20 t.toNat + at' 26 aq.toNat + at' 25 rl.toNat)
  | .scD d s t aq rl => some (0x1800302F + at' 7 d.toNat + at' 15 s.toNat + at' 20 t.toNat + at' 26 aq.toNat + at' 25 rl.toNat)
  | .amoswapW d s t aq rl => some (0x0800202F + at' 7 d.toNat + at' 15 s.toNat + at' 20 t.toNat + at' 26 aq.toNat + at' 25 rl.toNat)
  | .amoswapD d s t aq rl => some (0x0800302F + at' 7 d.toNat + at' 15 s.toNat + at' 20 t.toNat + at' 26 aq.toNat + at' 25 rl.toNat)
  | .amoaddW d s t aq rl => some (0x0000202F + at' 7 d.toNat + at' 15 s.toNat + at' 20 t.toNat + at' 26 aq.toNat + at' 25 rl.toNat)
  | .amoaddD d s t aq rl => some (0x0000302F + at' 7 d.toNat + at' 15 s.toNat + at' 20 t.toNat + at' 26 aq.toNat + at' 25 rl.toNat)
  | .amoxorW d s t aq rl => some (0x2000202F + at' 7 d.toNat + at' 15 s.toNat + at' 20 t.toNat + at' 26 aq.toNat + at' 25 rl.toNat)
  | .amoxorD d s t aq rl => some (0x2000302F + at' 7 d.toNat + at' 15 s.toNat + at' 20 t.toNat + at' 26 aq.toNat + at' 25 rl.toNat)
  | .amoandW d s t aq rl => some (0x6000202F + at' 7 d.toNat + at' 15 s.toNat + at' 20 t.toNat + at' 26 aq.toNat + at' 25 rl.toNat)
  | .amoandD d s t aq rl => some (0x6000302F + at' 7 d.toNat + at' 15 s.toNat + at' 20 t.toNat + at' 26 aq.toNat + at' 25 rl.toNat)
  | .amoorW d s t aq rl => some (0x4000202F + at' 7 d.toNat + at' 15 s.toNat + at' 20 t.toNat + at' 26 aq.toNat + at' 25 rl.toNat)
  | .amoorD d s t aq rl => some (0x4000302F + at' 7 d.toNat + at' 15 s.toNat + at' 20 t.toNat + at' 26 aq.toNat + at' 25 rl.toNat)
  | .amominW d s t aq rl => some (0x8000202F + at' 7 d.toNat + at' 15 s.toNat + at' 20 t.toNat + at' 26 aq.toNat + at' 25 rl.toNat)
  | .amominD d s t aq rl => some (0x8000302F + at' 7 d.toNat + at' 15 s.toNat + at' 20 t.toNat + at' 26 aq.toNat + at' 25 rl.toNat)
  | .amomaxW d s t aq rl => some (0xA000202F + at' 7 d.toNat + at' 15 s.toNat + at' 20 t.toNat + at' 26 aq.toNat + at' 25 rl.toNat)
  | .amomaxD d s t aq rl => some (0xA000302F + at' 7 d.toNat + at' 15 s.toNat + at' 20 t.toNat + at' 26 aq.toNat + at' 25 rl.toNat)
  | .amominuW d s t aq rl => some (0xC000202F + at' 7 d.toNat + at' 15 s.toNat + at' 20 t.toNat + at' 26 aq.toNat + at' 25 rl.toNat)
  | .amominuD d s t aq rl => some (0xC000302F + at' 7 d.toNat + at' 15 s.toNat + at' 20 t.toNat + at' 26 aq.toNat + at' 25 rl.toNat)
  | .amomaxuW d s t aq rl => some (0xE000202F + at' 7 d.toNat + at' 15 s.toNat + at' 20 t.toNat + at' 26 aq.toNat + at' 25 rl.toNat)
  | .amomaxuD d s t aq rl => some (0xE000302F + at' 7 d.toNat + at' 15 s.toNat + at' 20 t.toNat + at' 26 aq.toNat + at' 25 rl.toNat)
  | .amofaddS d a b aq rl => some (0x0000505B + at' 7 d.toNat + at' 15 a.toNat + at' 20 b.toNat + at' 26 aq.toNat + at' 25 rl.toNat)
  | .tdef d a => some (0x0000000B + at' 7 d.toNat + at' 15 a.toNat)
  | .tshape d a b => some (0x0200000B + at' 7 d.toNat + at' 15 a.toNat + at' 20 b.toNat)
  | .tfill d a => some (0x0400000B + at' 7 d.toNat + at' 15 a.toNat)
  | .txget d a b => some (0x0600000B + at' 7 d.toNat + at' 15 a.toNat + at' 20 b.toNat)
  | .txset d a b => some (0x0800000B + at' 7 d.toNat + at' 15 a.toNat + at' 20 b.toNat)
  | .tadd d a b rm => some (0x1000000B + at' 7 d.toNat + at' 15 a.toNat + at' 20 b.toNat + at' 12 rm.toNat)
  | .tsub d a b rm => some (0x1200000B + at' 7 d.toNat + at' 15 a.toNat + at' 20 b.toNat + at' 12 rm.toNat)
  | .tmul d a b rm => some (0x1400000B + at' 7 d.toNat + at' 15 a.toNat + at' 20 b.toNat + at' 12 rm.toNat)
  | .tfma d a b rm => some (0x1600000B + at' 7 d.toNat + at' 15 a.toNat + at' 20 b.toNat + at' 12 rm.toNat)
  | .tmin d a b rm => some (0x1800000B + at' 7 d.toNat + at' 15 a.toNat + at' 20 b.toNat + at' 12 rm.toNat)
  | .tmax d a b rm => some (0x1A00000B + at' 7 d.toNat + at' 15 a.toNat + at' 20 b.toNat + at' 12 rm.toNat)
  | .tdiv d a b rm => some (0x1C00000B + at' 7 d.toNat + at' 15 a.toNat + at' 20 b.toNat + at' 12 rm.toNat)
  | .tabs d a => some (0x2000000B + at' 7 d.toNat + at' 15 a.toNat)
  | .tneg d a => some (0x2200000B + at' 7 d.toNat + at' 15 a.toNat)
  | .tand d a b => some (0x2800000B + at' 7 d.toNat + at' 15 a.toNat + at' 20 b.toNat)
  | .tor d a b => some (0x2A00000B + at' 7 d.toNat + at' 15 a.toNat + at' 20 b.toNat)
  | .txor d a b => some (0x2C00000B + at' 7 d.toNat + at' 15 a.toNat + at' 20 b.toNat)
  | .tsel d a b => some (0x2E00000B + at' 7 d.toNat + at' 15 a.toNat + at' 20 b.toNat)
  | .tcmp d a b cond => some (0x3000000B + at' 7 d.toNat + at' 15 a.toNat + at' 20 b.toNat + at' 12 cond.toNat)
  | .texp d a rm => some (0x4000000B + at' 7 d.toNat + at' 15 a.toNat + at' 12 rm.toNat)
  | .texp2 d a rm => some (0x4200000B + at' 7 d.toNat + at' 15 a.toNat + at' 12 rm.toNat)
  | .tlog d a rm => some (0x4400000B + at' 7 d.toNat + at' 15 a.toNat + at' 12 rm.toNat)
  | .tlog2 d a rm => some (0x4600000B + at' 7 d.toNat + at' 15 a.toNat + at' 12 rm.toNat)
  | .tsqrt d a rm => some (0x4800000B + at' 7 d.toNat + at' 15 a.toNat + at' 12 rm.toNat)
  | .trsqrt d a rm => some (0x4A00000B + at' 7 d.toNat + at' 15 a.toNat + at' 12 rm.toNat)
  | .trcp d a rm => some (0x4C00000B + at' 7 d.toNat + at' 15 a.toNat + at' 12 rm.toNat)
  | .tsin d a rm => some (0x4E00000B + at' 7 d.toNat + at' 15 a.toNat + at' 12 rm.toNat)
  | .tcos d a rm => some (0x5000000B + at' 7 d.toNat + at' 15 a.toNat + at' 12 rm.toNat)
  | .ttanh d a rm => some (0x5200000B + at' 7 d.toNat + at' 15 a.toNat + at' 12 rm.toNat)
  | .tcvt d a rm => some (0x6000000B + at' 7 d.toNat + at' 15 a.toNat + at' 12 rm.toNat)
  | .tcvtSr d g a => some (0x6000400B + at' 7 d.toNat + at' 20 g.toNat + at' 15 a.toNat)
  | .tqnt d a ns => some (0x6200000B + at' 7 d.toNat + at' 15 a.toNat + at' 12 ns.toNat)
  | .tsum d a axis => some (0x7000000B + at' 7 d.toNat + at' 15 a.toNat + at' 12 axis.toNat)
  | .trmax d a axis => some (0x7200000B + at' 7 d.toNat + at' 15 a.toNat + at' 12 axis.toNat)
  | .targmax d a axis => some (0x7400000B + at' 7 d.toNat + at' 15 a.toNat + at' 12 axis.toNat)
  | .tbcast d a axis => some (0x7600000B + at' 7 d.toNat + at' 15 a.toNat + at' 12 axis.toNat)
  | .ttrans d a => some (0x8000000B + at' 7 d.toNat + at' 15 a.toNat)
  | .tsparse d a => some (0x8200000B + at' 7 d.toNat + at' 15 a.toNat)
  | .mma gA b a c gB sat z tb => some (0x0000002B + at' 31 gA.toNat + at' 24 b.toNat + at' 20 a.toNat + at' 16 c.toNat + at' 15 gB.toNat + at' 11 sat.toNat + at' 8 z.toNat + at' 7 tb.toNat)
  | .mmas moff b a c gB sat z tb => some (0x0000022B + at' 28 moff.toNat + at' 24 b.toNat + at' 20 a.toNat + at' 16 c.toNat + at' 15 gB.toNat + at' 11 sat.toNat + at' 8 z.toNat + at' 7 tb.toNat)
  | .mmag b a c sat z tb => some (0x0000042B + at' 24 b.toNat + at' 20 a.toNat + at' 16 c.toNat + at' 11 sat.toNat + at' 8 z.toNat + at' 7 tb.toNat)
  | .mdld a b => some (0x0000102B + at' 15 a.toNat + at' 20 b.toNat)
  | .mdclr a => some (0x0200102B + at' 15 a.toNat)
  | .mitw a b => some (0x0400102B + at' 15 a.toNat + at' 20 b.toNat)
  | .gset g a => some (0x1000102B + at' 7 g.toNat + at' 15 a.toNat)
  | .gget g a => some (0x1200102B + at' 7 g.toNat + at' 15 a.toNat)
  | .gseed g a => some (0x1400102B + at' 7 g.toNat + at' 15 a.toNat)
  | .gfill d g => some (0x1600102B + at' 7 d.toNat + at' 15 g.toNat)
  | .rpt a m n => some (0x0000202B + at' 15 a.toNat + at' 23 m.toNat + at' 20 n.toNat)
  | .ldAq scope d a off => some (0x0000005B + at' 20 scope.toNat + at' 7 d.toNat + at' 15 a.toNat + at' 23 off.toNat)
  | .sdRl scope b a off => some (0x0000105B + at' 7 scope.toNat + at' 20 b.toNat + at' 15 a.toNat + at' 25 (off.toNat / 4 % 128) + at' 10 (off.toNat / 1 % 4))
  | .ldfe d a off => some (0x0000205B + at' 7 d.toNat + at' 15 a.toNat + at' 23 off.toNat)
  | .ldff d a off => some (0x0010205B + at' 7 d.toNat + at' 15 a.toNat + at' 23 off.toNat)
  | .stfe b a off => some (0x0000305B + at' 20 b.toNat + at' 15 a.toNat + at' 25 (off.toNat / 4 % 128) + at' 10 (off.toNat / 1 % 4))
  | .stff b a off => some (0x000030DB + at' 20 b.toNat + at' 15 a.toNat + at' 25 (off.toNat / 4 % 128) + at' 10 (off.toNat / 1 % 4))
  | .fesetE a off => some (0x0000405B + at' 15 a.toNat + at' 20 off.toNat)
  | .fesetF a off => some (0x000040DB + at' 15 a.toNat + at' 20 off.toNat)
  | .cinv a off => some (0x0000415B + at' 15 a.toNat + at' 20 off.toNat)
  | .cflush a off => some (0x000041DB + at' 15 a.toNat + at' 20 off.toNat)
  | .pref a off => some (0x0000425B + at' 15 a.toNat + at' 20 off.toNat)
  | .fenceS kind scope => some (0x0800505B + at' 20 kind.toNat + at' 15 scope.toNat)
  | .bar a => some (0x0A00505B + at' 15 a.toNat)
  | .barinit a b scope => some (0x0C00505B + at' 15 a.toNat + at' 20 b.toNat + at' 7 scope.toNat)
  | .cpyLd d a b => some (0x2000505B + at' 7 d.toNat + at' 15 a.toNat + at' 20 b.toNat)
  | .cpyLdPx8 d a b => some (0x2200505B + at' 7 d.toNat + at' 15 a.toNat + at' 20 b.toNat)
  | .cpySt t a b => some (0x2400505B + at' 7 t.toNat + at' 15 a.toNat + at' 20 b.toNat)
  | .cpyStPx8 t a b => some (0x2600505B + at' 7 t.toNat + at' 15 a.toNat + at' 20 b.toNat)
  | .cpyTt d a b => some (0x2800505B + at' 7 d.toNat + at' 15 a.toNat + at' 20 b.toNat)
  | .czip d a => some (0x2A00505B + at' 7 d.toNat + at' 15 a.toNat)
  | .cunzip d a => some (0x2C00505B + at' 7 d.toNat + at' 15 a.toNat)
  | .red t a b => some (0x2E00505B + at' 7 t.toNat + at' 15 a.toNat + at' 20 b.toNat)
  | .sbind a b => some (0x3000505B + at' 15 a.toNat + at' 20 b.toNat)
  | .cstat d a => some (0x3200505B + at' 7 d.toNat + at' 15 a.toNat)
  | .ccancel a => some (0x3400505B + at' 15 a.toNat)
  | .gspawn d a => some (0x4000505B + at' 7 d.toNat + at' 15 a.toNat)
  | .lnch d a => some (0x4200505B + at' 7 d.toNat + at' 15 a.toNat)
  | .cntnew d a => some (0x4400505B + at' 7 d.toNat + at' 15 a.toNat)
  | .cntbind a b => some (0x4600505B + at' 15 a.toNat + at' 20 b.toNat)
  | .cntdec a => some (0x4800505B + at' 15 a.toNat)
  | .cntfree a => some (0x4A00505B + at' 15 a.toNat)
  | .msend a b => some (0x4C00505B + at' 15 a.toNat + at' 20 b.toNat)
  | .mrecv d a => some (0x4E00505B + at' 7 d.toNat + at' 15 a.toNat)
  | .tnext d => some (0x5000505B + at' 7 d.toNat)
  | .phase a => some (0x5200505B + at' 15 a.toNat)
  | .waitc l s c t => some (0x0000605B + at' 29 l.toNat + at' 26 s.toNat + at' 23 c.toNat + at' 20 t.toNat)
  | .qwait a imm => some (0x0000705B + at' 15 a.toNat + at' 20 imm.toNat)
  | .rwait a imm => some (0x000070DB + at' 15 a.toNat + at' 20 imm.toNat)
  | .quit => some (0x0000007B)
  | .ccnt n => some (0x0200007B + at' 15 n.toNat)
  | .rel a => some (0x0400007B + at' 15 a.toNat)
  | .spawn d a b => some (0x0600007B + at' 7 d.toNat + at' 15 a.toNat + at' 20 b.toNat)
  | .tret => some (0x1200007B)
  | .wfi => some (0x1400007B)
  | .exbset a => some (0x1600007B + at' 15 a.toNat)
  | .segset g a => some (0x1800007B + at' 7 g.toNat + at' 15 a.toNat)
  | .ctxout d a => some (0x1A00007B + at' 7 d.toNat + at' 15 a.toNat)
  | .ctxinRestore d a => some (0x1C00007B + at' 7 d.toNat + at' 15 a.toNat)
  | .ctxinDiscard d a => some (0x1C00007B + at' 7 d.toNat + at' 15 a.toNat)
  | .watch a b => some (0x1E00007B + at' 15 a.toNat + at' 20 b.toNat)
  | .lockb a => some (0x2000007B + at' 15 a.toNat)
  | .unlockb a => some (0x2200007B + at' 15 a.toNat)
  | .rotwWriteShadow a b => some (0x2400007B + at' 15 a.toNat + at' 20 b.toNat)
  | .rotwWriteAttributes a b => some (0x2400007B + at' 15 a.toNat + at' 20 b.toNat)
  | .rotwCommit a b => some (0x2400007B + at' 15 a.toNat + at' 20 b.toNat)
  | .rotwCopy a b => some (0x2400007B + at' 15 a.toNat + at' 20 b.toNat)
  | .rinv d a b => some (0x3000007B + at' 7 d.toNat + at' 15 a.toNat + at' 20 b.toNat)
  | .rinvr d a b => some (0x3200007B + at' 7 d.toNat + at' 15 a.toNat + at' 20 b.toNat)
  | .rreply a b => some (0x3400007B + at' 15 a.toNat + at' 20 b.toNat)
  | .impset a b => some (0x3600007B + at' 15 a.toNat + at' 20 b.toNat)
  | .expset a b => some (0x3800007B + at' 15 a.toNat + at' 20 b.toNat)
  | .htset a b => some (0x3A00007B + at' 15 a.toNat + at' 20 b.toNat)
  | .oseed d => some (0x4000007B + at' 7 d.toNat)
  | .oreeseed d a => some (0x4200007B + at' 7 d.toNat + at' 15 a.toNat)
  | .odraw d a b => some (0x4400007B + at' 7 d.toNat + at' 15 a.toNat + at' 20 b.toNat)
  | .oplace d a b => some (0x4600007B + at' 7 d.toNat + at' 15 a.toNat + at' 20 b.toNat)
  | .oxq d a b => some (0x4800007B + at' 7 d.toNat + at' 15 a.toNat + at' 20 b.toNat)
  | .oshare d a => some (0x4A00007B + at' 7 d.toNat + at' 15 a.toNat)
  | .wpkQueue d a => some (0x6000007B + at' 7 d.toNat + at' 15 a.toNat)
  | .wpkPending d a => some (0x6000007B + at' 7 d.toNat + at' 15 a.toNat)
  | .wpkEvent d a => some (0x6000007B + at' 7 d.toNat + at' 15 a.toNat)
  | .qkick a => some (0x6200007B + at' 15 a.toNat)
  | .qstatReadPending d a => some (0x6400007B + at' 7 d.toNat + at' 15 a.toNat)
  | .qstatClearPending d a => some (0x6400007B + at' 7 d.toNat + at' 15 a.toNat)
  | .qstatBind d a => some (0x6400007B + at' 7 d.toNat + at' 15 a.toNat)
  | .qstatReadSlot d a => some (0x6400007B + at' 7 d.toNat + at' 15 a.toNat)
  | .trap imm => some (0x0000107B + at' 20 imm.toNat)
  | .rotationPosition => none
  | .parkWake => none
  | .rotationTableSwitch => none
  | .registerValueArrival => none
  | .spawnArrival => none
  | .memoryAccessArrival => none
  | .feAccessArrival => none
  | .feListRetry => none
  | .reservationExpiry => none
  | .mergeBufferExpiry => none
  | .postedAnswerArrival => none
  | .fenceEchoArrival => none
  | .barinitAtBank => none
  | .barrierArrival => none
  | .barrierReleaseDelivery => none
  | .sliceWrite => none
  | .requestReplayTimeout => none
  | .replayAck => none
  | .bankWatchEvent => none
  | .copyUnitWrite => none
  | .copyCompletion => none
  | .redContributionArrival => none
  | .reductionDelivery => none
  | .pageWalk => none
  | .pagerNotice => none
  | .fbcmdMapped => none
  | .fbcmdDeny => none
  | .fbcmdReplayAll => none
  | .fbcmdInval => none
  | .fbcmdMigrate => none
  | .invalComplete => none
  | .migrationComplete => none
  | .tileStrip => none
  | .vernierEntry => none
  | .vernierTableSwitch => none
  | .rptReissue => none
  | .portWordArrival => none
  | .sbindStreamPush => none
  | .bankLockGrant => none
  | .lockTimeout => none
  | .launchPlacement => none
  | .launchAgeing => none
  | .launchDone => none
  | .counterDecrement => none
  | .counterBind => none
  | .counterFree => none
  | .messageStoreArrival => none
  | .phaseReportArrival => none
  | .qtimeout => none
  | .rwaitPoll => none
  | .rtimeout => none
  | .invoke => none
  | .spillRingMove => none
  | .invocationPlacement => none
  | .reply => none
  | .answer => none
  | .write => none
  | .read => none
  | .atomic => none
  | .counter => none
  | .pause => none
  | .resume => none
  | .pauseRepeat => none
  | .flitReceive => none
  | .linkTraining => none
  | .arbitrationRound => none
  | .dieCacheFill => none
  | .sweeperVisit => none
  | .pcmdReset => none
  | .flr => none
  | .sextantResetRequest => none
  | .partitionReset => none
  | .zeroClear => none
  | .moduleReset => none
  | .dieBoot => none
  | .pdiesWrite => none
  | .vfcfgWrite => none
  | .ownerTableWrite => none
  | .scrubPass => none
  | .thermalStepRise => none
  | .thermalStepFall => none
  | .powerStepChange => none
  | .throttleStepApply => none
  | .thermalTrip => none
  | .kick => none
  | .kickDelivery => none
  | .schedulerRun => none
  | .queuePacketStart => none
  | .launch => none
  | .copy => none
  | .wait => none
  | .signal => none
  | .queueInvoke => none
  | .timestamp => none
  | .nop => none
  | .resetQueue => none
  | .packetComplete => none
  | .waitReread => none
  | .launchRetry => none
  | .invokeRetry => none
  | .eventRecord => none
  | .dbgRead => none
  | .dbgWrite => none
  | .dbgRelease => none
  | .dbgHold => none
  | .dbgUnhold => none
  | .loadRequest => none
  | .hostMemRequest => none
  | .getCertificate => none
  | .challenge => none
  | .getMeasurements => none
  | .keyExchange => none
  | .raiseSecurityMinimum => none
  | .registerWrite => none
  | .coreOwnerAssign => none
  | .portRoomReturn => none
  | .ctxoutRequestArrival => none
  | .ctxinRequestArrival => none
  | .hostLinkTraining => none
  | .fabricLinkLost => none
  | .sextantCycle => none
  | .dmonselWrite => none
  | .exceedanceCounterClear => none
  | .hostCoherenceRequest => none

/-- The word of an encoded instruction. -/
def encode (i : Instr) : Option (BitVec 32) := (encodeNat i).map (BitVec.ofNat 32)

/-- The word of an instruction, 0 for an event. -/
def Instr.word (i : Instr) : BitVec 32 := (encode i).getD 0

end Sys2Proof
end

