-- ==== Sys2Proof/Config.lean ====
section
/-!
DEFINITION. Config: the fixed figures of the TVD-3200 (01 R14, R25) and the free values of the model.
A free value has no body, so nothing can evaluate it: a claim holds whatever it is.
-/
namespace Sys2Proof.Config

/-- Dies of the module (01 R14). -/
def dies : Nat := 32
/-- Clusters of a die (01 R14). -/
def clustersPerDie : Nat := 200
/-- Cores of a cluster (01 R14). -/
def coresPerCluster : Nat := 64
/-- Thread slots of a core (01 R14). -/
def slotsPerCore : Nat := 64
/-- Bytes of the G7 tier of a die (09 R221). -/
def g7Bytes : Nat := 48000000000
/-- Bytes of the L6 tier of a die (09 R221). -/
def l6Bytes : Nat := 128000000000

/-- DESIGN CHOICE (log 2). Which of the steps due happens next, drawn by the step counter: the moments of steps
within their bounds are not fixed (06 R144, 17 R430). -/
opaque pick : Nat → Nat

/-- DESIGN CHOICE (log 1). What the outside world (host, peer modules, sensors, errors in storage) does next, drawn by
the step counter: nothing, or an event with its data. -/
opaque input : Nat → Option Event

/-- DESIGN CHOICE (log 2). A 64-bit value of the entropy source (17 R416, R429), by counter. -/
opaque entropy : Nat → BitVec 64

/-- DESIGN CHOICE (log 2). The entropy source at the reset of a partition (17 R417): one value for each partition,
owner and draw; the partition seed is that of index 4,096. -/
opaque resetSeed : Nat → Nat → Nat → BitVec 64

/-- DESIGN CHOICE (log 2). Whether the array check of a partition's reset fails on a die (18 R450, R454), by die and the
number of resets. -/
opaque arrayFails : Nat → Nat → Bool

/-- DESIGN CHOICE (log 5). Module time minus nominal time of a die in ns, by die and count (05 R129: within 8 ns). -/
opaque timeSkew : Nat → Nat → Nat

/-- DESIGN CHOICE (log 6). Bytes of the SPDM answers (20 R482): by message number, the data asked with, and what the answer covers. -/
opaque spdm : Nat → Nat → List Nat → List (BitVec 8)

/-- DESIGN CHOICE (log 6). The immutable ROM of the dies (20 R481), which the measurements cover (20 R482). -/
opaque rom : Nat

/-- DESIGN CHOICE (log 6). Whether a firmware image of a security version verifies on a die (20 R481). -/
opaque imageGood : Nat → Nat → Bool

/-- DESIGN CHOICE (log 6). Where Sextant hardware thread t of a die starts after boot (20 R481 gives no layout). -/
opaque sextantEntry : Nat → Nat → BitVec 64

/-- DESIGN CHOICE (log 7). The CRC-32 of a flit (20 R478 names the code and not its polynomial or bit order). -/
opaque flitCrc : List (BitVec 128) → BitVec 32

/-- DESIGN CHOICE (log 8). The pager's backing (09 R231): for a die, owner and page, whether owner 0's
configuration maps it and to which leaf entry. -/
opaque pagerLeaf : Nat → Nat → Nat → Option (BitVec 64)

/-- DESIGN CHOICE (log 8). The bytes of a page in the pager's backing (09 R231), by die, owner, page and offset, and the
full/empty bits of its words, eight to a byte. -/
opaque pagerByte : Nat → Nat → Nat → Nat → BitVec 8
opaque pagerTags : Nat → Nat → Nat → Nat → BitVec 8

/-- DESIGN CHOICE (log 8). The free 32 KiB table that the pager takes for a level of an owner's page (09 R231). -/
opaque pagerTable : Nat → Nat → Nat → Nat → Nat

/-- DESIGN CHOICE (log 32). The offset of the tag region that owner 0 reserves in a tier of a die at partition start
(09 R222). -/
opaque tagOffset : Nat → Nat → Nat

/-- DESIGN CHOICE (log 16). The row of a byte in its memory package (17 R425 gives no row layout). -/
opaque rowOf : Nat → Nat

/-- DESIGN CHOICE (log 16). The crossings of the elastic network that a request passes between two places, in order, each as
die × 4,096 + crossing (17 R422 gives their number and no topology). -/
opaque crossings : Nat → Nat → List Nat

/-- DESIGN CHOICE (log 9). A device address of free memory for the loader's spill rings (02 R49, 16 R406). -/
opaque ringSpace : Nat → Nat → Option Nat

/-- DESIGN CHOICE (log 2). A value of a width that the spec leaves open, by counter. -/
opaque freeWord : Nat → BitVec 64

/-- Whether the request with an identifier of a peer module was an rinvr's, so that its group's token is valid (16 R410): what the
peer did, which its packet does not carry (log 18).  By module, identifier and a count. -/
opaque peerWaits : Nat → Nat → Nat → Bool
/-- The SLOT and SEQ of that request's journal entry at the peer, in the bits that 16 R410 gives them (log 18). -/
opaque peerEntry : Nat → Nat → Nat → BitVec 64

end Sys2Proof.Config
end

