-- ==== Sys2Proof/Machine/State.lean ====
section
/-!
DEFINITION. State: the whole module as plain data.  Every table lists only the units that differ from their reset
value, so State.reset lists nothing and every unlisted unit reads as its reset record.
Units are numbered across the module: die d 0-31, cluster d × 200 + c, core cluster × 64 + k, slot core × 64 + s
(01 R6, 15 R374).
-/
namespace Sys2Proof.Machine

/-- A table of the units that differ from their reset value, by number, in rising order. -/
abbrev Tbl (α : Type) := List (Nat × α)

/-- The mode of a thread (14 R340). -/
inductive Mode where
  | u
  | k
  deriving DecidableEq, Repr

/-- State of a register entry (05 R119). -/
inductive EntSt where
  | present
  | pending
  | released
  deriving DecidableEq, Repr

/-- Trap causes (14 R347). -/
inductive Cause where
  | illegal
  | priv
  | regRange
  | regReleased
  | tileName
  | tileFormat
  | tileAlias
  | tileIndex
  | tileShape
  | segForm
  | segLimit
  | segRights
  | misaligned
  | overlay
  | addrDenied
  | poison
  | eccUncorr
  | qtimeout
  | rtimeout
  | lockTimeout
  | nondet
  | pxFormat
  | postedRefused
  | invOverflow
  | counterFreed
  | brk
  | watch
  | soft
  deriving DecidableEq, Repr

/-- What a marked value traps with: an error or refusal that travels with it (06 R164, 08 R490). -/
structure Mark where
  cause : Cause
  tval : BitVec 64
  tinfo : BitVec 64
  deriving DecidableEq, Repr

/-- A register entry: value, state, consumer count, attached mark, the request it waits for, and an uncorrectable
error in its storage (05 R119, 06 R164, 18 R446). -/
structure RegEnt where
  val : BitVec 64 := 0
  st : EntSt := .present
  cnt : BitVec 4 := 0
  mark : Option Mark := none
  req : Nat := 0
  ecc : Bool := false
  deriving DecidableEq, Repr

/-- Who executes: a thread slot of a core, or a hardware thread of a die's Sextant (05 R107, 19 R458). -/
inductive Agent where
  | thread (slot : Nat)
  | sextant (die t : Nat)
  deriving DecidableEq, Repr

/-- Why a thread is parked (05 R113 and the rules that park). -/
inductive Park where
  /-- A named entry is PENDING (05 R120). -/
  | reg (k : Nat)
  /-- Counters above a waitc's values (07 R191). -/
  | counters (l s c t : Nat)
  /-- A counter at 63: 0 L, 1 S, 2 C, 3 T (06 R145, 07 R192). -/
  | counterFull (which : Nat)
  /-- No free journal entry (08 R198). -/
  | journal
  /-- A pending translation of an owner's page on a die (09 R225). -/
  | page (die entry : Nat)
  /-- Dropped by a full pending table, until a REPLAY_ALL after the given count (09 R227). -/
  | dropped (die replays : Nat)
  /-- A full wait list, until the cycle (06 R152). -/
  | feRetry (cycle : Nat)
  /-- An answer to a request of the thread (06 R151, 07 R194, 15 R394, 16 R413). -/
  | answer (id : Nat)
  /-- A table entry on its way to every die (16 R413). -/
  | table
  /-- A port without n words, or without the room for a push (11 R293). -/
  | port (n : Nat) (push : Bool)
  /-- Fence probes and loads not yet back (07 R189). -/
  | fence
  /-- A barrier generation (07 R195): block address and generation. -/
  | barrier (addr gen : Nat)
  /-- A full tile queue (10 R254). -/
  | tileQueue
  /-- A full matrix queue (12 R310). -/
  | matQueue
  /-- All four copy queues full (11 R279). -/
  | copyQueue
  /-- An earlier stream still pushing (11 R295). -/
  | stream
  /-- A bank locked by a sibling (14 R356, R357). -/
  | bank (b : Nat)
  /-- The sequencer still has reissues (12 R321, R322). -/
  | sequencer
  /-- Held operations not yet reissued (10 R249). -/
  | held
  /-- msend with a full store or the same key (15 R384): the operand. -/
  | msend (xs : BitVec 64)
  /-- mrecv without its message (15 R396): the operand. -/
  | mrecv (xs : BitVec 64)
  /-- phase leads (15 R397): the operand. -/
  | phase (xs : BitVec 64)
  /-- qwait (15 R398): the register and the cycle of its limit. -/
  | qwait (xp limit : Nat)
  /-- rwait (15 R399): the place of the block, the cycle of its last read and that of its limit. -/
  | rwait (place last limit : Nat)
  /-- wfi until an asynchronous trap is pending (14 R351). -/
  | wfi
  /-- quit until the counters are 0 and its journal entries free (05 R135), fence.i until S is 0 (14 R352). -/
  | drain (quit : Bool)
  /-- A reseed sweep in progress (17 R429). -/
  | sweep
  /-- A unit owned by an engine (08 R207). -/
  | recall (unit : Nat)
  /-- A saved context whose counters are not 0 (14 R367). -/
  | frame (f : Nat)
  /-- wpk until its flag of a SRC (19 R468). -/
  | flag (src : Nat)
  deriving DecidableEq, Repr

/-- Progress of a parked instruction that its reissue finds (06 R151, 07 R189, 15 R398). -/
inductive Prog where
  | none
  /-- A release or acquire of the accesses numbered below last, at a scope, since a cycle: mask bits still to echo. -/
  | probes (scope last since : Nat) (bits : List Nat)
  /-- A request has been made. -/
  | asked (id : Nat)
  /-- The request's answer. -/
  | served (v : BitVec 64) (mark : Option Mark)
  /-- The request was refused with a trap of its own. -/
  | refused (m : Mark)
  /-- Refusals by a full wait list so far (06 R152). -/
  | retried (k : Nat)
  /-- First issue of a bounded wait, and the last ring words read (15 R398, R399). -/
  | since (cycle : Nat) (head tail : BitVec 32)
  /-- A bounded wait whose condition has held at or before its limit (15 R398). -/
  | met
  /-- A bounded wait past its limit, with the ring words it read last (15 R398, R399). -/
  | expired (head tail : BitVec 32)
  /-- Words of an image already read through a FABRIC segment, by place, each with its error, and the one asked for
  (06 R143, 15 R373). -/
  | words (l : Tbl (BitVec 64 × Option Cause)) (out : Option Nat)
  /-- An arrival whose release part is done (07 R195), a phase whose report is sent (15 R397). -/
  | released
  /-- A wfi whose trap is pending: it retires before the trap is taken (14 R351). -/
  | roused
  /-- A denied page found by a replay (09 R233): the reason and the page. -/
  | denied (reason vpn : Nat)
  deriving DecidableEq, Repr

/-- A pending asynchronous trap (14 R345): its order key, whether it is LOCK_TIMEOUT, whether it is the refusal of a
posted operation (08 R200), and the journal entry that holds it. -/
structure AsyncTrap where
  mark : Mark
  seq : Nat
  isLock : Bool
  journal : Option Nat
  refusal : Bool := false
  deriving DecidableEq, Repr

/-- A generator register captured at issue with its effective seed (13 R328, R334). -/
structure GenCap where
  img : BitVec 256
  seff : BitVec 64
  deriving DecidableEq, Repr

/-- An issued strip-running or block-running operation with everything it captured (10 R243, 12 R318, 13 R334). -/
structure TileOp where
  id : Nat
  slot : Nat
  tag : Nat
  ins : Instr
  word : BitVec 32
  pc : BitVec 16
  descs : List (BitVec 128)
  codes : List (BitVec 4)
  xs : BitVec 64
  gA : Option GenCap
  gB : Option GenCap
  next : Nat
  q : Nat
  zonce : Bool
  moff : Nat
  deriving DecidableEq, Repr


/-- The numbers of a thread (15 R370, 16 R410). -/
structure Numbering where
  lindex : BitVec 64 := 0
  lcount : BitVec 64 := 0
  grank : BitVec 64 := 0
  gsize : BitVec 64 := 1
  stage : BitVec 64 := 0
  rtoken : BitVec 64 := 0
  deriving DecidableEq, Repr

/-- A word captured by rpt with its scalar operands (12 R320, R321), and the generator registers and the numbers of its
thread at its issue (13 R334). -/
structure SeqWord where
  ins : Instr
  pc : BitVec 16
  xa : BitVec 64
  xb : BitVec 64
  gens : Tbl (BitVec 256) := []
  num : Numbering := {}
  deriving DecidableEq, Repr

/-- The sequencer of a thread (12 R320-R322). -/
structure Sequencer where
  busy : Bool := false
  n : Nat := 0
  m : Nat := 0
  stagger : BitVec 64 := 0
  /-- Address of the `rpt`: its block is the next n words after it. -/
  pc : BitVec 64 := 0
  words : List SeqWord := []
  q : Nat := 0
  idx : Nat := 0
  extraT : Bool := false
  extraC : Bool := false
  deriving DecidableEq, Repr

/-- A watchpoint (14 R360). -/
structure Watch where
  ctl : BitVec 64 := 0
  ptr : BitVec 64 := 0
  deriving DecidableEq, Repr

/-- The trap CSRs (14 R341, R342; 10 R250). -/
structure TrapCsrs where
  tstatus : BitVec 64 := 2
  tvec : BitVec 64 := 0
  tepc : BitVec 64 := 0
  tcause : BitVec 64 := 0
  tval : BitVec 64 := 0
  tinfo : BitVec 64 := 0
  tprog : BitVec 16 := 0
  tscratch : BitVec 64 := 0
  deriving DecidableEq, Repr

/-- The outstanding counters (07 R192). -/
structure Counters where
  l : Nat := 0
  s : Nat := 0
  c : Nat := 0
  t : Nat := 0
  deriving DecidableEq, Repr

/-- How a thread was created (15 R369). -/
inductive Made where
  | launched
  | spawned
  | gspawned
  | invoked
  deriving DecidableEq, Repr

/-- The reservation of a thread: granule address and the cycle at which it is lost (06 R156). -/
structure Reservation where
  granule : Nat
  expires : Nat
  deriving DecidableEq, Repr

/-- The barrier wait record (07 R195). -/
structure BarRec where
  ptr : BitVec 64
  gen : BitVec 32
  scope : Nat
  deriving DecidableEq, Repr

/-- A thread in a slot (05, 06, 07, 10-16). -/
structure Thread where
  pc : BitVec 64
  mode : Mode := .u
  regs : Tbl RegEnt := []
  /-- The instruction issued last, which led to the fetch (14 R347, OVERLAY). -/
  prevPc : Option (BitVec 16) := none
  /-- Number of the thread's last fence.i (03 R55). -/
  fenceI : Nat := 0
  /-- PrefixCount of an open ccnt pair (05 R130). -/
  pre : Option (BitVec 4) := none
  /-- Window size, first descriptor, tile-name limit (05 R115-R117). -/
  win : Nat := 32
  tb : Nat := 0
  tlim : Nat := 8
  sgs : Tbl (BitVec 128) := [(0, 0x00000000000100000030000000000000)]
  gens : Tbl (BitVec 256) := []
  descs : Tbl (BitVec 128) := []
  fstat : BitVec 64 := 0
  pmap : BitVec 64 := 0
  num : Numbering := {}
  cnt : Counters := {}
  touched : BitVec 128 := 0
  clamped : BitVec 32 := 0
  bar : Option BarRec := none
  resv : Option Reservation := none
  /-- An LR on its way, whose reservation begins when it is performed (06 R156). -/
  lrPend : Option Nat := none
  csr : TrapCsrs := {}
  monsel : BitVec 64 := 0
  mon : Tbl (BitVec 64) := []
  instret : BitVec 64 := 0
  watches : Tbl Watch := []
  /-- The next instruction is not matched by watchpoints (14 R350). -/
  skip : Bool := false
  xseq : BitVec 16 := 0
  ring : Tbl (BitVec 64) := []
  held : List TileOp := []
  seqr : Sequencer := {}
  /-- Last phase reported plus 1, and by link N E S W (15 R386): 0 is none. -/
  mine : Nat := 0
  reported : Tbl Nat := []
  launch : Nat := 0
  group : Nat := 0
  made : Made := .launched
  tag : Nat := 0
  park : Option Park := none
  prog : Prog := .none
  wakePos : Nat := 0
  hold : Bool := false
  elastic : Bool := false
  stopped : Bool := false
  traps : List AsyncTrap := []
  /-- Stores of other agents that the thread has read before they are performed everywhere, each with the load that
  read it (07 R171, R182). -/
  readFrom : List (Nat × Nat) := []
  /-- Progress of an instruction that an asynchronous trap interrupted, by its pc (06 R153). -/
  late : Option (BitVec 64 × Prog) := none
  /-- Uncorrectable marks of CSRs, descriptors, generators and segments, by the TVAL of 18 R446. -/
  ecc : List Nat := []
  deriving DecidableEq, Repr

/-- A word in a port queue: value and mark (11 R293). -/
structure PortWord where
  val : BitVec 64
  mark : Option Mark
  /-- Thread that pushed it and the accesses a matching pop counts as reading (11 R294). -/
  slot : Nat
  deriving DecidableEq, Repr

/-- A receive queue of a core (11 R292, 15 R387): words, head and tail modulo 16, words on their way in issue
order (none while the value is late), and pops the sender has not yet seen (11 R293). -/
structure PortQ where
  words : List PortWord := []
  head : Nat := 0
  tail : Nat := 0
  coming : List (Nat × Option PortWord) := []
  unseen : Nat := 0
  deriving DecidableEq, Repr

/-- Destination of an answer: thread, context tag, register, consumer count, out-port push. -/
structure RegDst where
  agent : Agent
  tag : Nat
  reg : Nat
  cnt : BitVec 4 := 0
  /-- Place reserved in the neighbour's queue: core, queue, entry (11 R293). -/
  push : Option (Nat × Nat × Nat) := none
  deriving DecidableEq, Repr

/-- A journal entry (08 R199) with the context tag (08 R202) and what it waits for. -/
structure JEnt where
  pointer : BitVec 64
  owner : Nat
  slot : Nat
  typ : Nat
  size : Nat
  reason : Nat
  seq : BitVec 32
  tag : Nat
  /-- Request it stands for: an access, a counter request or an invocation. -/
  id : Nat
  /-- For an invocation: destination, whether a reply is wanted, whether it has been accepted (16 R401). -/
  dst : Option RegDst := none
  reply : Bool := false
  accepted : Bool := false
  deriving DecidableEq, Repr

/-- A bank lock (14 R356): holder, cycle of the grant, waiters first in first out with the numbers of their requests,
and the number below which the holder's accesses precede its release (14 R358). -/
structure Lock where
  holder : Option Nat := none
  since : Nat := 0
  waiters : List (Nat × Nat) := []
  releasing : Option Nat := none
  deriving DecidableEq, Repr

/-- A core (05 R107-R116). -/
structure Core where
  owner : Nat := 0
  exb : Nat := 0
  bfmt : BitVec 64 := 0x1111111111111111
  locklim : BitVec 32 := 4096
  /-- The trap vector of the image (02 R48).  The spec gives tvec no value before an image is loaded: 0, no handler, is a
  DESIGN CHOICE (log 94). -/
  trapVec : BitVec 64 := 0
  /-- Rotation entries that differ from V = 1, SLOT = p, and the shadow's (05 R107, 14 R368). -/
  rot : Tbl (BitVec 8) := []
  shadow : Tbl (BitVec 8) := []
  commit : Option (Tbl (BitVec 8)) := none
  /-- HOLD and ELASTIC of empty slots (05 R107). -/
  attr : Tbl (BitVec 2) := []
  lastServed : Nat := 63
  /-- Position of each slot's last issue, whichever thread it held (05 R109). -/
  slotIssue : Tbl Nat := []
  /-- Cycle and order of the last creation served (05 R134). -/
  lastMake : Option (Nat × Nat) := none
  pos : Nat := 0
  nextAt : Nat := 0
  journal : Tbl JEnt := []
  jseq : BitVec 32 := 0
  tileQ : List TileOp := []
  matQ : List TileOp := []
  ports : Tbl PortQ := []
  locks : Tbl Lock := []
  /-- Lines of the core cache, by set, most recently used first (06 R147). -/
  cache : Tbl (List Nat) := []
  /-- Code words changed: offset, old word with its error, number of the change (03 R54, R55). -/
  codeLog : List (Nat × (BitVec 32 × Option Cause) × Nat) := []
  /-- B latch: operation, reissue and block column (12 R311). -/
  bLatch : Option (Nat × Nat) := none
  /-- Throttle step of the rotation in progress (20 R484). -/
  step : Nat := 0
  deriving DecidableEq, Repr

/-- An octet (12 R307, R308). -/
structure Octet where
  /-- Vernier entries that differ from V = 1, PLACE = e mod 8. -/
  vernier : Tbl (BitVec 8) := []
  pendingWrite : Option (Tbl (BitVec 8)) := none
  entry : Nat := 0
  /-- Entries already spent on the block in progress of each core place. -/
  partialWork : Tbl Nat := []
  deriving DecidableEq, Repr

/-- A translation held by a TLB (09 R223). -/
structure TlbEnt where
  owner : Nat
  big : Bool
  vpn : Nat
  leaf : BitVec 64
  deriving DecidableEq, Repr

/-- A copy-class transfer (11 R277, R278) with all it captured at issue. -/
structure Transfer where
  slot : Nat
  tag : Nat
  core : Nat
  engine : Nat := 0
  ins : Instr
  seq : BitVec 16 := 0
  owner : Nat
  /-- Tile operands: descriptors and bank codes; core of a destination tile (11 R287). -/
  desc : BitVec 128 := 0
  code : BitVec 4 := 0
  desc2 : BitVec 128 := 0
  code2 : BitVec 4 := 0
  core2 : Nat := 0
  /-- First pointer with its kind and target address, the bytes it may read from there, and the second pointer's. -/
  ea : BitVec 64 := 0
  kind : Nat := 0
  at_ : Nat := 0
  len : Nat := 0
  ea2 : BitVec 64 := 0
  kind2 : Nat := 0
  at2 : Nat := 0
  /-- Second operand, and the dwords of a codec's parameter block (11 R296). -/
  xs : BitVec 64 := 0
  args : List (BitVec 64) := []
  /-- Segment registers as they stood at issue (11 R296, R299). -/
  segs : Tbl (BitVec 128) := []
  /-- Source words already read, by target address, with their marks (08 R208, 11 R288). -/
  seen : Tbl (BitVec 64 × Bool) := []
  /-- Cells of the destination already written, in order (08 R206); words pushed by a stream. -/
  unit : Nat := 0
  bytes : Nat := 0
  /-- First poisoned element (11 R288). -/
  first : Option (Nat × Nat) := none
  flags : BitVec 5 := 0
  /-- Its end, once decided: CODE, SUB, ROW and COL (11 R278). -/
  ended : Option (Nat × Nat × Nat × Nat) := none
  /-- Pending entry that the transfer waits for after a fault, and the reason of a denial it found (09 R237). -/
  fault : Option (Nat × Nat) := none
  deny : Nat := 0
  /-- FABRIC request that has not been answered, and the error of the word that the last one read (08 R490, 11 R293). -/
  wait : Option Nat := none
  err : Option Cause := none
  /-- The number of the partition that it carries, where a hardware fault has changed it (18 R441). -/
  part : Option Nat := none
  deriving DecidableEq, Repr

/-- A cluster (01 R14). -/
structure Cluster where
  /-- Transfers of the four engines, in queue order (11 R279). -/
  engines : Tbl (List Nat) := []
  /-- First-level TLB, most recently used first (09 R223). -/
  tlb1 : List TlbEnt := []
  /-- Merge buffer: line and the cycle at which it is dropped (06 R149). -/
  merge : List (Nat × Nat) := []
  /-- Frames held by the thread-context cache, most recently used first (14 R365). -/
  ctxCache : List Nat := []
  deriving DecidableEq, Repr

/-- State of a pending entry (09 R225, R232). -/
inductive PendSt where
  | walking
  | faulted
  | resolved
  | denied (reason : Nat)
  deriving DecidableEq, Repr

/-- A pending translation (09 R225). -/
structure PendEnt where
  owner : Nat
  vpn : Nat
  st : PendSt
  level : Nat
  acc : Nat
  cls : Nat
  first : Nat
  /-- Requesters parked on it, with the cluster port of each. -/
  waiters : List (Nat × Nat)
  granted : Bool := false
  lost : Nat := 0
  /-- The level and table that its walk stands at, once its walker makes it. -/
  at_ : Option (Nat × Nat) := none
  deriving DecidableEq, Repr

/-- A table pointer held by a page-walk cache: owner, level, the index bits of VA above the level, PA of the entry and
the entry (09 R223). -/
structure WalkEnt where
  owner : Nat
  level : Nat
  above : Nat
  pa : Nat
  ent : BitVec 64
  deriving DecidableEq, Repr

/-- A migration in progress (09 R238, 08 R213): owner and page, the frames it takes, and the copy engine that serves it by
cluster, queue and number, none while every queue is full. -/
structure Migration where
  owner : Nat
  vpn : Nat
  old : Nat
  new : Nat
  engine : Option (Nat × Nat × Nat) := none
  deriving DecidableEq, Repr

/-- Translation state of a die (09 R223-R238). -/
structure Xlat where
  /-- Second-level TLB sets and walk-cache sets, most recently used first. -/
  tlb2 : Tbl (List TlbEnt) := []
  walkCache : Tbl (List WalkEnt) := []
  pend : Tbl PendEnt := []
  /-- Requesters parked by Drop (09 R227). -/
  dropped : List Nat := []
  /-- Buffer entries: the pending entry each names (09 R228). -/
  fbent : Tbl Nat := []
  replays : Nat := 0
  drops : Nat := 0
  cmderr : Bool := false
  /-- Commands written and not yet performed, in order (09 R232). -/
  cmdQ : List Event := []
  busy : Bool := false
  droppedBit : Bool := false
  noticePending : Bool := false
  invva : BitVec 64 := 0
  migva : BitVec 64 := 0
  migpa : BitVec 64 := 0
  migstat : BitVec 64 := 0
  pgcfg : BitVec 64 := 0
  /-- Accesses that the INVAL in progress waits for (09 R235). -/
  invWaits : List Nat := []
  /-- Fabric packets that a REPLAY_ALL has found denied (09 R233). -/
  packDenied : List Nat := []
  /-- The migration in progress (09 R238). -/
  mig : Option Migration := none
  deriving DecidableEq, Repr

/-- A line of the die cache (06 R148, 17 R421, R429). -/
structure Line where
  slice : Nat
  set : Nat
  way : Nat
  line : Nat
  /-- True for a host line (17 R421). -/
  host : Bool
  owner : Nat
  /-- Key it was placed under: an owner's number, or 4,096 + a partition's. -/
  key : Nat
  epoch : Bool
  /-- Its 32-byte sectors that are filled, and those to be written back (06 R148). -/
  valid : BitVec 8
  dirty : BitVec 8
  deriving DecidableEq, Repr

/-- Owner-table entry and what goes with it (17 R416, R419, R428, R429). -/
structure OwnerEnt where
  seed : BitVec 64
  gen : BitVec 16 := 0
  sweep : Bool := false
  floor : Nat := 0
  shares : Tbl Nat := []
  xclass : Nat := 8
  part : Nat := 0
  troot : Nat := 0
  v : Bool := false
  retiring : BitVec 64 := 0
  epoch : Bool := false
  /-- Draw counters by point class × 65,536 + instance (17 R419). -/
  draws : Tbl Nat := []
  exN : Nat := 0
  exE : Tbl Nat := []
  /-- Elastic draw counter n_o (15 R376). -/
  elasticN : Nat := 0
  /-- Slices whose sweep of this reseed has ended, and the next set of the others (17 R430). -/
  sweepAt : Tbl Nat := []
  deriving DecidableEq, Repr

/-- A launch record with the segment images read with it (15 R372, R373). -/
structure LRec where
  dw : List (BitVec 64)
  segs : List (BitVec 128)
  owner : Nat
  deriving DecidableEq, Repr

/-- An invocation record: the packet's header, beat 1 and arguments (16 R402, R406). -/
structure InvRec where
  hdr : BitVec 128
  beats : List (BitVec 128)
  /-- Handler part and token for replies. -/
  token : BitVec 64
  /-- Cycle at which it entered its queue (16 R409). -/
  since : Nat := 0
  /-- Where its record stands in the spill ring (16 R406). -/
  ring : Nat := 0
  deriving DecidableEq, Repr

/-- A launch (15 R369-R378). -/
structure Launch where
  record : LRec
  home : Nat
  /-- 0 deterministic, 1 elastic, 2 invoked. -/
  kind : Nat
  /-- Cores placed so far (core index for a deterministic launch, core for an elastic one). -/
  placed : List Nat := []
  claim : Nat := 0
  waiting : Bool := true
  entered : Nat := 0
  level : Nat := 0
  live : Nat := 0
  /-- Queue packet that completes with it: partition, queue, packet (19 R462). -/
  packet : Option (Nat × Nat × Nat) := none
  /-- The record of an invoked group; its token is 0 once a reply has been sent (16 R410, R411). -/
  inv : Option InvRec := none
  deriving DecidableEq, Repr

/-- A gspawn group: live members and its DONE handle (15 R371). -/
structure Group where
  live : Nat
  done : BitVec 64
  owner : Nat
  die : Nat
  deriving DecidableEq, Repr

/-- State of a dependency counter (15 R381). -/
inductive CntSt where
  | free
  | armed
  | bound
  | ready
  deriving DecidableEq, Repr

/-- A dependency counter (15 R381). -/
structure CntEnt where
  st : CntSt := .free
  val : BitVec 32 := 0
  owner : Nat := 0
  gen : BitVec 16 := 0
  record : Option LRec := none
  /-- The cycle of the last operation and its requester (15 R381). -/
  last : Option (Nat × Nat) := none
  deriving DecidableEq, Repr

/-- A message (15 R383). -/
structure Msg where
  launch : Nat
  receiver : Nat
  sender : Nat
  seq : Nat
  payload : BitVec 64
  deriving DecidableEq, Repr

/-- The invocation unit of a die (16 R407, R414). -/
structure InvUnit where
  queues : Tbl (List InvRec) := []
  depth : Tbl Nat := []
  spill : Tbl (List InvRec) := []
  /-- Records that each handler's ring has taken (16 R406). -/
  spillNext : Tbl Nat := []
  /-- The cycle and the order key of the last admission (16 R407). -/
  lastAdm : Option (Nat × Nat) := none
  filter : List (Nat × Nat) := []
  denies : Nat := 0
  invalids : Nat := 0
  naks : Nat := 0
  spills : Nat := 0
  replyDrops : Nat := 0
  overflows : Nat := 0
  accepts : Nat := 0
  deriving DecidableEq, Repr

/-- A context frame (14 R365, R366): generation, owner, the saved thread, and its slot. -/
structure Frame where
  gen : BitVec 16 := 0
  owner : Nat := 0
  saved : Option Thread := none
  slot : Nat := 0
  deriving DecidableEq, Repr

/-- A round of the ordered reduction engine (11 R299): the targets that its first contribution fixed (kind and address),
that contribution's owner, and the completing contribution once all are present. -/
structure RedRound where
  dst : Nat × Nat
  buf : Nat
  owner : Nat
  last : Option Nat := none
  deriving DecidableEq, Repr

/-- Platform registers of a die (18 R447; 20 R483, R484, R488; 19 R471-R473). -/
structure Plat where
  modnum : BitVec 16 := 0
  ctxbase : BitVec 64 := 0
  qslots : Nat := 32
  regerr : BitVec 64 := 0
  evR : BitVec 8 := 0
  evW : BitVec 8 := 0
  evOvf : Bool := false
  uea : Nat := 0
  ued : Nat := 0
  ce : Nat := 0
  derraddr : BitVec 64 := 0
  devh : Nat := 24
  chipm : Nat := 60
  /-- Sectors corrected in the current period, with their counts (18 R447). -/
  corrected : Tbl Nat := []
  sensors : BitVec 64 := 0
  thrcfg : BitVec 64 := 0x000000646E04025F
  thH : Nat := 0
  thK : Nat := 0
  thCount : Nat := 0
  /-- Cycle since which Tmax has been at or below the release bound (20 R484). -/
  thBelow : Option Nat := none
  /-- A changed step that is not yet in effect. -/
  thNext : Option Nat := none
  dmon : Tbl (BitVec 64) := []
  dmonsel : Tbl (BitVec 64) := []
  /-- locklim of the Sextant's threads (14 R342, 19 R459). -/
  sxLocklim : BitVec 32 := 4096
  dbgTgt : BitVec 64 := 0
  dbgSel : BitVec 64 := 0
  dbgData : BitVec 64 := 0
  dbgStat : BitVec 64 := 0
  deriving DecidableEq, Repr

/-- A Sextant hardware thread (19 R458, R459): the registers, pc and trap CSRs of its Thread record, its wpk flags for
SRC 0 to 2 (19 R468), and the cycle of its last issue. -/
structure SxThread where
  running : Bool := false
  th : Thread := { pc := 0, mode := .k }
  flags : Tbl Bool := []
  lastCycle : Option Nat := none
  deriving DecidableEq, Repr

/-- Queue mapping of a front-end die (19 R465, R467). -/
structure QMap where
  /-- Slot number die × 32 + thread to queue, with the cycle since which it holds the slot. -/
  slots : Tbl (Nat × Nat) := []
  /-- Mapped queues, each to the place of its QCB as the table gave it when it was mapped (19 R461). -/
  qcbs : Tbl Nat := []
  pending : List Nat := []
  /-- Deferred kicks: queue and deadline cycle. -/
  deferred : List (Nat × Nat) := []
  /-- Slots whose queue gives way to a pending one once its packets have completed (19 R466, rule 3). -/
  leaving : Tbl Nat := []
  deriving DecidableEq, Repr

/-- A die (01 R22). -/
structure Die where
  xlat : Xlat := {}
  lines : List Line := []
  /-- Lines homed here of which the host holds a copy (07 R186). -/
  hostCopies : List Nat := []
  /-- The row that each memory package has open (17 R425). -/
  openRow : Tbl Nat := []
  /-- Replay filters: slice to identifiers and results (08 R214). -/
  filters : Tbl (List (Nat × BitVec 64)) := []
  /-- Bank watch units, slice × 4 + unit (08 R215). -/
  watchUnits : Tbl (BitVec 64) := []
  /-- Full/empty wait lists, by bank or slice, earliest first (06 R151). -/
  waitLists : Tbl (List Nat) := []
  counters : Tbl CntEnt := []
  msgs : List Msg := []
  inv : InvUnit := {}
  owners : Tbl OwnerEnt := []
  /-- Class-7 draw counters of partition keys: partition × 64 + slice (17 R423). -/
  partDraws : Tbl Nat := []
  frames : Tbl Frame := []
  red : Tbl RedRound := []
  plat : Plat := {}
  sx : Tbl SxThread := []
  lastSx : Nat := 47
  /-- Cycle of the Sextant's next issue (19 R458). -/
  sxAt : Nat := 0
  booted : Bool := false
  /-- The firmware that the die runs: security version and image (20 R481, R482). -/
  firmware : Nat × Nat := (0, 0)
  qmap : QMap := {}
  deriving DecidableEq, Repr

/-- A Mynis port (16 R415, 20 R478). -/
structure Mynis where
  up : Bool := false
  txSeq : BitVec 16 := 0
  rxSeq : BitVec 16 := 0
  /-- Packets in the receive buffers, by class, and whether a PAUSE stands, ours or the peer's (16 R415). -/
  inbuf : List (Nat × BitVec 128 × List (BitVec 128)) := []
  pausedUs : Tbl Bool := []
  pausedPeer : Tbl Bool := []
  /-- Beats of a packet that continues in the next flit. -/
  rest : List (BitVec 128) := []
  /-- Flits sent and not yet acknowledged, by sequence (20 R478). -/
  unacked : List (Nat × List (BitVec 128)) := []
  /-- Packets kept while their class is paused, by class (16 R415). -/
  waiting : List (Nat × BitVec 128 × List (BitVec 128)) := []
  deriving DecidableEq, Repr

/-- A queue packet in flight (19 R462, R463): its queue and that queue's owner, its bytes, the ring offset of its first
byte, the module time of its start; for a COPY the bytes already written, whether one was poisoned, and the translation
that it waits for with the reason of a denial (09 R233); for a WAIT whether a re-read has met its condition. -/
structure Packet where
  queue : Nat
  owner : Nat
  typ : Nat
  bytes : List (BitVec 8)
  start : Nat
  time : Nat
  pos : Nat := 0
  poisoned : Bool := false
  fault : Option (Nat × Nat) := none
  deny : Nat := 0
  met : Bool := false
  /-- The place of the QCB from which the packet was started (19 R461). -/
  qcb : Nat := 0
  /-- Source words that a COPY has read, each once (08 R208). -/
  seen : Tbl (BitVec 64 × Bool) := []
  /-- The status that has answered an INVOKE. -/
  answer : Option Int := none
  deriving DecidableEq, Repr

/-- A partition (18 R439-R450; 16 R403-R406). -/
structure Part where
  st : Nat := 1
  resets : Nat := 0
  failDie : Nat := 0
  cause : Nat := 0
  ufaults : Nat := 0
  merged : Nat := 0
  /-- None: dies {p} of the module reset (18 R444). -/
  dies : Option (BitVec 32) := none
  clampCount : Nat := 0
  qtable : BitVec 64 := 0
  zero : Bool := false
  rel : Bool := false
  resetStep : Nat := 0
  /-- Dies that failed the array check (18 R454, R455). -/
  failed : List Nat := []
  imports : Tbl (BitVec 128) := []
  exports : Tbl (BitVec 256) := []
  handlers : Tbl (BitVec 128) := []
  packets : Tbl Packet := []
  clampDies : BitVec 32 := 0
  resetAt : Nat := 0
  thermalHold : Bool := false
  /-- A thermal trip has made the reset in progress run at step 7 (20 R485). -/
  hotReset : Bool := false
  /-- Dies that have tripped and have not been below T0 since (20 R485). -/
  tripped : List Nat := []
  /-- CAUSE of the reset in progress (18 R444). -/
  resetCause : Nat := 0
  /-- Names the draw of its seeds by the entropy source (17 R417; log 2). -/
  seedNo : Nat := 0
  deriving DecidableEq, Repr

/-- Kinds of memory access in flight (06 R140-R162). -/
inductive AKind where
  | load (signed : Bool)
  | store
  | lr
  | sc
  | amo (op : Nat)
  | fadd
  | ldfe
  | ldff
  | stfe
  | stff
  | feset (full : Bool)
  | cflush
  | lineQuery
  /-- A word of an image read through a FABRIC segment (15 R373). -/
  | image
  deriving DecidableEq, Repr

/-- A memory access on its way (06 R145, 07 R167). -/
structure Access where
  agent : Agent
  tag : Nat
  core : Nat
  owner : Nat
  kind : AKind
  ea : BitVec 64
  /-- Segment kind 0 to 5; 6 for a Sextant's access. -/
  seg : Nat
  /-- Its place in the memories (Machine/Ops.lean). -/
  addr : Nat
  size : Nat
  data : Nat := 0
  dst : Option RegDst := none
  /-- Acquire, and release at a scope. -/
  acq : Bool := false
  rel : Option Nat := none
  /-- Scope at which a store is performed: 0 its own thread, then 1 core to 5 system (07 R169), and when it was so. -/
  lvl : Nat := 0
  stamp : Nat := 0
  /-- Performed, refused, or with its value fixed; the answer is on its way. -/
  done : Bool := false
  /-- Entry of the core's journal for a posted store (08 R198). -/
  journal : Option Nat := none
  /-- Fabric request sent to the peer and not yet answered. -/
  sent : Bool := false
  /-- Refused: the refusal is on its way to the journal (08 R198). -/
  refused : Bool := false
  /-- On the wait list of its word (06 R151). -/
  listed : Bool := false
  /-- Rounds of the point (17 R424): served, and lost while head. -/
  granted : Bool := false
  lost : Nat := 0
  /-- Die-cache fill: 0 not asked, 1 asked, 2 done (17 R423). -/
  fill : Nat := 0
  /-- Contended points of its way that it has passed (17 R422), and whether it waits for the replay filter of its slice. -/
  point : Nat := 0
  atFilter : Bool := false
  /-- The cycle in which it came to the point where it waits (17 R425); none on the way there. -/
  came : Option Nat := none
  /-- Cycle at which a load miss passed its cluster's port, and the miss of another core whose burst serves it (06 R149). -/
  portAt : Nat := 0
  lead : Option Nat := none
  replays : Nat := 0
  /-- When the request was sent last (08 R214). -/
  sentAt : Nat := 0
  /-- Placed under the partition's key: a SHARED page (09 R220). -/
  shared : Bool := false
  /-- Page it was translated through (09 R235). -/
  vpn : Option Nat := none
  /-- The number of the partition that it carries, where a hardware fault has changed it (18 R441). -/
  part : Option Nat := none
  deriving DecidableEq, Repr

/-- A request of an engine, a unit or a packet at the contended points of its way: the owner for whom it is made, the points
still ahead (class, die, instance), and its rounds at the first one (17 R422, R424). -/
structure Claim where
  owner : Nat
  path : List ((Nat × Nat × Nat) × Nat)
  /-- The cycle in which it came to the first of them (17 R425). -/
  came : Nat := 0
  granted : Bool := false
  lost : Nat := 0
  deriving DecidableEq, Repr

/-- A back-invalidation of a copy of the host that a write of a thread waits for before it is performed at .sys: the thread,
the number of its access, the bytes written, and the cycle by which the host has answered (07 R186). -/
structure Inval where
  agent : Agent
  tag : Nat
  id : Nat
  addr : Nat
  size : Nat
  until_ : Nat
  deriving DecidableEq, Repr

/-- A request on its way to another unit. -/
inductive Req where
  /-- spawn (05 R133): target core, entry word, copied x10-x13, segments, numbers, launch. -/
  | spawn (dst : RegDst) (from_ target : Nat) (entry : BitVec 64) (args : List (BitVec 64)) (segs : Tbl (BitVec 128)) (num : Numbering) (launch : Nat)
  /-- gspawn (15 R390): record dwords. -/
  | gspawn (dst : RegDst) (from_ : Nat) (dw : List (BitVec 64)) (segs : Tbl (BitVec 128)) (lcount : BitVec 64) (launch : Nat)
  /-- Answer of a die unit: value for a register. -/
  | value (dst : RegDst) (v : BitVec 64) (mark : Option Mark) (countsL : Bool) (acq : Option Nat) (flags : BitVec 5)
  /-- Counter operations (15 R381): thread (none for a launch's or group's end), handle, journal entry, the die that
  asks and its owner. -/
  | cntDec (who : Option (Nat × Nat)) (handle : BitVec 64) (journal : Option Nat) (die owner : Nat)
  | cntFree (slot tag : Nat) (handle : BitVec 64) (journal : Option Nat)
  | cntBind (slot tag : Nat) (handle : BitVec 64) (record : LRec)
  /-- msend (15 R396): sender's slot, home die. -/
  | msg (slot home : Nat) (m : Msg)
  /-- ctxout (14 R366): target slot, issuer's owner. -/
  | ctxout (dst : RegDst) (from_ target owner : Nat)
  /-- ctxin (14 R367): operand, issuer's owner. -/
  | ctxin (dst : RegDst) (from_ : Nat) (xs : BitVec 64) (owner : Nat)
  /-- barinit (07 R194): block address, members, scope. -/
  | barinit (slot tag : Nat) (ea : BitVec 64) (addr n scope : Nat)
  /-- Barrier arrival (07 R195): pointer, block address, acquire scope. -/
  | bar (slot tag : Nat) (ea : BitVec 64) (addr scope : Nat)
  /-- A packet that awaits its answer, for replays: journal entry it stands for, replays made, when sent last (08 R214), and
  whether it has left its core. -/
  | sent (core journal die port : Nat) (hdr : BitVec 128) (beats : List (BitVec 128)) (replays at_ : Nat) (left : Bool)
  /-- A REPLY of a thread on its way, or within the module until its acceptance (16 R411). -/
  | reply (slot tag die port : Nat) (hdr : BitVec 128) (beats : List (BitVec 128)) (left : Bool)
  /-- A FABRIC request of a copy engine: transfer, key of the word it reads, pointer, bytes written, and the packet as
  above (11 R285). -/
  | engine (transfer key : Nat) (ea : BitVec 64) (cells bytes : Nat) (die port : Nat) (hdr : BitVec 128) (beats : List (BitVec 128)) (replays at_ : Nat)
  /-- The COUNTER packet of a DONE handle of another module that awaits its answer: die and owner, and the packet as above
  (15 R371, 08 R214). -/
  | done (die owner port : Nat) (hdr : BitVec 128) (beats : List (BitVec 128)) (replays at_ : Nat)
  /-- The INVOKE of a queue packet that awaits its answer (19 R462): partition and packet, and the packet as above. -/
  | queue (part packet die port : Nat) (hdr : BitVec 128) (beats : List (BitVec 128)) (replays at_ : Nat)
  deriving DecidableEq, Repr

/-- The load in progress (02 R49): the address of its request, the step that comes next, and within step 3 the segment
write in progress and the bytes of it already written. -/
structure Loader where
  addr : BitVec 64 := 0
  step : Nat := 0
  job : Nat := 0
  at_ : Nat := 0
  deriving DecidableEq, Repr

/-- What leaves the module, in order (09 R231, 16 R402, 19 R464, 20 R482). -/
inductive Out where
  | msix (function vector : Nat)
  | packet (port : Nat) (hdr : BitVec 128) (beats : List (BitVec 128))
  | flit (port : Nat) (beats : List (BitVec 128))
  | hostData (data : List (BitVec 8))
  /-- The answer to a host read of BAR0 (20 R476). -/
  | hostReg (fn off : Nat) (value : BitVec 64)
  /-- A back-invalidation of the host's copy of a line, by die and line number (07 R186). -/
  | backInval (die line : Nat)
  | spdm (message : Nat) (data : List (BitVec 8))
  deriving DecidableEq, Repr

/-- The module (01 R14). -/
structure State where
  threads : Tbl Thread
  cores : Tbl Core
  octets : Tbl Octet
  clusters : Tbl Cluster
  dies : Tbl Die
  parts : Tbl Part
  mynis : Tbl Mynis
  launches : Tbl Launch
  groups : Tbl Group
  transfers : Tbl Transfer
  net : Tbl Access
  reqs : Tbl Req
  /-- Requests of engines, units and packets at contended points, by their number. -/
  claims : Tbl Claim
  /-- Back-invalidations that the host has not answered (07 R186). -/
  invals : List Inval
  /-- Bytes of every memory, in canonical form (Machine/Ops.lean gives the addresses). -/
  mem : List Host.Cell
  /-- Full words, poisoned words and uncorrectable words, by word address, rising (06 R150, R163, R165). -/
  full : List Nat
  poison : List Nat
  eccBad : List Nat
  vfcfg : Tbl (BitVec 64)
  vfNext : Tbl (BitVec 64)
  loader : Loader
  ldstat : BitVec 64
  powerW : Nat
  minVersion : Nat
  cxl : Option (Nat × Nat)
  sessions : Nat
  outbox : List Out
  now : Nat
  /-- The model's own: free-value counter, steps due, selected and running agent, next number (log 1, 2). -/
  tick : Nat
  agenda : List Event
  /-- The event whose row is run (log 1). -/
  ev : Option Event
  selected : Option Agent
  cur : Option Agent
  nextId : Nat
  deriving DecidableEq, Repr

/-- Why the machine stops.  Neither stop is one of the spec: both answer a term that names nothing. -/
inductive Fault where
  /-- An event row is run without its event, or with one that names a unit the module does not have (01 R6, R14);
  raised by every event row.  Safe. -/
  | noSuchUnit
  /-- An encoded instruction is run with no agent selected or in an empty slot; raised by every encoded row.  Safe. -/
  | noAgent
  deriving DecidableEq, Repr

/-- Why the model has no meaning for an instruction. -/
inductive Refusal where
  /-- The instruction has no meaning yet; raised by its arm of exec alone.  Safe. -/
  | notModelled (mnemonic : String)
  deriving DecidableEq, Repr

/-- The module after module reset (18 R439, R450, R451): every slot empty, every register at its reset value,
memory with nothing listed. -/
def State.reset : State :=
  { threads := [], cores := [], octets := [], clusters := [], dies := [], parts := [], mynis := [], launches := [],
    groups := [], transfers := [], net := [], reqs := [], claims := [], invals := [], mem := [], full := [], poison := [], eccBad := [],
    vfcfg := [], vfNext := [], loader := {}, ldstat := 0, powerW := 0, minVersion := 0, cxl := none, sessions := 0,
    outbox := [], now := 0, tick := 0, agenda := [], ev := none, selected := none, cur := none, nextId := 1 }

end Sys2Proof.Machine
end

