-- ==== Sys2Proof/Machine/Ops.lean ====
section
/-!
DEFINITION. Ops: named operations over the tables, the units, the memories, the agents and their traps; taking a
trap (14 R343, R346), returning from one (14 R350), and raising an asynchronous one (14 R345).
-/
namespace Sys2Proof.Machine

/-- The outcome of an instruction or event. -/
abbrev Outc := Host.Outcome State Fault Refusal

/-! ### Tables -/

/-- What a table lists for n. -/
def tfind {α : Type} : Tbl α → Nat → Option α
  | [], _ => none
  | (k, v) :: r, n => if n = k then some v else if n < k then none else tfind r n

/-- What a table holds for n, d where it lists nothing. -/
def tget {α : Type} (t : Tbl α) (n : Nat) (d : α) : α := (tfind t n).getD d

/-- The table with n set to v. -/
def tset {α : Type} : Tbl α → Nat → α → Tbl α
  | [], n, v => [(n, v)]
  | (k, w) :: r, n, v => if n = k then (k, v) :: r else if n < k then (n, v) :: (k, w) :: r else (k, w) :: tset r n v

/-- The table without n. -/
def terase {α : Type} : Tbl α → Nat → Tbl α
  | [], _ => []
  | (k, w) :: r, n => if n = k then r else if n < k then (k, w) :: r else (k, w) :: terase r n

/-- The table with every listed value changed. -/
def tmap {α : Type} (t : Tbl α) (f : α → α) : Tbl α := t.map (fun p => (p.1, f p.2))

/-- The list with x before the first element that it may precede. -/
def insertBy {α : Type} (le : α → α → Bool) (x : α) : List α → List α
  | [] => [x]
  | y :: r => if le x y then x :: y :: r else y :: insertBy le x r

/-- The list in the order of le, equal elements as they stood. -/
def sortBy {α : Type} (le : α → α → Bool) (l : List α) : List α := l.foldr (insertBy le) []

/-! ### Units (01 R6, R14-R16) -/

/-- The core of a slot. -/
def coreOf (slot : Nat) : Nat := slot / 64
/-- The cluster of a core. -/
def clusterOf (core : Nat) : Nat := core / 64
/-- The die of a core. -/
def dieOf (core : Nat) : Nat := core / 12800
/-- The octet of a core (01 R15). -/
def octetOf (core : Nat) : Nat := core / 8
/-- The place of a core in its octet (01 R15). -/
def placeOf (core : Nat) : Nat := core % 8

/-- `coord` of a slot (05 R118). -/
def coordOf (slot : Nat) : Nat :=
  dieOf (coreOf slot) * 2 ^ 24 + clusterOf (coreOf slot) % 200 * 2 ^ 16 + coreOf slot % 64 * 2 ^ 8 + slot % 64

/-- The core that a word in the layout of `coord` names (05 R118), none when a reserved bit of [28:0] is set or the
cluster does not exist; the SLOT bits are ignored. -/
def coreOfCoord (w : Nat) : Option Nat :=
  if bits w 15 14 ≠ 0 ∨ bits w 7 6 ≠ 0 ∨ bits w 23 16 ≥ 200 then none
  else some ((bits w 28 24 * 200 + bits w 23 16) * 64 + bits w 13 8)

/-- The slot that a `coord` word names. -/
def slotOfCoord (w : Nat) : Option Nat := (coreOfCoord w).map (fun c => c * 64 + bits w 5 0)

/-- Mesh row of a core on its die (01 R16). -/
def meshRow (core : Nat) : Nat := 8 * (clusterOf core % 200 / 20) + core % 64 / 8
/-- Mesh column of a core on its die (01 R16). -/
def meshCol (core : Nat) : Nat := 8 * (clusterOf core % 200 % 20) + core % 64 % 8

/-- The core at a mesh row and column of a die (01 R16). -/
def coreAt (die row col : Nat) : Nat :=
  (die * 200 + row / 8 * 20 + col / 8) * 64 + row % 8 * 8 + col % 8

/-- The neighbour of a core: 0 north, 1 east, 2 south, 3 west (01 R16). -/
def neighbour (core dir : Nat) : Option Nat :=
  let r := meshRow core
  let c := meshCol core
  match dir with
  | 0 => if r = 0 then none else some (coreAt (dieOf core) (r - 1) c)
  | 1 => if c = 159 then none else some (coreAt (dieOf core) r (c + 1))
  | 2 => if r = 79 then none else some (coreAt (dieOf core) (r + 1) c)
  | 3 => if c = 0 then none else some (coreAt (dieOf core) r (c - 1))
  | _ => none

/-- The link of the neighbour that faces back: a push east enters the west queue (11 R293). -/
def facing (dir : Nat) : Nat := (dir + 2) % 4

/-- The die of a Mynis port (01 R24). -/
def portDie (p : Nat) : Nat := if p < 6 then p + 1 else p + 19

/-! ### Records of units -/

/-- A core's record. -/
def State.core (s : State) (c : Nat) : Core := tget s.cores c {}
/-- The state with a core's record replaced. -/
def State.setCore (s : State) (c : Nat) (r : Core) : State := { s with cores := tset s.cores c r }
/-- The state with a core's record changed. -/
def State.modCore (s : State) (c : Nat) (f : Core → Core) : State := s.setCore c (f (s.core c))
/-- An octet's record. -/
def State.octet (s : State) (q : Nat) : Octet := tget s.octets q {}
/-- The state with an octet's record changed. -/
def State.modOctet (s : State) (q : Nat) (f : Octet → Octet) : State :=
  { s with octets := tset s.octets q (f (s.octet q)) }
/-- A cluster's record. -/
def State.cluster (s : State) (c : Nat) : Cluster := tget s.clusters c {}
/-- The state with a cluster's record changed. -/
def State.modCluster (s : State) (c : Nat) (f : Cluster → Cluster) : State :=
  { s with clusters := tset s.clusters c (f (s.cluster c)) }
/-- A die's record. -/
def State.die (s : State) (d : Nat) : Die := tget s.dies d {}
/-- The state with a die's record changed. -/
def State.modDie (s : State) (d : Nat) (f : Die → Die) : State := { s with dies := tset s.dies d (f (s.die d)) }
/-- A partition's record. -/
def State.part (s : State) (p : Nat) : Part := tget s.parts p {}
/-- The state with a partition's record changed. -/
def State.modPart (s : State) (p : Nat) (f : Part → Part) : State := { s with parts := tset s.parts p (f (s.part p)) }
/-- A Mynis port's record. -/
def State.port (s : State) (p : Nat) : Mynis := tget s.mynis p {}
/-- The state with a Mynis port's record changed. -/
def State.modPort (s : State) (p : Nat) (f : Mynis → Mynis) : State := { s with mynis := tset s.mynis p (f (s.port p)) }

/-- The state with a die's translation state changed. -/
def State.modXlat (s : State) (d : Nat) (f : Xlat → Xlat) : State := s.modDie d (fun r => { r with xlat := f r.xlat })
/-- The state with a die's platform registers changed. -/
def State.modPlat (s : State) (d : Nat) (f : Plat → Plat) : State := s.modDie d (fun r => { r with plat := f r.plat })
/-- The state with a die's invocation unit changed. -/
def State.modInv (s : State) (d : Nat) (f : InvUnit → InvUnit) : State := s.modDie d (fun r => { r with inv := f r.inv })

/-- A step that becomes due (log 1). -/
def State.due (s : State) (e : Event) : State := { s with agenda := s.agenda ++ [e] }

/-- Steps that become due. -/
def State.dues (s : State) (es : List Event) : State := { s with agenda := s.agenda ++ es }

/-- A number for something new. -/
def State.fresh (s : State) : State := { s with nextId := s.nextId + 1 }

/-- A step that becomes due before those that already are. -/
def State.dueFirst (s : State) (e : Event) : State := { s with agenda := e :: s.agenda }

/-- A step that becomes due, unless it already is. -/
def State.dueOnce (s : State) (e : Event) : State := if s.agenda.contains e then s else s.due e

/-- What leaves the module. -/
def State.out (s : State) (o : Out) : State := { s with outbox := s.outbox ++ [o] }

/-- The next draw of a free value uses the next count. -/
def State.tock (s : State) : State := { s with tick := s.tick + 1 }

/-! ### Partitions (18 R439, R444) -/

/-- The dies of a partition as a bit set. -/
def State.pdies (s : State) (p : Nat) : Nat :=
  match (s.part p).dies with
  | none => 2 ^ p
  | some d => d.toNat

/-- The partition that holds a die (01 R19).  A die that an accepted PDIES write has left in no set is in the partition of its
own number: DESIGN CHOICE (log 96), the spec says only that every die belongs to exactly one. -/
def State.partOf (s : State) (d : Nat) : Nat :=
  ((List.range 32).find? (fun p => bitAt (s.pdies p) d)).getD d

/-- Whether a die is in a partition. -/
def State.dieIn (s : State) (d p : Nat) : Bool := s.partOf d == p

/-- The dies of a partition, ascending. -/
def State.diesOf (s : State) (p : Nat) : List Nat := (List.range 32).filter (fun d => bitAt (s.pdies p) d)

/-- The front-end die of a partition (19 R465). -/
def State.frontDie (s : State) (p : Nat) : Nat := ((s.diesOf p).head?).getD p

/-- The queue of a copy engine. -/
def Cluster.queue (c : Cluster) (k : Nat) : List Nat := tget c.engines k []

/-- The copy queue with the fewest entries among the four of a cluster, the lowest number first; none when all are full
(11 R279). -/
def freeEngine (c : Cluster) : Option Nat :=
  let best := [1, 2, 3].foldl (fun m k => if (c.queue k).length < (c.queue m).length then k else m) 0
  if (c.queue best).length < 32 then some best else none

/-- Whether an entry of a copy queue is among the eight that are active (11 R279). -/
def State.active (s : State) (cluster engine id : Nat) : Bool := (((s.cluster cluster).queue engine).take 8).contains id

/-- An entry leaves a copy queue. -/
def State.leaveQueue (s : State) (cluster engine id : Nat) : State :=
  s.modCluster cluster (fun c => { c with engines := tset c.engines engine ((c.queue engine).filter (fun k => k != id)) })

/-- Whether a partition is being reset (18 R450): its STATE is RESETTING. -/
def State.resetting (s : State) (p : Nat) : Bool := (s.part p).st == 2

/-- Whether a partition refuses requests: in steps 1 to 7 of a reset, or behind the fence of a retired one
(18 R452, R454). -/
def State.fenced (s : State) (p : Nat) : Bool := (s.part p).st == 2 || (s.part p).st == 4

/-- Whether host-memory accesses of a partition are held at die 0: another partition has die 0 and is in steps 3 to 7 of its
reset (18 R452). -/
def State.holdsHost (s : State) (p : Nat) : Bool := s.partOf 0 != p && decide (3 ≤ (s.part (s.partOf 0)).resetStep)

/-- An import entry as a number: KEY, MODULE, EXPIDX, PORT, KIND, OWNER of 16 R403. -/
def State.importEnt (s : State) (part i : Nat) : Nat := (tget (s.part part).imports i 0).toNat

/-- Owner of a core. -/
def State.ownerOf (s : State) (core : Nat) : Nat := (s.core core).owner

/-- An owner's table entry on a die: its reset value carries the seed of the partition's last reset (17 R416, R417). -/
def State.ownerEnt (s : State) (d o : Nat) : OwnerEnt :=
  tget (s.die d).owners o { seed := Config.resetSeed (s.partOf d) o (s.part (s.partOf d)).seedNo }

/-- The state with an owner's entry on a die changed. -/
def State.modOwner (s : State) (d o : Nat) (f : OwnerEnt → OwnerEnt) : State :=
  s.modDie d (fun r => { r with owners := tset r.owners o (f (s.ownerEnt d o)) })

/-- The seed of a partition (17 R417). -/
def State.partSeed (s : State) (p : Nat) : BitVec 64 := Config.resetSeed p 4096 (s.part p).seedNo

/-- Whether the tenant-scope policy covers a core's die (07 R187, 18 R443). -/
def State.clampOn (s : State) (d : Nat) : Bool := bitAt (s.part (s.partOf d)).clampDies.toNat d

/-! ### Memory

Every memory has its place in one number space: a space number times 2^64 plus the byte's address in the space. -/

/-- Device memory at a physical address (09 R221). -/
def aDev (pa : Nat) : Nat := pa
/-- A core's local store (06 R139). -/
def aLocal (core off : Nat) : Nat := 2 ^ 64 + core * 65536 + off
/-- A cluster's memory (06 R139). -/
def aCluster (cluster off : Nat) : Nat := 2 * 2 ^ 64 + cluster * 2 ^ 20 + off
/-- Die scratchpads, by the DIE target address (06 R139). -/
def aDie (t : Nat) : Nat := 3 * 2 ^ 64 + t
/-- Host memory (06 R139, 19 R460). -/
def aHost (a : Nat) : Nat := 4 * 2 ^ 64 + a
/-- An octet's side store (12 R314). -/
def aSide (octet off : Nat) : Nat := 5 * 2 ^ 64 + octet * 16384 + off
/-- A Sextant's private SRAM (19 R460). -/
def aSram (die off : Nat) : Nat := 6 * 2 ^ 64 + die * 2 ^ 20 + off
/-- A fabric target: import entry and byte of its window (06 R139). -/
def aFabric (t : Nat) : Nat := 7 * 2 ^ 64 + t
/-- A Sextant's register space (19 R471). -/
def aReg (die off : Nat) : Nat := 8 * 2 ^ 64 + die * 2 ^ 43 + off

/-- The space of an address. -/
def spaceOf (a : Nat) : Nat := a / 2 ^ 64
/-- The address within its space. -/
def offOf (a : Nat) : Nat := a % 2 ^ 64

/-- What an unlisted byte reads as: on-chip memories are zeroed by reset (18 R450); device and host memory have no
reset contents, DESIGN CHOICE (log 3). -/
def memDefault : BitVec 8 := 0

/-- The canonical form of a memory: addresses strictly rising, no entry equal to what an unlisted address reads as. -/
def memWf : List Host.Cell → Bool
  | [] => true
  | [(_, b)] => b != memDefault
  | (a, b) :: (a', b') :: r => b != memDefault && a < a' && memWf ((a', b') :: r)

/-- One byte of a memory. -/
def memRead : List Host.Cell → Nat → BitVec 8
  | [], _ => memDefault
  | (k, b) :: r, a => if a = k then b else if a < k then memDefault else memRead r a

/-- A memory with one byte written. -/
def memWrite : List Host.Cell → Nat → BitVec 8 → List Host.Cell
  | [], a, b => if b = memDefault then [] else [(a, b)]
  | (k, c) :: r, a, b =>
    if a = k then (if b = memDefault then r else (a, b) :: r)
    else if a < k then (if b = memDefault then (k, c) :: r else (a, b) :: (k, c) :: r)
    else (k, c) :: memWrite r a b

/-- n bytes from a, little-endian (00 R2). -/
def memReadN (m : List Host.Cell) (a : Nat) : Nat → Nat
  | 0 => 0
  | n + 1 => (memRead m a).toNat + 256 * memReadN m (a + 1) n

/-- A memory with the low n bytes of v written from a, little-endian (00 R2). -/
def memWriteN (m : List Host.Cell) (a v : Nat) : Nat → List Host.Cell
  | 0 => m
  | n + 1 => memWriteN (memWrite m a (BitVec.ofNat 8 v)) (a + 1) (v / 256) n

/-- A memory with bytes written from a. -/
def memWriteL (m : List Host.Cell) (a : Nat) : List (BitVec 8) → List Host.Cell
  | [] => m
  | b :: r => memWriteL (memWrite m a b) (a + 1) r

/-- A set of word addresses, rising. -/
def setHas (l : List Nat) (a : Nat) : Bool := l.contains a
/-- The set with a member added. -/
def setAdd : List Nat → Nat → List Nat
  | [], a => [a]
  | k :: r, a => if a = k then k :: r else if a < k then a :: k :: r else k :: setAdd r a
/-- The set without a member. -/
def setDel (l : List Nat) (a : Nat) : List Nat := l.filter (fun k => k != a)

/-- The address of the 64-bit word that holds a byte. -/
def wordAddr (a : Nat) : Nat := a - a % 8
/-- The word addresses that n bytes from a touch. -/
def wordsOf (a n : Nat) : List Nat :=
  if n = 0 then [] else (List.range ((a + n - 1) / 8 - a / 8 + 1)).map (fun i => (a / 8 + i) * 8)

/-- n bytes from a, as a number. -/
def State.rd (s : State) (a n : Nat) : Nat := memReadN s.mem a n

/-- n bytes from a, as a list. -/
def State.rdBytes (s : State) (a n : Nat) : List (BitVec 8) := (List.range n).map (fun i => memRead s.mem (a + i))

/-- Whether any word of n bytes from a carries a poison mark. -/
def State.poisoned (s : State) (a n : Nat) : Bool := (wordsOf a n).any (setHas s.poison)
/-- Whether any word of n bytes from a holds an uncorrectable error. -/
def State.uncorr (s : State) (a n : Nat) : Bool := (wordsOf a n).any (setHas s.eccBad)

/-- Mark the word of a byte as poisoned: the mark takes the place of its check bits (18 R447), so an uncorrectable error is
not found there any more (06 R165). -/
def State.markPoison (s : State) (a : Nat) : State :=
  { s with poison := setAdd s.poison (wordAddr a), eccBad := setDel s.eccBad (wordAddr a) }

/-- A write of n bytes of v at a: whole words written lose their poison mark and their error (06 R165). -/
def State.wr (s : State) (a v n : Nat) : State :=
  let whole := (wordsOf a n).filter (fun w => a ≤ w && w + 8 ≤ a + n)
  { s with mem := memWriteN s.mem a v n, poison := s.poison.filter (fun w => !whole.contains w),
           eccBad := s.eccBad.filter (fun w => !whole.contains w) }

/-- A write of bytes from a. -/
def State.wrBytes (s : State) (a : Nat) (bs : List (BitVec 8)) : State :=
  let n := bs.length
  let whole := (wordsOf a n).filter (fun w => a ≤ w && w + 8 ≤ a + n)
  { s with mem := memWriteL s.mem a bs, poison := s.poison.filter (fun w => !whole.contains w),
           eccBad := s.eccBad.filter (fun w => !whole.contains w) }

/-- The full/empty bit of an on-chip word (06 R150). -/
def State.isFull (s : State) (w : Nat) : Bool := setHas s.full w

/-- Bytes of a tier: 0 G7, 1 L6 (09 R221). -/
def tierBytes (tier : Nat) : Nat := if tier = 0 then Config.g7Bytes else Config.l6Bytes

/-- TAGBASE of a die's tier: the tag region that owner 0 reserves there (09 R222). -/
def tagBase (die tier : Nat) : Nat :=
  die * 2 ^ 38 + tier * 2 ^ 37 + Config.tagOffset die tier % (tierBytes tier - tierBytes tier / 64 + 1)

/-- The tag-region place of a device word (09 R222): byte address and bit. -/
def tagPlace (pa : Nat) : Nat × Nat := (tagBase (bits pa 42 38) (bits pa 37 37) + bits pa 36 0 / 64, pa / 8 % 8)

/-- The full/empty bit of any word (06 R150, 09 R222). -/
def State.feBit (s : State) (w : Nat) : Bool :=
  if spaceOf w = 0 then bitAt (memRead s.mem (tagPlace w).1).toNat (tagPlace w).2 else s.isFull w

/-- The state with the full/empty bit of a word set to b. -/
def State.setFe (s : State) (w : Nat) (b : Bool) : State :=
  if spaceOf w = 0 then
    let (a, k) := tagPlace w
    let old := (memRead s.mem a).toNat
    { s with mem := memWrite s.mem a (BitVec.ofNat 8 (setBits old k k (if b then 1 else 0))) }
  else { s with full := if b then setAdd s.full w else setDel s.full w }

/-- The physical address of a Sextant access or fetch (19 R460), by the form of its bits [63:43]. -/
def sxPlace (die a : Nat) : Option Nat :=
  if bitAt a 63 then some (aHost (bits a 51 0))
  else if bits a 62 52 ≠ 0 then none
  else if bits a 51 43 = 0 then
    (if bits a 36 0 < (if bitAt a 37 then Config.l6Bytes else Config.g7Bytes) then some (aDev (bits a 42 0)) else none)
  else if bits a 51 43 = 0x1FE then some (aSram die (bits a 19 0))
  else if bits a 51 43 = 0x1FF then some (aReg die (bits a 42 0))
  else none

/-! ### Agents -/

/-- A Sextant hardware thread's record. -/
def State.sxThread (s : State) (d t : Nat) : SxThread := tget (s.die d).sx t {}

/-- The state with a Sextant hardware thread's record changed. -/
def State.modSx (s : State) (d t : Nat) (f : SxThread → SxThread) : State :=
  s.modDie d (fun r => { r with sx := tset r.sx t (f (s.sxThread d t)) })

/-- The thread record of an agent: none for an empty slot or a Sextant thread that does not run. -/
def State.getTh (s : State) : Agent → Option Thread
  | .thread slot => tfind s.threads slot
  | .sextant d t => if (s.sxThread d t).running then some (s.sxThread d t).th else none

/-- The state with an agent's thread record replaced. -/
def State.setTh (s : State) (a : Agent) (t : Thread) : State :=
  match a with
  | .thread slot => { s with threads := tset s.threads slot t }
  | .sextant d h => s.modSx d h (fun x => { x with th := t })

/-- The state with an agent's thread record changed; nothing for an empty slot. -/
def State.modTh (s : State) (a : Agent) (f : Thread → Thread) : State :=
  match s.getTh a with
  | none => s
  | some t => s.setTh a (f t)

/-- The state with the thread of a slot changed. -/
def State.modSlot (s : State) (slot : Nat) (f : Thread → Thread) : State := s.modTh (.thread slot) f

/-- Whether an agent is a thread slot of a core. -/
def Agent.isThread : Agent → Bool
  | .thread _ => true
  | .sextant _ _ => false

/-- The core that an agent's requests come from: a Sextant's stand for core 0 of its die. -/
def Agent.core : Agent → Nat
  | .thread slot => coreOf slot
  | .sextant d _ => d * 12800

/-- The die of an agent. -/
def Agent.die : Agent → Nat
  | .thread slot => dieOf (coreOf slot)
  | .sextant d _ => d

/-- The slot number of an agent; a Sextant thread takes numbers above every slot. -/
def Agent.num : Agent → Nat
  | .thread slot => slot
  | .sextant d t => 26214400 + d * 64 + t

/-- The agent of such a number. -/
def agentOf (n : Nat) : Agent := if n < 26214400 then .thread n else .sextant ((n - 26214400) / 64) ((n - 26214400) % 64)

/-- The owner an agent acts for: a Sextant thread acts as owner 0 (19 R458). -/
def State.agentOwner (s : State) : Agent → Nat
  | .thread slot => s.ownerOf (coreOf slot)
  | .sextant _ _ => 0

/-- The frames of a die whose saved thread has a context tag (08 R202). -/
def frameWithTag (d : Die) (tag : Nat) : Option (Nat × Frame) :=
  d.frames.find? (fun p => match p.2.saved with | some t => t.tag == tag | none => false)

/-- The state with the thread of a context tag changed, in its slot or in its frame (07 R185, 08 R202). -/
def State.modTag (s : State) (a : Agent) (tag : Nat) (f : Thread → Thread) : State :=
  match s.getTh a with
  | some t => if t.tag = tag then s.setTh a (f t) else inFrame
  | none => inFrame
where
  inFrame : State :=
    match s.threads.find? (fun p => p.2.tag == tag && tag != 0) with
    | some (k, t) => s.setTh (.thread k) (f t)
    | none =>
      match frameWithTag (s.die a.die) tag with
      | some (n, fr) => s.modDie a.die (fun r => { r with frames := tset r.frames n { fr with saved := fr.saved.map f } })
      | none => s

/-- Whether a reset has parked the threads of a core's partition (18 R450 step 2). -/
def State.parkedByReset (s : State) (core : Nat) : Bool :=
  decide (3 ≤ (s.part (s.partOf (dieOf core))).resetStep) || (s.part (s.partOf (dieOf core))).st == 4

/-- The thread of a context tag: in its slot, in another one, or in its frame (07 R185). -/
def State.tagThread (s : State) (a : Agent) (tag : Nat) : Option Thread :=
  match s.getTh a with
  | some t => if t.tag = tag then some t else elsewhere
  | none => elsewhere
where
  elsewhere : Option Thread :=
    match s.threads.find? (fun p => p.2.tag == tag && tag != 0) with
    | some (_, t) => some t
    | none => (frameWithTag (s.die a.die) tag).bind (fun f => f.2.saved)

/-- Whether the thread of a context tag still exists in its slot. -/
def State.tagLive (s : State) (a : Agent) (tag : Nat) : Bool :=
  match s.getTh a with
  | some t => t.tag == tag
  | none => false

/-- The slots of a core that hold a thread, ascending. -/
def State.slotsOn (s : State) (core : Nat) : List Nat :=
  (s.threads.filter (fun p => coreOf p.1 == core)).map Prod.fst

/-- Whether a core has a live thread (01 R18). -/
def State.coreLive (s : State) (core : Nat) : Bool := s.threads.any (fun p => coreOf p.1 == core)

/-! ### Counters of events (20 R487, R488) -/

/-- Count an event n times in the monitors of one thread, own events only or core-wide ones only; every event that has
occurred is in a later read (20 R489, log 84). -/
def monAdd (t : Thread) (ev n : Nat) (own : Bool) : Thread :=
  { t with mon := (List.range 4).foldl (fun m k =>
      let f := bits t.monsel.toNat (16 * k + 8) (16 * k)
      if f % 256 = ev ∧ (own ∨ f / 256 = 1) then tset m k (tget m k 0 + BitVec.ofNat 64 n) else m) t.mon }

/-- Count an event of an agent: in its own monitors, and in the core-wide ones of its siblings. -/
def State.monEv (s : State) (a : Agent) (ev n : Nat) : State :=
  match a with
  | .thread slot =>
    (s.slotsOn (coreOf slot)).foldl (fun s k => s.modSlot k (fun t => monAdd t ev n (k == slot))) s
  | .sextant _ _ => s

/-- Count a die event of an owner (20 R488). -/
def State.dieEv (s : State) (d ev owner : Nat) : State :=
  s.modPlat d (fun p => { p with dmon := (List.range 16).foldl (fun m k =>
    let sel := (tget p.dmonsel k 0).toNat
    if bits sel 7 0 = ev ∧ (¬ bitAt sel 31 ∨ bits sel 27 16 = owner) then tset m k (tget m k 0 + 1) else m) p.dmon })

/-! ### Time (00 R4, 05 R129) -/

/-- Module time in ns as a die reads it: within 8 ns of nominal and monotonic (05 R129). -/
def State.timeNs (s : State) (d : Nat) : Nat :=
  let n := s.now / 4
  (List.range 8).foldl (fun m i => if i ≤ n then max m (n - i + Config.timeSkew d (n - i) % 8) else m) n

/-- Cycles since the reset of a die's partition (05 R129). -/
def State.cycles (s : State) (d : Nat) : Nat := s.now - (s.part (s.partOf d)).resetAt

/-! ### Traps (14 R340-R351) -/

/-- The code of a cause (14 R347). -/
def Cause.code : Cause → Nat
  | .illegal => 1
  | .priv => 2
  | .regRange => 3
  | .regReleased => 4
  | .tileName => 5
  | .tileFormat => 6
  | .tileAlias => 7
  | .tileIndex => 8
  | .tileShape => 9
  | .segForm => 10
  | .segLimit => 11
  | .segRights => 12
  | .misaligned => 13
  | .overlay => 14
  | .addrDenied => 15
  | .poison => 16
  | .eccUncorr => 17
  | .qtimeout => 18
  | .rtimeout => 19
  | .lockTimeout => 20
  | .nondet => 21
  | .pxFormat => 22
  | .postedRefused => 23
  | .invOverflow => 24
  | .counterFreed => 25
  | .brk => 26
  | .watch => 27
  | .soft => 28

/-- PMODE of tstatus (14 R341). -/
def tsPmode (v : BitVec 64) : Bool := bitAt v.toNat 0
/-- AEN of tstatus (14 R341). -/
def tsAen (v : BitVec 64) : Bool := bitAt v.toNat 1
/-- PAEN of tstatus (14 R341). -/
def tsPaen (v : BitVec 64) : Bool := bitAt v.toNat 2
/-- WSKIP of tstatus (14 R341). -/
def tsWskip (v : BitVec 64) : Bool := bitAt v.toNat 3
/-- INH of tstatus (14 R341). -/
def tsInh (v : BitVec 64) : Bool := bitAt v.toNat 4

/-- A tstatus value from its fields (14 R341). -/
def tsMk (inh wskip paen aen pmode : Bool) : BitVec 64 :=
  BitVec.ofNat 64 (inh.toNat * 16 + wskip.toNat * 8 + paen.toNat * 4 + aen.toNat * 2 + pmode.toNat)

/-- The handler address of a thread, 0 for none (14 R342). -/
def vecOf (t : Thread) : Nat := bits t.csr.tvec.toNat 15 2 * 4

/-- The pc that a synchronous trap saves: that of the ccnt of a pair (05 R130, 14 R343). -/
def trapPc (t : Thread) : BitVec 64 := if t.pre.isSome then t.pc - 4 else t.pc

/-- tcause of a trap (14 R342). -/
def causeWord (c : Cause) (async : Bool) : BitVec 64 := BitVec.ofNat 64 (async.toNat * 2 ^ 63 + c.code)

/-- The progress that a trap taken at a parked instruction leaves for its reissue: a request that has been made and is
not withdrawn, or its answer (06 R153); fence probes are abandoned (07 R189).  The number of refusals so far is not
kept: a DESIGN CHOICE (log 91), since 06 R152 counts consecutive refusals and says nothing of a trap between them. -/
def keepProg (t : Thread) : Option (BitVec 64 × Prog) :=
  match t.prog with
  | .asked _ | .served _ _ | .refused _ | .denied _ _ | .released => some (t.pc, t.prog)
  | _ => t.late

/-- The entry of a trap: what is saved, what the status, the mode and the pc become (14 R343). -/
def enterTrap (t : Thread) (c : Cause) (async : Bool) (val info : BitVec 64) : Thread :=
  { t with
    csr := { t.csr with
      tepc := if async then t.pc else trapPc t
      tcause := causeWord c async
      tval := val
      tinfo := info
      tstatus := tsMk true (c == .watch) (tsAen t.csr.tstatus) false (t.mode == .k) }
    resv := none
    lrPend := none
    mode := .k
    pc := BitVec.ofNat 64 (vecOf t)
    prevPc := some (t.pc.setWidth 16)
    pre := none
    late := if async then keepProg t else t.late
    prog := .none
    park := none }

/-- A thread that stops: what it has asked for completes into its state, and is found there where an asynchronous trap
stopped it at a parked instruction to which it returns (14 R346). -/
def stopThread (t : Thread) (async : Bool) : Thread :=
  { t with stopped := true, pre := none, late := if async then keepProg t else t.late, prog := .none, park := none, resv := none, lrPend := none }

/-- Whether a trap stops the thread (14 R343, R346). -/
def trapStops (t : Thread) (async : Bool) : Bool := (tsInh t.csr.tstatus && !async) || vecOf t == 0

/-- Release every bank lock that a slot holds, and its places among the waiters (14 R358). -/
def State.dropLocks (s : State) (slot : Nat) : State :=
  let core := coreOf slot
  let held := (s.core core).locks.filter (fun p => p.2.holder == some slot)
  let s := s.modCore core (fun r => { r with locks := r.locks.map (fun p =>
    (p.1, { p.2 with holder := if p.2.holder = some slot then none else p.2.holder,
                     releasing := if p.2.holder = some slot then none else p.2.releasing,
                     waiters := p.2.waiters.filter (fun w => w.1 != slot) })) })
  s.dues (held.map (fun p => Event.bankLockGrant core p.1))

/-- Dword 0 of a stop event (19 R472). -/
def stopWord (slot : Nat) (c : Cause) (async : Bool) : BitVec 64 :=
  BitVec.ofNat 64 (2 ^ 56 + c.code * 2 ^ 40 + async.toNat * 2 ^ 39 + coordOf slot)

/-- A slot's places among the waiters of bank locks are given up. -/
def State.leaveLocks (s : State) (slot : Nat) : State :=
  s.modCore (coreOf slot) (fun r => { r with locks := r.locks.map (fun p =>
    (p.1, { p.2 with waiters := p.2.waiters.filter (fun w => w.1 != slot) })) })

/-- A requester leaves the pending translations of a die that it waits on, without effect (09 R236). -/
def State.leavePages (s : State) (die num : Nat) : State :=
  s.modXlat die (fun x => { x with
    pend := tmap x.pend (fun p => { p with waiters := p.waiters.filter (fun k => k.1 != num) }),
    dropped := x.dropped.filter (fun k => k != num) })

/-- The 48-bit identifier of a core's request: class 0, requester the core, sequence its number. -/
def identOf (core id : Nat) : Nat := core % 2 ^ 21 * 2 ^ 24 + id % 2 ^ 24

/-- The identifier of an access. -/
def Access.ident (x : Access) (id : Nat) : Nat := identOf x.core id

/-- An asynchronous trap withdraws the thread's full/empty request from its way or its list, unless it has been served
(06 R153), its wait for a translation (09 R236), and a wait for a bank lock. -/
def State.withdraw (s0 : State) (a : Agent) : State :=
  let s := match a with | .thread slot => (s0.leaveLocks slot).leavePages (dieOf (coreOf slot)) slot | .sextant _ _ => s0
  match s.getTh a with
  | none => s
  | some t =>
    match t.prog with
    | .asked id =>
      match tfind s.net id with
      | some x =>
        let fe := match x.kind with | .ldfe | .ldff | .stfe | .stff | .feset _ => true | _ => false
        let load := match x.kind with | .ldfe | .ldff => true | _ => false
        if fe then
          { s with net := terase s.net id,
                   dies := tmap s.dies (fun d => { d with waitLists := tmap d.waitLists (fun l => l.filter (fun k => k != id)) }) }
            |> (fun s => if spaceOf x.addr = 0 then s.due (.replayAck (x.ident id)) else s)
            |> (fun s => s.setTh a { t with prog := .none, cnt := { t.cnt with l := if load then t.cnt.l - 1 else t.cnt.l, s := if load then t.cnt.s else t.cnt.s - 1 } })
        else s
      | none => s
    | _ => s

/-- Take a trap (14 R343): the entry, or the stop with its event (14 R346, 19 R472). -/
def State.takeTrap (s0 : State) (a : Agent) (c : Cause) (async : Bool) (val info : BitVec 64) : State :=
  let s := if async then s0.withdraw a else s0
  match s.getTh a with
  | none => s
  | some t =>
    if trapStops t async then
      let s := s.setTh a (stopThread t async)
      match a with
      | .thread slot =>
        (s.dropLocks slot).due (.eventRecord (dieOf (coreOf slot)) (stopWord slot c async)
          (if async then t.pc else trapPc t) val info)
      | .sextant _ _ => s
    else s.setTh a (enterTrap t c async val info)

/-- Raise an asynchronous trap for the thread of a context tag: it stays pending until it is taken (14 R345). -/
def State.raise (s : State) (a : Agent) (tag : Nat) (x : AsyncTrap) : State :=
  s.modTag a tag (fun t => { t with traps := t.traps ++ [x] })

/-- Whether a pending trap may be taken now (14 R345); never between a `ccnt` and its instruction (05 R130), be it a `quit` that
waits, for which 05 R135 has the trap taken first: DEDUCED (log 105), R130 has no exception. -/
def trapAllowed (t : Thread) (x : AsyncTrap) : Bool :=
  t.pre.isNone && !tsInh t.csr.tstatus && (x.isLock || tsAen t.csr.tstatus)

/-- The pending trap to take: the earliest that is allowed, refusals of the journal in SEQ order (14 R345, 08 R200). -/
def nextTrap (t : Thread) : Option AsyncTrap :=
  match t.traps.filter (trapAllowed t) with
  | [] => none
  | x :: r =>
    if !x.refusal then some x
    else some ((r.filter (fun y => y.refusal)).foldl (fun m y => if (m.seq + 2 ^ 32 - y.seq) % 2 ^ 32 < 2 ^ 31 then y else m) x)

/-- The thread after tret (14 R350): mode, AEN, INH and pc restored, WSKIP consumed.  A thread of Sextant stays in K mode
(19 R458). -/
def leaveTrap (a : Agent) (t : Thread) : Thread :=
  { t with
    mode := if tsPmode t.csr.tstatus || !a.isThread then .k else .u
    pc := t.csr.tepc
    skip := tsWskip t.csr.tstatus
    prog := match t.late with | some (p, g) => if p = t.csr.tepc then g else .none | none => .none
    late := none
    csr := { t.csr with
      tstatus := tsMk false false (tsPaen t.csr.tstatus) (tsPaen t.csr.tstatus) (tsPmode t.csr.tstatus) } }

/-! ### Events -/

/-- The outcome of an event's row: its effect, or noSuchUnit where a unit it names does not exist. -/
def evDo (e : Event) (t : State) : Outc := if e.wf then .next { t with ev := none } else .fault .noSuchUnit

/-! ### Fetch (03 R53-R56, 19 R460) -/

/-- What a fetch gives: the word, or the trap of step 1 (03 R75). -/
inductive Fetched where
  | word (w : BitVec 32)
  | trap (c : Cause) (val info : BitVec 64)

/-- TINFO of OVERLAY: the instruction that led to the fetch, and EXB (14 R347); for a thread's first fetch no
instruction led to it and the field is a free value. -/
def overlayInfo (t : Thread) (exb n : Nat) : BitVec 64 :=
  let lead := match t.prevPc with | some p => p.toNat | none => bits (Config.freeWord n).toNat 15 0
  BitVec.ofNat 64 (lead * 65536 + exb)

/-- The error that a read of the code word at an offset of a core meets (03 R54). -/
def codeError (s : State) (core off : Nat) : Option Cause :=
  if s.uncorr (aLocal core off) 4 then some .eccUncorr else if s.poisoned (aLocal core off) 4 then some .poison else none

/-- The word at a code offset of a core with its error. -/
def codeNow (s : State) (core off : Nat) : BitVec 32 × Option Cause := (BitVec.ofNat 32 (s.rd (aLocal core off) 4), codeError s core off)

/-- What a fetch at a code offset reads: the word in local store, or an older one that the thread may have fetched ahead
since its last fence.i, each with the error that it carried (03 R54, R55). -/
def codeWord (s : State) (core : Nat) (t : Thread) (off : Nat) : BitVec 32 × Option Cause :=
  let now := codeNow s core off
  match ((s.core core).codeLog.filter (fun x => x.1 == off && t.fenceI ≤ x.2.2)).map (fun x => x.2.1) with
  | [] => now
  | old => (now :: old).getD (Config.pick s.tick % (old.length + 1)) now

/-- The fetch of an agent's next instruction: below EXB in its core's local store (03 R53, R54), or at a Sextant's
physical address (19 R460). -/
def fetch (s : State) (a : Agent) (t : Thread) : Fetched :=
  match a with
  | .thread slot =>
    let core := coreOf slot
    let exb := (s.core core).exb
    if t.pc.toNat ≥ exb * 256 then .trap .overlay t.pc (overlayInfo t exb s.tick)
    else match codeWord s core t t.pc.toNat with
    | (_, some c) => .trap c t.pc 0
    | (w, none) => .word w
  | .sextant d _ =>
    match sxPlace d t.pc.toNat with
    | none => .trap .segForm t.pc 0
    | some p =>
      if s.uncorr p 4 then .trap .eccUncorr t.pc 0
      else if s.poisoned p 4 then .trap .poison t.pc 0
      else .word (BitVec.ofNat 32 (s.rd p 4))

/-! ### Parking -/

/-- Park an agent's thread: its condition, progress, and the wake that becomes due (05 R113, R114). -/
def State.parkOn (s : State) (a : Agent) (p : Park) (g : Prog) : State :=
  ((s.modTh a (fun t => { t with park := some p, prog := g })).monEv a 2 1).dueOnce (.parkWake a.num)

/-- Wake an agent's thread: it is eligible 2 positions later (05 R114). -/
def State.wake (s : State) (a : Agent) : State :=
  s.modTh a (fun t => { t with park := none, wakePos := (s.core a.core).pos + 2 })

end Sys2Proof.Machine
end

