-- ==== Sys2Proof/Machine/Operands.lean ====
section
/-!
DEFINITION. Operands: the checks and register effects that every encoded instruction shares: the order of the checks
on one word (03 R75), the names and states of register entries (05 R119, R120), ports in place of registers
(11 R293), tile names (05 R116), and the retirement of an instruction.
-/
namespace Sys2Proof.Machine

/-- How an instruction's fields name registers and tiles. Field codes: 0 d, 1 a, 2 b (14 R347). -/
structure Fields where
  /-- The scalar destination. -/
  dst : Option (BitVec 5) := none
  /-- Scalar sources, in field order. -/
  srcs : List (Nat × BitVec 5) := []
  /-- Registers named and neither read nor written (05 R131, 15 R398). -/
  names : List (Nat × BitVec 5) := []
  /-- Tile names, in field order; the view bit is not part of the name (03 R58). -/
  tiles : List (Nat × BitVec 4) := []
  /-- K-mode only (03 R73). -/
  kOnly : Bool := false
  /-- The CSR of a Zicsr instruction (03 R76, R77). -/
  csr : Option (BitVec 12) := none
  /-- Other items that the instruction reads, as the TVAL of 18 R446: 0x100 + n a descriptor, 0x200 + n a generator,
  0x1000 + n a CSR. -/
  items : List Nat := []

/-- What an instruction's own checks and effects start from. -/
structure Env where
  s : State
  ag : Agent
  th : Thread
  i : Instr
  /-- Values of the fields a and b. -/
  a : BitVec 64
  b : BitVec 64
  /-- Where a late result goes. -/
  rd : RegDst

/-- What goes to the destination. -/
inductive DstW where
  | none
  /-- An immediate result. -/
  | val (v : BitVec 64)
  /-- A result that a request delivers later. -/
  | pend (req : Nat)
  /-- An entry that stays PENDING with an error or refusal attached (06 R164, 08 R490). -/
  | marked (m : Mark)

/-- How an instruction that completes leaves the machine. -/
structure Ret where
  s : State
  dst : DstW := .none
  /-- The next pc where it is not pc + 4. -/
  pc : Option (BitVec 64) := none
  /-- The prefix that ccnt leaves (05 R130). -/
  pre : Option (BitVec 4) := none

/-- The result of an instruction's own checks and effects. -/
inductive Res where
  | ok (r : Ret)
  /-- A synchronous trap: exact, no effect (14 R344). -/
  | trap (c : Cause) (val info : BitVec 64)
  /-- A park (05 R113), with the requests it has made and the progress its reissue finds. -/
  | park (p : Park) (g : Prog) (s : State)
  /-- The instruction has ended or redirected its own thread (quit, tret). -/
  | final (s : State)

/-! ### TINFO layouts -/

/-- TINFO of 06 R142. -/
def info142 (reason acc : Nat) (deferred : Bool) (seg : Nat) : BitVec 64 :=
  BitVec.ofNat 64 (reason * 256 + acc * 16 + deferred.toNat * 8 + seg)

/-- TINFO of 10 R253 at issue. -/
def info253 (reason opnd : Nat) : BitVec 64 := BitVec.ofNat 64 (reason * 256 + opnd * 16)

/-- TINFO of 14 R348. -/
def info348 (reason detail : Nat) : BitVec 64 := BitVec.ofNat 64 (reason * 256 + detail)

/-- TINFO of REG_RANGE and REG_RELEASED (14 R347). -/
def infoReg (reg field : Nat) : BitVec 64 := BitVec.ofNat 64 (reg * 256 + field)

/-- The instruction word as TVAL (14 R347). -/
def wordVal (i : Instr) : BitVec 64 := i.word.setWidth 64

/-- A trap of ILLEGAL with a reason (14 R348). -/
def illegal (i : Instr) (reason detail : Nat) : Res := .trap .illegal (wordVal i) (info348 reason detail)

/-! ### Which unit runs a word (03 R74, 19 R459) -/

/-- Words of custom-3 that only Sextant runs (03 R73). -/
def sextantOnly (w : BitVec 32) : Bool :=
  fld w 0 7 == 0x7B && fld w 12 3 == 0 && (fld w 25 7 == 0x30 || fld w 25 7 == 0x31 || fld w 25 7 == 0x32)

/-- Words that Sextant runs (19 R459). -/
def sextantRuns (w : BitVec 32) : Bool :=
  let op := fld w 0 7
  if op = 0x0B ∨ op = 0x2B ∨ op = 0x5B then false
  else if op = 0x7B then
    fld w 12 3 == 1 || sextantOnly w || (fld w 12 3 == 0 && (fld w 25 7 == 9 || fld w 25 7 == 10))
  else true

/-- Whether the agent's unit runs the word. -/
def unitRuns (a : Agent) (w : BitVec 32) : Bool :=
  match a with
  | .thread _ => !sextantOnly w
  | .sextant _ _ => sextantRuns w

/-! ### Register entries (05 R115, R119) -/

/-- An entry of the window. -/
def Thread.ent (t : Thread) (r : Nat) : RegEnt := tget t.regs r {}

/-- The thread with an entry replaced; x0 takes no entry (05 R115). -/
def Thread.setEnt (t : Thread) (r : Nat) (e : RegEnt) : Thread := if r = 0 then t else { t with regs := tset t.regs r e }

/-- The value of a PRESENT entry; x0 reads 0. -/
def Thread.reg (t : Thread) (r : Nat) : BitVec 64 := if r = 0 then 0 else (t.ent r).val

/-- The in-port's register and queue, if enabled (11 R291). -/
def inPort (t : Thread) : Option (Nat × Nat) :=
  let p := t.pmap.toNat
  if bitAt p 15 then some (bits p 12 8, bits p 6 4) else none

/-- The out-port's register and direction, if enabled (11 R291). -/
def outPort (t : Thread) : Option (Nat × Nat) :=
  let p := t.pmap.toNat
  if bitAt p 31 then some (bits p 28 24, bits p 22 20) else none

/-- Whether a source field names the in-port. -/
def isIn (t : Thread) (r : Nat) : Bool := match inPort t with | some (k, _) => k == r | none => false
/-- Whether a destination field names the out-port. -/
def isOut (t : Thread) (r : Nat) : Bool := match outPort t with | some (k, _) => k == r | none => false

/-- A receive queue of a core. -/
def Core.queue (c : Core) (q : Nat) : PortQ := tget c.ports q {}
/-- The core with a receive queue replaced. -/
def Core.setQueue (c : Core) (q : Nat) (x : PortQ) : Core := { c with ports := tset c.ports q x }

/-- Words that the sender counts against the eight places: held, on their way, or popped and not yet seen (11 R293). -/
def PortQ.used (q : PortQ) : Nat := q.words.length + q.coming.length + q.unseen

/-- The neighbour's queue that an out-port feeds (11 R293): core and queue. -/
def outQueue (slot : Nat) (t : Thread) : Option (Nat × Nat) :=
  match outPort t with
  | none => none
  | some (_, dir) => (neighbour (coreOf slot) dir).map (fun c => (c, facing dir))

/-- All register fields with their codes, in the order d, a, b (03 R75). -/
def Fields.all (f : Fields) : List (Nat × Nat) :=
  let d := match f.dst with | some r => [(0, r.toNat)] | none => []
  let x := (f.srcs ++ f.names).map (fun p => (p.1, p.2.toNat))
  d ++ x.filter (fun p => p.1 == 1) ++ x.filter (fun p => p.1 == 2)

/-- The first field that names a register outside the window (03 R75 step 6). -/
def rangeBad (t : Thread) (f : Fields) : Option (Nat × Nat) := f.all.find? (fun p => p.2 ≥ t.win)

/-- The first tile name at or beyond the limit (03 R75 step 6). -/
def tileBad (t : Thread) (f : Fields) : Option Nat := (f.tiles.find? (fun p => p.2.toNat ≥ t.tlim)).map Prod.fst

/-- Source fields that read an entry: not x0, not a port (05 R120). -/
def entrySrcs (t : Thread) (f : Fields) : List (Nat × Nat) :=
  (f.srcs.map (fun p => (p.1, p.2.toNat))).filter (fun p => p.2 != 0 && !isIn t p.2)

/-- Whether a field names an entry: not x0, and not a port in its own place (05 R120). -/
def namesEntry (t : Thread) (f : Fields) (p : Nat × Nat) : Bool :=
  p.2 != 0 && !(if p.1 = 0 ∧ f.dst.isSome then isOut t p.2 else isIn t p.2 || (f.names.any (fun q => q.2.toNat == p.2) && isOut t p.2))

/-- Fields that name an entry. -/
def entryNames (t : Thread) (f : Fields) : List (Nat × Nat) := f.all.filter (namesEntry t f)

/-- What step 7 finds (03 R75): a RELEASED source, an error, a marked PENDING entry, a PENDING entry. -/
inductive RegCheck where
  | fine
  | released (reg field : Nat)
  | ecc (item : Nat)
  | marked (reg : Nat) (m : Mark)
  | pending (reg : Nat)

/-- Fields that pop the in-port, in the order a, b (11 R293). -/
def popFields (t : Thread) (f : Fields) : List (Nat × Nat) :=
  (f.srcs.map (fun p => (p.1, p.2.toNat))).filter (fun p => p.2 != 0 && isIn t p.2)

/-- Whether the destination pushes to the out-port. -/
def pushes (t : Thread) (f : Fields) : Bool := match f.dst with | some r => r != 0 && isOut t r.toNat | none => false

/-- The items beside its entries that an instruction reads: those that its fields name, and pmap where a field pops or pushes
a port (18 R446, 11 R293). -/
def itemsRead (t : Thread) (f : Fields) : List Nat :=
  f.items ++ (if !(popFields t f).isEmpty || pushes t f then [0x1800] else [])

/-- Step 7 of 03 R75 on the entries (05 R120, 06 R164, 18 R446). -/
def regCheck (t : Thread) (f : Fields) : RegCheck :=
  match (entrySrcs t f).find? (fun p => (t.ent p.2).st == .released) with
  | some p => .released p.2 p.1
  | none =>
    match ((entrySrcs t f).filter (fun p => (t.ent p.2).ecc && (t.ent p.2).st == .present)).map Prod.snd ++
        (itemsRead t f).filter (fun n => t.ecc.contains n) with
    | n :: _ => .ecc n
    | [] =>
      match (entryNames t f).find? (fun p => (t.ent p.2).st == .pending) with
      | none => .fine
      | some p =>
        match (t.ent p.2).mark with
        | some m => .marked p.2 m
        | none => .pending p.2

/-- The words at the head of the in-port's queue. -/
def inWords (s : State) (a : Agent) (t : Thread) : List PortWord :=
  match inPort t with
  | some (_, q) => ((s.core a.core).queue q).words
  | none => []

/-- Whether the out-port's queue has room (11 R293). -/
def hasRoom (s : State) (slot : Nat) (t : Thread) : Bool :=
  match outQueue slot t with
  | some (c, q) => ((s.core c).queue q).used < 8
  | none => false

/-- Whether the port that a register is bound to has a word to pop or room for a push (15 R398). -/
def portReady (s : State) (slot : Nat) (t : Thread) (xp : Nat) : Bool :=
  if isIn t xp then !(inWords s (.thread slot) t).isEmpty else isOut t xp && hasRoom s slot t

/-- A bounded port wait whose condition holds at or before its limit has been met (15 R398). -/
def noteWait (s : State) (slot : Nat) (t : Thread) : Thread :=
  match t.park, t.prog with
  | some (.qwait xp lim), .since _ _ _ => if s.now ≤ lim ∧ portReady s slot t xp then { t with prog := .met } else t
  | _, _ => t

/-- Every bounded port wait looked at, after a queue has changed. -/
def noteWaits (s : State) : State := { s with threads := s.threads.map (fun p => (p.1, noteWait s p.1 p.2)) }

/-- The value of a source field: an entry, or the n-th popped word. -/
def srcVal (t : Thread) (pops : List (Nat × Nat)) (words : List PortWord) (p : Nat × Nat) : BitVec 64 :=
  if p.2 ≠ 0 ∧ isIn t p.2 then
    match (pops.zip words).find? (fun x => x.1 == p) with
    | some (_, w) => w.val
    | none => 0
  else t.reg p.2

/-- The value of a field code among the sources, 0 where the instruction has no such field. -/
def fieldVal (t : Thread) (f : Fields) (words : List PortWord) (code : Nat) : BitVec 64 :=
  match f.srcs.find? (fun p => p.1 == code) with
  | some p => srcVal t (popFields t f) words (p.1, p.2.toNat)
  | none => 0

/-! ### Sequencer capture (12 R321) -/

/-- Words that rpt may capture (12 R321): strip-running tile words, mma, mmag, mmas, mdld, mdclr, tile copies. -/
def capturable (w : BitVec 32) : Bool :=
  let op := fld w 0 7
  let f3 := fld w 12 3
  let f7 := fld w 25 7
  if op = 0x0B then f7 == 2 || f7 ≥ 8
  else if op = 0x2B then f3 == 0 || (f3 == 1 && (f7 == 0 || f7 == 1))
  else if op = 0x5B then f3 == 5 && 0x10 ≤ f7 && f7 ≤ 0x14
  else false

/-- Tile, matrix and copy instructions, which wait for the sequencer (12 R322): every word of the tile class, those of the
matrix class with mitw and rpt, gfill, and what starts a transfer. -/
def seqWaits (w : BitVec 32) : Bool :=
  let op := fld w 0 7
  let f3 := fld w 12 3
  let f7 := fld w 25 7
  op == 0x0B || capturable w || (op == 0x2B && f3 == 2) || (op == 0x2B && f3 == 1 && (f7 == 2 || f7 == 0x0B)) ||
    (op == 0x5B && f3 == 5 && 0x15 ≤ f7 && f7 ≤ 0x18)

/-- The sequencer is still capturing words. -/
def Sequencer.capturing (q : Sequencer) : Bool := q.busy && q.words.length < q.n
/-- The word at an address is the next of the block being captured (12 R321). -/
def Sequencer.takes (q : Sequencer) (pc : BitVec 64) : Bool :=
  q.capturing && pc == q.pc + BitVec.ofNat 64 (4 * (q.words.length + 1))
/-- The sequencer still has reissues to make. -/
def Sequencer.reissuing (q : Sequencer) : Bool := q.busy && q.words.length ≥ q.n

/-- Whether a captured word starts a copy. -/
def isCopyWord (i : Instr) : Bool := fld i.word 0 7 == 0x5B

/-- Whether the words of a block hold a tile or matrix word, and whether they hold a copy (12 R322). -/
def extraCounts (l : List Instr) : Bool × Bool := (l.any (fun i => !isCopyWord i), l.any isCopyWord)

/-- What T and C rise by beside an issue's own count: the extra counts that arise with the n-th captured word
(12 R322). -/
def seqExtra (t : Thread) (i : Instr) : Nat × Nat :=
  let q := t.seqr
  if q.takes t.pc ∧ q.words.length + 1 ≥ q.n ∧ q.m ≠ 0 then
    let x := extraCounts (q.words.map (fun w => w.ins) ++ [i])
    (x.1.toNat, x.2.toNat)
  else (0, 0)

/-- The sequencer after capturing a word with its operands and the generators that it names (12 R321, R322; 13 R334): its
extra counts arise with the n-th word. -/
def captureWord (t : Thread) (i : Instr) (pc a b : BitVec 64) : Thread :=
  let q := t.seqr
  let ws := q.words ++ [{ ins := i, pc := pc.setWidth 16, xa := a, xb := b, gens := t.gens, num := t.num }]
  if ws.length < q.n then { t with seqr := { q with words := ws } }
  else if q.m = 0 then { t with seqr := {} }
  else
    let x := extraCounts (ws.map (fun w => w.ins))
    { t with seqr := { q with words := ws, q := 1, idx := 0, extraT := x.1, extraC := x.2 },
             cnt := { t.cnt with t := t.cnt.t + x.1.toNat, c := t.cnt.c + x.2.toNat } }

/-! ### Retirement -/

/-- The thread with an item written whole: its error is cleared (18 R446). -/
def Thread.wrote (t : Thread) (item : Nat) : Thread := { t with ecc := t.ecc.filter (fun n => n != item) }

/-- Consume one read of an entry (05 R120). -/
def consume (t : Thread) (r : Nat) : Thread :=
  let e := t.ent r
  if e.cnt = 0 then t
  else if e.cnt = 1 then t.setEnt r { e with cnt := 0, st := .released, val := 0 }
  else t.setEnt r { e with cnt := e.cnt - 1 }

/-- The register effects on the sources (05 R120): once for each field. -/
def consumeAll (t : Thread) (l : List (Nat × Nat)) : Thread := l.foldl (fun t p => consume t p.2) t

/-- Write a result to an entry with its count (05 R120). -/
def writeEnt (t : Thread) (r : Nat) (v : BitVec 64) (c : BitVec 4) : Thread :=
  t.setEnt r { val := v, st := .present, cnt := c }

/-- Make an entry PENDING on a request (05 R120). -/
def pendEnt (t : Thread) (r : Nat) (c : BitVec 4) (req : Nat) : Thread :=
  t.setEnt r { val := 0, st := .pending, cnt := c, req := req }

/-- Attach a mark to an entry (06 R164). -/
def Thread.setMark (t : Thread) (r : Nat) (m : Mark) : Thread := t.setEnt r { t.ent r with mark := some m }

/-- Take words off the head of a receive queue (11 R293, 15 R387). -/
def popQueue (q : PortQ) (n : Nat) : PortQ :=
  { q with words := q.words.drop n, head := (q.head + n) % 16, unseen := q.unseen + n }

/-- The state after popping n words of the in-port. -/
def popIn (s : State) (a : Agent) (t : Thread) (n : Nat) : State :=
  match inPort t with
  | none => s
  | some (_, q) =>
    if n = 0 then s
    else (s.modCore a.core (fun c => c.setQueue q (popQueue (c.queue q) n))).due (.portRoomReturn a.core q)

/-- The state after pushing a word, or the place of a late one, to the out-port (11 R293). -/
def pushOut (s : State) (slot : Nat) (t : Thread) (place : Nat) (w : Option PortWord) : State :=
  match outQueue slot t with
  | none => s
  | some (c, q) =>
    let s := s.modCore c (fun r => r.setQueue q { r.queue q with coming := (r.queue q).coming ++ [(place, w)] })
    if w.isSome then s.due (.portWordArrival c q) else s

/-- Retire an instruction: sources consumed, pops made, the destination written, the prefix and pc moved on, the
instruction counted (05 R120, R129, R130; 11 R293; 12 R321). -/
def retire (e : Env) (f : Fields) (r : Ret) : State :=
  match r.s.getTh e.ag with
  | none => r.s
  | some t =>
    let t := consumeAll t (entrySrcs e.th f)
    let c := e.th.pre.getD 0
    let out := pushes e.th f
    let t := match f.dst, r.dst with
      | some d, .val v => if out then t else writeEnt t d.toNat v c
      | some d, .pend q => if out then t else pendEnt t d.toNat c q
      | some d, .marked m => if out then t else (pendEnt t d.toNat c 0).setMark d.toNat m
      | _, _ => t
    let t := if e.th.seqr.takes e.th.pc then captureWord t e.i e.th.pc e.a e.b else t
    let t := { t with pre := r.pre, pc := r.pc.getD (e.th.pc + 4), prevPc := some (e.th.pc.setWidth 16), instret := t.instret + 1, prog := .none, skip := e.th.skip && r.pre.isSome }
    let s := popIn (r.s.setTh e.ag t) e.ag e.th (popFields e.th f).length
    match r.dst with
    | .val v => if out then pushOut s e.ag.num e.th (e.rd.push.map (fun p => p.2.2) |>.getD 0) (some { val := v, mark := none, slot := e.ag.num }) else s
    | .pend _ => if out then pushOut s e.ag.num e.th (e.rd.push.map (fun p => p.2.2) |>.getD 0) none else s
    | .marked m =>
      if out then pushOut s e.ag.num e.th (e.rd.push.map (fun p => p.2.2) |>.getD 0) (some { val := 0, mark := some m, slot := e.ag.num })
      else if f.dst = some 0 then s.raise e.ag e.th.tag { mark := m, seq := 0, isLock := false, journal := none } else s
    | .none => s

/-- A synchronous trap at the agent's instruction; a captured word's trap leaves the capture in place (12 R321). -/
def trapSync (s : State) (a : Agent) (c : Cause) (val info : BitVec 64) : State := s.takeTrap a c false val info

/-- What becomes of an instruction's result. -/
def finish (e : Env) (f : Fields) : Res → State
  | .ok r => retire e f r
  | .trap c val info => trapSync e.s e.ag c val info
  | .park p g s => s.parkOn e.ag p g
  | .final s => s

/-- Where a late result goes (05 R120, 11 R293). -/
def destOf (s : State) (a : Agent) (t : Thread) (f : Fields) : RegDst :=
  { agent := a, tag := t.tag, reg := match f.dst with | some r => r.toNat | none => 0, cnt := t.pre.getD 0,
    push := if pushes t f then (outQueue a.num t).map (fun p => (p.1, p.2, s.nextId)) else none }

/-- The instruction's environment once steps 5 to 7 have passed. -/
def envOf (s : State) (a : Agent) (t : Thread) (i : Instr) (f : Fields) : Env :=
  let w := inWords s a t
  { s := if pushes t f then s.fresh else s, ag := a, th := t, i := i, a := fieldVal t f w 1, b := fieldVal t f w 2,
    rd := destOf s a t f }

/-- The CSRs of a core thread (03 R78). -/
def csrKnown (n : Nat) : Bool :=
  n == 0x001 || n == 0x800 || (0xC00 ≤ n && n ≤ 0xC02) || (0xC80 ≤ n && n ≤ 0xC83) || (0xCC0 ≤ n && n ≤ 0xCCA) ||
    (0x5C0 ≤ n && n ≤ 0x5CA) || n == 0xDC0 || n == 0xDC1

/-- The CSRs of a Sextant thread: the trap CSRs of 14 R341 and R342 (19 R459). -/
def csrSextant (n : Nat) : Bool := (0x5C0 ≤ n && n ≤ 0x5C5) || n == 0x5C7 || n == 0x5C8

/-- Whether a CSR is in the map of the agent's unit (03 R77, 19 R459). -/
def csrIn (a : Agent) (n : Nat) : Bool :=
  match a with
  | .thread _ => csrKnown n
  | .sextant _ _ => csrSextant n

/-- A CSR that the map does not have (03 R77 step 4). -/
def csrUnknown (a : Agent) (f : Fields) : Bool := match f.csr with | some n => !csrIn a n.toNat | none => false

/-- A word that U mode may not run: a K-only instruction, or one on a CSR whose number has [9:8] = 01 (03 R76, R77). -/
def needsK (f : Fields) : Bool := f.kOnly || (match f.csr with | some n => bits n.toNat 9 8 == 1 | none => false)

/-- TINFO of PRIV: the CSR number (14 R347). -/
def privInfo (f : Fields) : BitVec 64 := match f.csr with | some n => n.setWidth 64 | none => 0

/-- Steps 4 (operand-free part) to 8 of 03 R75 for one instruction: the words the unit does not run, a word that may
not be captured, privilege, names, register states, ports, the wait for the sequencer, then the instruction itself. -/
def issue (s : State) (a : Agent) (t : Thread) (i : Instr) (f : Fields) (body : Env → Res) : State :=
  if !unitRuns a i.word then trapSync s a .illegal (wordVal i) 0
  else if t.seqr.takes t.pc && !capturable i.word then
    trapSync (s.setTh a { t with seqr := {} }) a .illegal (wordVal i) (info348 7 0)
  else if csrUnknown a f then trapSync s a .illegal (wordVal i) 0
  else if needsK f && t.mode == .u then trapSync s a .priv (wordVal i) (privInfo f)
  else match rangeBad t f with
  | some (fd, r) => trapSync s a .regRange (wordVal i) (infoReg r fd)
  | none => match tileBad t f with
  | some fd => trapSync s a .tileName (wordVal i) (info253 0 fd)
  | none => match regCheck t f with
  | .released r fd => trapSync s a .regReleased (wordVal i) (infoReg r fd)
  | .ecc n => trapSync s a .eccUncorr (BitVec.ofNat 64 n) (info142 18 14 false 0)
  | .marked r m => trapSync (s.setTh a (t.setEnt r { st := .released })) a m.cause m.tval m.tinfo
  | .pending r => s.parkOn a (.reg r) t.prog
  | .fine =>
    let n := (popFields t f).length
    let ws := (inWords s a t).take n
    if ws.length < n || (pushes t f && !hasRoom s a.num t) then s.parkOn a (.port n (pushes t f)) t.prog
    else match ws.find? (fun w => w.mark.isSome) with
    | some { mark := some m, .. } => trapSync s a m.cause m.tval m.tinfo
    | _ =>
      if t.seqr.reissuing && seqWaits i.word then s.parkOn a .sequencer t.prog
      else
        let e := envOf s a t i f
        finish e f (body e)

/-- Run an encoded instruction for the agent whose turn it is. -/
def runIns (s : State) (i : Instr) (f : Fields) (body : Env → Res) : Outc :=
  match s.cur with
  | none => .fault .noAgent
  | some a =>
    match s.getTh a with
    | none => .fault .noAgent
    | some t => .next { issue s a t i f body with cur := none }

/-- A result at once. -/
def done (e : Env) (v : BitVec 64) : Res := .ok { s := e.s, dst := .val v }
/-- Completion without a result. -/
def doneS (s : State) : Res := .ok { s := s }

end Sys2Proof.Machine
end

