-- ==== Sys2Proof/Machine/Flags.lean ====
section
/-!
DEFINITION. Flags: the sticky flags of fstat (04 R91-R93) as a 5-bit set NV DZ OF UF NX, and how an operation joins
its flags to the thread that issued it.
-/
namespace Sys2Proof.Machine

/-- A set of exception flags in the order of fstat (04 R92). -/
abbrev FlagSet := BitVec 5

/-- Invalid operation. -/
def fNV : FlagSet := 16
/-- Division by zero. -/
def fDZ : FlagSet := 8
/-- Overflow. -/
def fOF : FlagSet := 4
/-- Underflow. -/
def fUF : FlagSet := 2
/-- Inexact. -/
def fNX : FlagSet := 1

/-- A flag when a condition holds. -/
def fIf (c : Bool) (f : FlagSet) : FlagSet := if c then f else 0

/-- The thread with flags joined to fstat: sticky (04 R92, R93). -/
def Thread.joinFlags (t : Thread) (f : FlagSet) : Thread := { t with fstat := t.fstat ||| f.setWidth 64 }

/-- Join flags to the thread of a context tag, in its slot or its frame (04 R93). -/
def State.joinFlags (s : State) (a : Agent) (tag : Nat) (f : FlagSet) : State :=
  if f = 0 then s else s.modTag a tag (fun t => t.joinFlags f)

end Sys2Proof.Machine
end

