-- ==== Sys2Proof/Machine/Number.lean ====
section
/-!
DEFINITION. Number: element formats (04 R79-R86), rounding (04 R87-R91), the exact operations that are rounded once,
sum trees (04 R102) and block scales (04 R94).
An exact finite value is (−1)^neg × m × 2^e.
-/
namespace Sys2Proof.Machine

/-! ### Formats (04 R79-R81) -/

/-- A floating-point format: exponent and fraction bits, bias, code of the largest finite magnitude, infinity, canonical
NaN (04 R79, R81); a quiet-only format has no signalling NaN (04 R82). -/
structure Fp where
  eb : Nat
  fb : Nat
  bias : Nat
  top : Nat
  inf : Option Nat
  nan : Option Nat
  quiet : Bool

/-- The floating-point format of a code (04 R79, R81). -/
def fpOf (c : Nat) : Option Fp :=
  match c with
  | 0 => some ⟨11, 52, 1023, 0x7FEFFFFFFFFFFFFF, some 0x7FF0000000000000, some 0x7FF8000000000000, false⟩
  | 1 => some ⟨8, 23, 127, 0x7F7FFFFF, some 0x7F800000, some 0x7FC00000, false⟩
  | 2 => some ⟨5, 10, 15, 0x7BFF, some 0x7C00, some 0x7E00, false⟩
  | 3 => some ⟨8, 7, 127, 0x7F7F, some 0x7F80, some 0x7FC0, false⟩
  | 4 => some ⟨4, 3, 7, 0x7E, none, some 0x7F, true⟩
  | 5 => some ⟨5, 2, 15, 0x7B, some 0x7C, some 0x7E, true⟩
  | 6 => some ⟨2, 1, 1, 0x7, none, none, true⟩
  | _ => none

/-- Width in bits of a format code, 0 when it is reserved (04 R79). -/
def fmtBits (c : Nat) : Nat :=
  match c with
  | 0 => 64 | 1 => 32 | 2 => 16 | 3 => 16 | 4 => 8 | 5 => 8 | 6 => 4 | 7 => 8 | 8 => 8 | 9 => 32 | _ => 0

/-- Least and greatest value of an integer format (04 R79). -/
def intRange (c : Nat) : Option (Int × Int) :=
  match c with
  | 7 => some (-128, 127)
  | 8 => some (0, 255)
  | 9 => some (-2147483648, 2147483647)
  | _ => none

/-- Whether a format is an integer format. -/
def fmtInt (c : Nat) : Bool := (intRange c).isSome

/-- Whether tiles of a format are block-scaled (04 R85). -/
def fmtScaled (c : Nat) : Bool := c == 4 || c == 5 || c == 6

/-! ### Values -/

/-- A value read from an element: NaN (signalling or not), infinity, or an exact finite value. -/
inductive Val where
  | nan (sig : Bool)
  | inf (neg : Bool)
  | fin (neg : Bool) (m : Nat) (e : Int)
  deriving DecidableEq, Repr

/-- Zero. -/
def Val.zero : Val := .fin false 0 0

/-- An integer as a value. -/
def Val.ofInt (n : Int) : Val := .fin (n < 0) n.natAbs 0

/-- Whether a value is a zero. -/
def Val.isZero : Val → Bool
  | .fin _ m _ => m == 0
  | _ => false

/-- The sign of a value. -/
def Val.neg : Val → Bool
  | .nan _ => false
  | .inf n => n
  | .fin n _ _ => n

/-- Whether a value is a NaN. -/
def Val.isNan : Val → Bool
  | .nan _ => true
  | _ => false

/-- Whether a value is a signalling NaN. -/
def Val.isSig : Val → Bool
  | .nan s => s
  | _ => false

/-- A value times a power of two. -/
def Val.scale (v : Val) (k : Int) : Val :=
  match v with
  | .fin n m e => .fin n m (e + k)
  | x => x

/-- The value of an encoding of a floating-point format (04 R80-R82). -/
def Fp.value (f : Fp) (code : Nat) : Val :=
  let neg := bitAt code (f.eb + f.fb)
  let ex := bits code (f.eb + f.fb - 1) f.fb
  let fr := code % 2 ^ f.fb
  let mag := code % 2 ^ (f.eb + f.fb)
  if mag > f.top ∧ f.inf ≠ some mag then .nan (!f.quiet && !bitAt fr (f.fb - 1))
  else if f.inf = some mag then .inf neg
  else if ex = 0 then .fin neg fr (1 - (f.bias : Int) - f.fb)
  else .fin neg (2 ^ f.fb + fr) ((ex : Int) - f.bias - f.fb)

/-- The value of an integer encoding. -/
def intValue (c code : Nat) : Int :=
  match c with
  | 7 => (BitVec.ofNat 8 code).toInt
  | 8 => code % 256
  | _ => (BitVec.ofNat 32 code).toInt

/-- The value of an encoding in any format. -/
def fmtValue (c code : Nat) : Val :=
  match fpOf c with
  | some f => f.value code
  | none => Val.ofInt (intValue c code)

/-- The value of a block-scaled element: its encoding times 2^(k − 127), NaN under the scale 0xFF (04 R83, R85). -/
def scaledValue (c code k : Nat) : Val :=
  if k = 255 then .nan false else (fmtValue c code).scale ((k : Int) - 127)

/-! ### Rounding (04 R87-R90) -/

/-- A rounding mode; stochastic rounding carries its 24-bit number (04 R90). -/
inductive Rm where
  | rne
  | rtz
  | rup
  | rdn
  | sr (u : Nat)
  deriving DecidableEq, Repr

/-- Whether a magnitude n + r / 2^d rounds up to n + 1 (04 R87, R90). -/
def roundsUp (rm : Rm) (neg : Bool) (n r d : Nat) : Bool :=
  match rm with
  | .rtz => false
  | .rup => !neg && r != 0
  | .rdn => neg && r != 0
  | .rne => 2 * r > 2 ^ d || (2 * r == 2 ^ d && n % 2 == 1)
  | .sr u => r != 0 && (if neg then !(u * 2 ^ d < (2 ^ d - r) * 2 ^ 24) else u * 2 ^ d < r * 2 ^ 24)

/-- m × 2^e rounded to a multiple of 2^q: the multiple, and whether it is inexact. -/
def roundAt (rm : Rm) (neg : Bool) (m : Nat) (e q : Int) : Nat × Bool :=
  if q ≤ e then (m * 2 ^ (e - q).toNat, false)
  else
    let d := (q - e).toNat
    let n := m / 2 ^ d
    let r := m % 2 ^ d
    (if roundsUp rm neg n r d then n + 1 else n, r != 0)

/-- The magnitude code of n × 2^q, the exponent unbounded upward. -/
def Fp.magCode (f : Fp) (n : Nat) (q : Int) : Nat :=
  if n < 2 ^ f.fb then n
  else
    let l := n.log2
    ((q + l + f.bias).toNat) * 2 ^ f.fb + (n / 2 ^ (l - f.fb) - 2 ^ f.fb)

/-- An encoding from a sign and a magnitude code. -/
def Fp.enc (f : Fp) (neg : Bool) (mag : Nat) : Nat := neg.toNat * 2 ^ (f.eb + f.fb) + mag

/-- The result of an overflow (04 R87). -/
def Fp.overflow (f : Fp) (rm : Rm) (neg : Bool) : Nat :=
  match f.inf with
  | none => f.enc neg f.top
  | some i =>
    match rm with
    | .rne | .sr _ => f.enc neg i
    | .rtz => f.enc neg f.top
    | .rup => f.enc neg (if neg then f.top else i)
    | .rdn => f.enc neg (if neg then i else f.top)

/-- The NaN that a format delivers, with the flag where it has none (04 R87). -/
def Fp.nanRes (f : Fp) : Nat × FlagSet := match f.nan with | some n => (n, 0) | none => (0, fNV)

/-- Rounding of a nonzero exact value (04 R87, R91): tininess is judged after rounding with an unbounded exponent. -/
def Fp.roundFin (f : Fp) (rm : Rm) (neg : Bool) (m : Nat) (e : Int) : Nat × FlagSet :=
  let emin : Int := 1 - (f.bias : Int)
  let qn := e + m.log2 - f.fb
  let q := max qn (emin - f.fb)
  let (n, inexact) := roundAt rm neg m e q
  let mag := f.magCode n q
  if mag > f.top then (f.overflow rm neg, fOF ||| fNX)
  else
    let (u, _) := roundAt rm neg m e qn
    let tiny := (u.log2 : Int) + qn < emin
    (f.enc neg mag, fIf inexact fNX ||| fIf (tiny && inexact) fUF)

/-- Round (04 R87); a signalling NaN sets NV (04 R82). -/
def Fp.round (f : Fp) (rm : Rm) (v : Val) : Nat × FlagSet :=
  match v with
  | .nan sig => let (c, fl) := f.nanRes; (c, fl ||| fIf sig fNV)
  | .inf neg => match f.inf with | some i => (f.enc neg i, 0) | none => (f.enc neg f.top, fOF ||| fNX)
  | .fin neg m e => if m = 0 then (f.enc neg 0, 0) else f.roundFin rm neg m e

/-- RoundInt (04 R89): the integer, and NV when it is outside the format or the value is no number. -/
def roundInt (lo hi : Int) (rm : Rm) (v : Val) : Int × FlagSet :=
  match v with
  | .nan _ => (0, fNV)
  | .inf neg => (if neg then lo else hi, fNV)
  | .fin neg m e =>
    let (n, inexact) := roundAt rm neg m e 0
    let x : Int := if neg then -(n : Int) else n
    if x < lo then (lo, fNV) else if x > hi then (hi, fNV) else (x, fIf inexact fNX)

/-- An integer as the encoding of a format. -/
def intEnc (c : Nat) (x : Int) : Nat := (x % (2 ^ fmtBits c : Nat)).toNat

/-- A value rounded to any format, unscaled (04 R87, R89). -/
def roundTo (c : Nat) (rm : Rm) (v : Val) : Nat × FlagSet :=
  match fpOf c, intRange c with
  | some f, _ => f.round rm v
  | none, some (lo, hi) => let (x, fl) := roundInt lo hi rm v; (intEnc c x, fl)
  | none, none => (0, 0)

/-- A value written to a block-scaled element under an existing scale (04 R86): under 0xFF the format's NaN, where a
signalling NaN sets NV as in any conversion (04 R82, R91). -/
def roundScaled (c : Nat) (rm : Rm) (v : Val) (k : Nat) : Nat × FlagSet :=
  if k = 255 then (match fpOf c with | some f => f.round rm (.nan v.isSig) | none => (0, 0))
  else roundTo c rm (v.scale (127 - (k : Int)))

/-! ### Exact operations -/

/-- A signed mantissa. -/
def signed (neg : Bool) (m : Nat) : Int := if neg then -(m : Int) else m

/-- The exact sum of two finite values (04 R88): the sign of an exact zero follows the mode. -/
def addFin (rdn : Bool) (na : Bool) (ma : Nat) (ea : Int) (nb : Bool) (mb : Nat) (eb : Int) : Val :=
  if ma = 0 ∧ mb = 0 then .fin (if na = nb then na else rdn) 0 0
  else
    let e := min ea eb
    let s := signed na (ma * 2 ^ (ea - e).toNat) + signed nb (mb * 2 ^ (eb - e).toNat)
    if s = 0 then .fin rdn 0 0 else .fin (s < 0) s.natAbs e

/-- The flags of reading operands: NV for a signalling NaN (04 R82). -/
def sigFlags (l : List Val) : FlagSet := fIf (l.any Val.isSig) fNV

/-- Exact a + b (04 R88). -/
def vAdd (rdn : Bool) (a b : Val) : Val × FlagSet :=
  match a, b with
  | .nan s, .nan t => (.nan false, fIf (s || t) fNV)
  | .nan s, _ => (.nan false, fIf s fNV)
  | _, .nan s => (.nan false, fIf s fNV)
  | .inf x, .inf y => if x = y then (.inf x, 0) else (.nan false, fNV)
  | .inf x, _ => (.inf x, 0)
  | _, .inf y => (.inf y, 0)
  | .fin na ma ea, .fin nb mb eb => (addFin rdn na ma ea nb mb eb, 0)

/-- A value negated; a NaN stays as it is. -/
def vNeg : Val → Val
  | .nan s => .nan s
  | .inf n => .inf (!n)
  | .fin n m e => .fin (!n) m e

/-- Exact a × b (04 R88). -/
def vMul (a b : Val) : Val × FlagSet :=
  match a, b with
  | .nan s, .nan t => (.nan false, fIf (s || t) fNV)
  | .nan s, _ => (.nan false, fIf s fNV)
  | _, .nan s => (.nan false, fIf s fNV)
  | .inf x, y => if y.isZero then (.nan false, fNV) else (.inf (x != y.neg), 0)
  | x, .inf y => if x.isZero then (.nan false, fNV) else (.inf (x.neg != y), 0)
  | .fin na ma ea, .fin nb mb eb => (.fin (na != nb) (ma * mb) (ea + eb), 0)

/-- Exact a × b + c (04 R88).  A product of 0 and ∞ sets NV also beside a quiet NaN c: DESIGN CHOICE (log 85), since the spec
and IEEE 754-2019 leave that flag open. -/
def vFma (rdn : Bool) (a b c : Val) : Val × FlagSet :=
  let (p, f) := vMul a b
  let (r, g) := vAdd rdn p c
  (r, f ||| g)

/-- Quotient of two naturals to at least 80 bits with a sticky bit below: mantissa and exponent. -/
def divBits (a b : Nat) : Nat × Int :=
  let k := b.log2 + 81 - a.log2
  let q := a * 2 ^ k / b
  let r := a * 2 ^ k % b
  (2 * q + (if r = 0 then 0 else 1), -(k : Int) - 1)

/-- a / b, exact or with a sticky bit that rounds as the exact quotient does (04 R99). -/
def vDiv (a b : Val) : Val × FlagSet :=
  match a, b with
  | .nan s, .nan t => (.nan false, fIf (s || t) fNV)
  | .nan s, _ => (.nan false, fIf s fNV)
  | _, .nan s => (.nan false, fIf s fNV)
  | .inf _, .inf _ => (.nan false, fNV)
  | .inf x, y => (.inf (x != y.neg), 0)
  | x, .inf y => (.fin (x.neg != y) 0 0, 0)
  | .fin na ma ea, .fin nb mb eb =>
    if mb = 0 then (if ma = 0 then (.nan false, fNV) else (.inf (na != nb), fDZ))
    else if ma = 0 then (.fin (na != nb) 0 0, 0)
    else
      let (q, k) := divBits ma mb
      (.fin (na != nb) q (ea - eb + k), 0)

/-- Comparison of two finite values: a < b. -/
def finLt (na : Bool) (ma : Nat) (ea : Int) (nb : Bool) (mb : Nat) (eb : Int) : Bool :=
  let e := min ea eb
  signed na (ma * 2 ^ (ea - e).toNat) < signed nb (mb * 2 ^ (eb - e).toNat)

/-- a < b of two values that are no NaN. -/
def vLt (a b : Val) : Bool :=
  match a, b with
  | .inf x, .inf y => x && !y
  | .inf x, _ => x
  | _, .inf y => !y
  | .fin na ma ea, .fin nb mb eb => finLt na ma ea nb mb eb
  | _, _ => false

/-- a = b of two values: zeros of either sign are equal. -/
def vEq (a b : Val) : Bool := !a.isNan && !b.isNan && !vLt a b && !vLt b a

/-- The FP32 sum of `amofadd.s` (06 R159): new word and flags. -/
def fadd32 (a b : Nat) : Nat × FlagSet :=
  let (v, f) := vAdd false (fmtValue 1 a) (fmtValue 1 b)
  let (c, g) := roundTo 1 .rne v
  (c, f ||| g)

/-! ### Sum trees (04 R102) -/

/-- One node of the tree in a format: RNE for floating formats, wrapping for integers. -/
def treeAdd (c a b : Nat) : Nat × FlagSet :=
  if fmtInt c then (intEnc c (intValue c a + intValue c b), 0)
  else
    let (v, f) := vAdd false (fmtValue c a) (fmtValue c b)
    let (r, g) := roundTo c .rne v
    (r, f ||| g)

/-- One level: neighbours added, an odd last one passed on. -/
def treeLevel (c : Nat) : List Nat → List Nat × FlagSet
  | a :: b :: r =>
    let (x, f) := treeAdd c a b
    let (l, g) := treeLevel c r
    (x :: l, f ||| g)
  | l => (l, 0)

/-- The levels down to one value, with fuel for their number. -/
def treeLevels (c : Nat) : Nat → List Nat → List Nat × FlagSet
  | 0, l => (l, 0)
  | n + 1, l =>
    match l with
    | [] | [_] => (l, 0)
    | _ =>
      let (m, f) := treeLevel c l
      let (r, g) := treeLevels c n m
      (r, f ||| g)

/-- Tree over encodings of one format that are leaves already: +0 for none. -/
def treeSum (c : Nat) (l : List Nat) : Nat × FlagSet :=
  let (r, f) := treeLevels c l.length l
  (r.headD 0, f)

/-- Tree over values, each rounded to the format first (04 R102). -/
def treeVals (c : Nat) (l : List Val) : Nat × FlagSet :=
  let leaves := l.map (roundTo c .rne)
  let (r, f) := treeSum c (leaves.map Prod.fst)
  (r, leaves.foldl (fun g x => g ||| x.2) f)

/-! ### Block scales (04 R94) -/

/-- The largest magnitude among finite values, as a mantissa and exponent; 0 if none. -/
def maxMag (l : List Val) : Nat × Int :=
  l.foldl (fun (p : Nat × Int) v => match v with
    | .fin _ m e => if finLt false p.1 p.2 false m e then (m, e) else p
    | _ => p) (0, 0)

/-- MaxFinite of FP32 and of a block-scaled format as a mantissa and exponent (04 R94; 02 R36). -/
def maxFinite (c : Nat) : Nat × Int :=
  match c with
  | 1 => (2 ^ 24 - 1, 104)
  | 4 => (7, 6)
  | 5 => (7, 13)
  | _ => (3, 1)

/-- Ceil(log2(m / M)) of two positive values (04 R94). -/
def ceilLog2Ratio (m : Nat) (e : Int) (mm : Nat) (me : Int) : Int :=
  let k : Int := (m.log2 : Int) + e - mm.log2 - me
  if finLt false mm (me + k) false m e then k + 1 else k

/-- The scale byte of a block of values in format c (04 R94). -/
def blockScale (c : Nat) (l : List Val) : Nat :=
  let (m, e) := maxMag l
  let x : Int := if m = 0 then 0 else ceilLog2Ratio m e (maxFinite c).1 (maxFinite c).2
  ((if x < -127 then -127 else if x > 127 then 127 else x) + 127).toNat

/-- One element quantised under a scale byte: saturating, or .ns (04 R94). -/
def quantise (c k : Nat) (sat : Bool) (v : Val) : Nat × FlagSet :=
  match fpOf c with
  | none => (0, 0)
  | some f =>
    let x := v.scale (127 - (k : Int))
    if sat || c == 6 then
      match x with
      | .nan sig => let (n, fl) := f.nanRes; (n, fl ||| fIf sig fNV)
      | .inf neg => (f.enc neg f.top, fOF ||| fNX)
      | .fin neg m e =>
        if m = 0 then (f.enc neg 0, 0)
        else
          let (n, fl) := f.roundFin .rne neg m e
          (if n % 2 ^ (f.eb + f.fb) > f.top then f.enc neg f.top else n, fl)
    else if c = 4 then
      match x with
      | .inf _ => (0x7F, fNV)
      | .fin neg m e =>
        if m = 0 then (f.enc neg 0, 0)
        else
          let (n, fl) := f.roundFin .rne neg m e
          if fl &&& fOF ≠ 0 then (0x7F, fOF ||| fNX) else (n, fl)
      | y => f.round .rne y
    else f.round .rne x

end Sys2Proof.Machine
end

