-- ==== Sys2Proof/Machine/Codec.lean ====
section
/-!
DEFINITION. Codec: the PX8 block (04 R95-R97) and the blocks of the error-bounded codec (11 R297, R298), as pure functions
of bytes.
-/
namespace Sys2Proof.Machine

/-! ### PX8 (04 R95-R97) -/

/-- Four stream bits from n, first bit highest. -/
def nib (st n : Nat) : Nat := (bitAt st n).toNat * 8 + (bitAt st (n + 1)).toNat * 4 + (bitAt st (n + 2)).toNat * 2 + (bitAt st (n + 3)).toNat

/-- The number of ones at stream bit n, up to 4. -/
def onesAt (st n : Nat) : Nat :=
  if !bitAt st n then 0 else if !bitAt st (n + 1) then 1 else if !bitAt st (n + 2) then 2 else if !bitAt st (n + 3) then 3 else 4

/-- One element at stream bit n: its code and the bit after it; none when it is malformed (04 R96). -/
def pxElem (st bitsN emax n : Nat) : Option (Nat × Nat) :=
  let sg := (bitAt st n).toNat
  let m := nib st n % 8
  let d := onesAt st (n + 4)
  let e := if d < 4 then emax - d else nib st (n + 8)
  let n' := if d < 4 then n + 5 + d else n + 12
  if n' > bitsN ∨ (d < 4 ∧ d > emax) ∨ (d = 4 ∧ e + 4 > emax) then none
  else some (sg * 128 + e * 8 + m, n')

/-- k elements from stream bit n. -/
def pxElems (st bitsN emax : Nat) : Nat → Nat → Option (List Nat × Nat)
  | 0, n => some ([], n)
  | k + 1, n =>
    match pxElem st bitsN emax n with
    | none => none
    | some (c, n') => (pxElems st bitsN emax k n').map (fun p => (c :: p.1, p.2))

/-- The length field of a block's first three bytes. -/
def pxLen (v : Nat) : Nat := bits v 23 16 * 16 + bits v 15 12

/-- DecodePX8 of a block of the length it states: scale byte and 32 elements; none when it is malformed (04 R96). -/
def pxDecode (v : Nat) : Option (Nat × List Nat) :=
  let len := pxLen v
  let emax := bits v 11 8
  let st := v / 2 ^ 24 % 2 ^ (8 * (len - 3))
  if len < 23 ∨ len > 51 then none
  else
    match pxElems st (8 * (len - 3)) emax 32 0 with
    | none => none
    | some (l, n) =>
      if st / 2 ^ n ≠ 0 ∨ 3 + ceilDiv n 8 ≠ len ∨ l.foldl (fun m c => max m (bits c 6 3)) 0 ≠ emax then none
      else some (bits v 7 0, l)

/-- The stream bits of an element, first bit lowest, with their number. -/
def pxCode (emax c : Nat) : Nat × Nat :=
  let e := bits c 6 3
  let d := emax - e
  let m := (bitAt c 7).toNat + (bitAt c 2).toNat * 2 + (bitAt c 1).toNat * 4 + (bitAt c 0).toNat * 8
  if d < 4 then (m + 16 * (2 ^ d - 1), 5 + d)
  else (m + 16 * 15 + 256 * ((bitAt e 3).toNat + (bitAt e 2).toNat * 2 + (bitAt e 1).toNat * 4 + (bitAt e 0).toNat * 8), 12)

/-- The encoder of `cpy.st.px8` (04 R97): the block as a number and its length in bytes. -/
def pxEncode (scale : Nat) (l : List Nat) : Nat × Nat :=
  let emax := l.foldl (fun m c => max m (bits c 6 3)) 0
  let (st, n) := l.foldl (fun (p : Nat × Nat) c => let (x, k) := pxCode emax c; (p.1 + x * 2 ^ p.2, p.2 + k)) (0, 0)
  let len := 3 + ceilDiv n 8
  (scale + emax * 2 ^ 8 + len % 16 * 2 ^ 12 + len / 16 * 2 ^ 16 + st * 2 ^ 24, len)

/-! ### The error-bounded codec (11 R297, R298) -/

/-- A value's quotient q at exponent e, none when it is escaped. -/
def zipQ (e : Int) (c : Nat) : Option Int :=
  match fmtValue 1 c with
  | .fin n m k =>
    let (q, _) := roundInt (-(2 ^ 63)) (2 ^ 63 - 1) .rne (Val.scale (.fin n m k) (-e - 1))
    if q.natAbs ≥ 2 ^ 40 ∨ q.natAbs ≥ 2 ^ (127 - e).toNat then none else some q
  | _ => none

/-- Zigzag of a residual. -/
def zigzag (r : Int) : Nat := if r ≥ 0 then 2 * r.toNat else (-2 * r - 1).toNat

/-- The residuals of a block, none where escaped; pred is the quotient before. -/
def zipRes (pred : Int) : List (Option Int) → List (Option Nat)
  | [] => []
  | none :: r => none :: zipRes 0 r
  | some q :: r => some (zigzag (q - pred)) :: zipRes q r

/-- The k bits of a number, highest first. -/
def bitsHigh (v k : Nat) : List Bool := (List.range k).map (fun i => bitAt v (k - 1 - i))

/-- The bits of one block of values (11 R297). -/
def zipBits (e : Int) (xs : List Nat) : List Bool :=
  let zs := zipRes 0 (xs.map (zipQ e))
  let n := xs.length
  let sum := zs.foldl (fun t z => t + z.getD 0) 0
  let k := if sum < n then 0 else (sum / n).log2
  let esc := zs.any (fun z => z.isNone)
  bitsHigh k 6 ++ [esc] ++ (if esc then zs.map (fun z => z.isNone) else []) ++
    (zs.zip xs).flatMap (fun p => match p.1 with
      | none => bitsHigh p.2 32
      | some z => List.replicate (z / 2 ^ k) true ++ [false] ++ bitsHigh (z % 2 ^ k) k)

/-- Bits as bytes, bit t at bit t mod 8 of its byte, zero padded. -/
def packBits (l : List Bool) : List Nat :=
  (List.range (ceilDiv l.length 8)).map (fun i => (List.range 8).foldl (fun v b => v + (l.getD (8 * i + b) false).toNat * 2 ^ b) 0)

/-- A block's bytes. -/
def zipBlock (e : Int) (xs : List Nat) : List Nat := packBits (zipBits e xs)

/-- The header of a stream (11 R297): COUNT, EXP, two zero bytes and LENGTH as bytes. -/
def zipHeader (count : Nat) (e : Int) (len : Nat) : List Nat :=
  let v := count + (e % 65536).toNat * 2 ^ 32 + len * 2 ^ 64
  (List.range 16).map (fun i => bits v (8 * i + 7) (8 * i))

/-- EXP of a header or parameter block in range (11 R296). -/
def zipExp (v : Nat) : Option Int :=
  let e := (BitVec.ofNat 16 v).toInt
  if -150 ≤ e ∧ e ≤ 127 then some e else none

/-- q × 2^(e+1) as FP32, none where it is not exact (11 R298). -/
def unzipVal (e : Int) (q : Int) : Option Nat :=
  let (c, f) := roundTo 1 .rne (if q = 0 then Val.zero else .fin (q < 0) q.natAbs (e + 1))
  if f = 0 then some c else none

/-- The residual of a zigzag number. -/
def unzig (z : Nat) : Int := if z % 2 = 0 then (z / 2 : Nat) else -((z / 2 + 1 : Nat) : Int)

end Sys2Proof.Machine
end

