-- ==== Sys2Proof/Machine/Draw.lean ====
section
/-!
DEFINITION. Draw: MIX64 (13 R327), owner draws and their counters (17 R418, R419), placement keys and sets
(17 R420, R421), the rounds of contended points (17 R424) and the exceedance counters (17 R428).
-/
namespace Sys2Proof.Machine

/-- MIX64 (13 R327). -/
def mix64 (z : BitVec 64) : BitVec 64 :=
  let z := z ^^^ (z >>> 32)
  let z := z * 0xD1B54A32D192ED03
  let z := z ^^^ (z >>> 29)
  let z := z * 0xAEF17502108EF2D9
  z ^^^ (z >>> 32)

/-- DRAW of a seed, a domain and a counter (17 R418). -/
def drawOf (seed : BitVec 64) (d n : Nat) : BitVec 64 := mix64 (seed ^^^ BitVec.ofNat 64 (d * 2 ^ 40) ^^^ BitVec.ofNat 64 n)

/-- A placement key: an owner's seed, or a partition's (17 R420, R421); keys 4,096 and above are partitions. -/
def State.keySeed (s : State) (die key : Nat) : BitVec 64 :=
  if key < 4096 then (s.ownerEnt die key).seed else s.partSeed (key - 4096)

/-- A_s of a seed (17 R420). -/
def keyA (seed : BitVec 64) (st : Nat) : Nat := setBits (bits (drawOf seed (0xF00000 + st) 0).toNat 31 0) 0 0 1
/-- B_s of a seed (17 R420). -/
def keyB (seed : BitVec 64) (st : Nat) : Nat := bits (drawOf seed (0xF00000 + st) 1).toNat 31 0

/-- The hashed place of y under a seed in structure st: the top k bits of 32 (17 R420). -/
def placeSet (seed : BitVec 64) (st y k : Nat) : Nat := (keyA seed st * (y % 2 ^ 32) + keyB seed st) % 2 ^ 32 / 2 ^ (32 - k)

/-- Home slice of a line number (17 R421). -/
def lineSlice (x : Nat) : Nat := (x ^^^ (x / 64) ^^^ (x / 4096)) % 64

/-- Die-cache set of a line number under a seed (17 R420, structure 0). -/
def lineSet (seed : BitVec 64) (x : Nat) : Nat := placeSet seed 0 (x / 64) 8

/-- An owner's draw counter at a point: class × 65,536 + instance (17 R419). -/
def pointNo (cls inst : Nat) : Nat := cls * 65536 + inst

/-- An owner's draw at a point, with its counter moved on (17 R419). -/
def State.pointDraw (s : State) (die o cls inst : Nat) : BitVec 64 × State :=
  let e := s.ownerEnt die o
  let n := tget e.draws (pointNo cls inst) 0
  (drawOf e.seed (0xE00000 + pointNo cls inst) n,
   s.modOwner die o (fun e => { e with draws := tset e.draws (pointNo cls inst) ((n + 1) % 2 ^ 40) }))

/-- The V = 1 owners of a die below o, by table entry. -/
def ownersBelow (s : State) (die o : Nat) : List (Nat × OwnerEnt) :=
  (s.die die).owners.filter (fun p => p.1 < o && p.2.v)

/-- start_o of a class (17 R424). -/
def State.startOf (s : State) (die cls o : Nat) : Nat :=
  (ownersBelow s die o).foldl (fun n p => n + tget p.2.shares cls 0) 0

/-- The sum of the shares of a class over the V = 1 owners (17 R438). -/
def State.shareSum (s : State) (die cls : Nat) : Nat := s.startOf die cls 4096

/-- The winner of a round among the present owners, for the drawn D (17 R424). -/
def roundWinner (s : State) (die cls d : Nat) (present : List Nat) : Nat :=
  let inside := fun o => let b := s.startOf die cls o; b ≤ d && d < b + tget (s.ownerEnt die o).shares cls 0
  match present.find? inside with
  | some o => o
  | none =>
    let best := fun (l : List Nat) =>
      l.foldl (fun (m : Option Nat) o => match m with
        | none => some o
        | some k => if s.startOf die cls o < s.startOf die cls k ∨
            (s.startOf die cls o = s.startOf die cls k ∧ o < k) then some o else some k) none
    match best (present.filter (fun o => d < s.startOf die cls o)) with
    | some o => o
    | none => (best present).getD 0

/-- A round: the winner, and the state with the present owners' counters moved on (17 R424). -/
def State.round (s : State) (die cls inst : Nat) (present : List Nat) : Nat × State :=
  match present with
  | [] => (0, s)
  | [o] => (o, s)
  | _ =>
    let (sum, s') := present.foldl (fun (p : Nat × State) o =>
      let (u, t) := p.2.pointDraw die o cls inst; (p.1 + bits u.toNat 9 0, t)) (0, s)
    (roundWinner s die cls (sum % 1024) present, s')

/-- Round time of a class in cycles (17 R422). -/
def tau (cls : Nat) : Nat :=
  match cls with
  | 0 => 4 | 1 => 16 | 2 => 4 | 3 => 24 | 4 => 2 | 5 => 16 | 6 => 32 | _ => 0

/-- A request of an owner leaves a point: N and the thresholds its foreign wait exceeds (17 R428). -/
def State.leavePoint (s : State) (die o cls lost : Nat) : State :=
  s.modOwner die o (fun e =>
    if e.xclass = cls ∨ e.xclass = 8 then
      { e with exN := (e.exN + 1) % 2 ^ 48,
               exE := (List.range 16).foldl (fun t k =>
                 if lost * tau cls > 64 * 2 ^ k then tset t k (min (tget t k 0 + 1) (2 ^ 32 - 1)) else t) e.exE }
    else e)

end Sys2Proof.Machine
end

