-- ==== Sys2Proof/Machine/DieCache.lean ====
section
/-!
DEFINITION. DieCache: the tags of the core caches (06 R147), the cluster merge buffers (06 R149) and the die cache
(06 R148; 17 R421, R423, R430), the writes that end reservations (06 R156), and the bank watch units (08 R215, R216).
The caches hold no data of their own: a value is always that of the memory.
-/
namespace Sys2Proof.Machine

/-! ### Core cache and merge buffer -/

/-- The address of a line in the core cache's number space: DEVICE by physical address, HOST by host address. -/
def cacheLine (addr : Nat) : Nat := addr / 32

/-- Whether a core cache holds the line of an address (06 R147). -/
def coreHas (s : State) (core addr : Nat) : Bool := (tget (s.core core).cache (cacheLine addr % 64) []).contains (cacheLine addr)

/-- A load's use of the core cache: a hit moves the line first, a miss fills it and drops the least recent (06 R147). -/
def coreTouch (s : State) (core addr : Nat) : State :=
  let l := cacheLine addr
  s.modCore core (fun c => { c with cache := tset c.cache (l % 64) ((l :: (tget c.cache (l % 64) []).filter (fun k => k != l)).take 4) })

/-- Invalidate a line in one core's cache (06 R147, R162). -/
def coreDrop (s : State) (core addr : Nat) : State :=
  let l := cacheLine addr
  s.modCore core (fun c => { c with cache := tset c.cache (l % 64) ((tget c.cache (l % 64) []).filter (fun k => k != l)) })

/-- A grant of ownership of n bytes to an agent on another core: every line that they touch leaves every other core cache
and the merge buffers (06 R147, R149). -/
def cacheInvalidate (s : State) (keep addr n : Nat) : State :=
  let hit := fun (k : Nat) => cacheLine addr ≤ k && k ≤ cacheLine (addr + n - 1)
  { s with
    cores := s.cores.map (fun p => if p.1 = keep then p else
      (p.1, { p.2 with cache := p.2.cache.map (fun q => (q.1, q.2.filter (fun k => !hit k))) })),
    clusters := s.clusters.map (fun p => (p.1, { p.2 with merge := p.2.merge.filter (fun m => !(addr / 256 ≤ m.1 && m.1 ≤ (addr + n - 1) / 256)) })) }

/-- Whether a cluster's merge buffer holds the line of an address (06 R149). -/
def mergeHas (s : State) (cluster addr : Nat) : Bool := (s.cluster cluster).merge.any (fun m => m.1 == addr / 256 && s.now < m.2)

/-- The 256-byte line that a cluster's port has fetched is held 32 cycles in a buffer of 16 (06 R149); of a full buffer the
oldest line leaves (DESIGN CHOICE, log 89). -/
def mergeTouch (s : State) (cluster addr : Nat) : State :=
  let l := addr / 256
  if mergeHas s cluster addr then s
  else (s.modCluster cluster (fun c => { c with merge := ((l, s.now + 32) :: c.merge.filter (fun m => m.1 != l)).take 16 })).due
    (.mergeBufferExpiry cluster l)

/-! ### Die cache -/

/-- The line number of an address of device or host memory. -/
def lineNo (addr : Nat) : Nat := offOf addr / 256
/-- Whether an address is a host address. -/
def isHost (addr : Nat) : Bool := spaceOf addr == 4
/-- The home die of a device address, die 0 for a host address (01 R21; 06 R148; 09 R221). -/
def homeDie (addr : Nat) : Nat := if isHost addr then 0 else bits addr 42 38
/-- The home slice of an address. -/
def homeSlice (addr : Nat) : Nat := lineSlice (lineNo addr)

/-- The line of an address that the die cache holds, through the directory (17 R421). -/
def lineOf (s : State) (addr : Nat) : Option Line :=
  (s.die (homeDie addr)).lines.find? (fun l => l.line == lineNo addr && l.host == isHost addr)

/-- The 32-byte sectors of its line that n bytes from an address touch (06 R148). -/
def sectorsOf (addr n : Nat) : BitVec 8 :=
  BitVec.ofNat 8 (((List.range 8).filter (fun k => addr % 256 < 32 * (k + 1) && 32 * k < addr % 256 + n)).map (fun k => 2 ^ k)).sum

/-- Every sector of a line. -/
def wholeLine : BitVec 8 := 0xFF

/-- Whether the die cache holds the sectors of n bytes from an address (06 R148). -/
def hasSectors (s : State) (addr n : Nat) : Bool :=
  match lineOf s addr with
  | some l => sectorsOf addr n &&& ~~~l.valid == 0
  | none => false

/-- The key under which a request of an owner places a line (17 R421). -/
def placeKey (s : State) (addr owner part : Nat) (shared : Bool) : Nat :=
  if shared then 4096 + s.partOf (homeDie addr)
  else if isHost addr ∧ part ≠ s.partOf 0 then 4096 + part
  else owner

/-- The class-7 draw of a key at a slice, with its counter moved on (17 R419, R423). -/
def keyDraw (s : State) (die key slice : Nat) : Nat × State :=
  if key < 4096 then
    let (u, t) := s.pointDraw die key 7 slice
    (bits u.toNat 31 0, t)
  else
    let k := (key - 4096) * 64 + slice
    let n := tget (s.die die).partDraws k 0
    (bits (drawOf (s.keySeed die key) (0xE70000 + slice) n).toNat 31 0,
     s.modDie die (fun d => { d with partDraws := tset d.partDraws k ((n + 1) % 2 ^ 40) }))

/-- The lines of a set, in ascending way order. -/
def setLines (d : Die) (slice set : Nat) : List Line :=
  let l := d.lines.filter (fun x => x.slice == slice && x.set == set)
  (List.range 16).filterMap (fun w => l.find? (fun x => x.way == w))

/-- Whether a line may be evicted by a fill for owner o (17 R423). -/
def evictable (s : State) (die o : Nat) (ls : List Line) (x : Line) : Bool :=
  let e := s.ownerEnt die x.owner
  x.owner == o || (ls.filter (fun y => y.owner == x.owner)).length > (if e.v then e.floor else 0)

/-- A line placed for line owner o under a key with the sectors given (06 R148; 17 R423): the state, unchanged but for timing
where no line is eligible. -/
def dieFill (s : State) (addr o key : Nat) (valid dirty : BitVec 8) : State :=
  let die := homeDie addr
  let slice := homeSlice addr
  let set := lineSet (s.keySeed die key) (lineNo addr)
  let new := fun (w : Nat) => (Line.mk slice set w (lineNo addr) (isHost addr) o key
    (if key < 4096 then (s.ownerEnt die key).epoch else false) valid dirty)
  let ls := setLines (s.die die) slice set
  let put := fun (t : State) (w : Nat) =>
    (t.modDie die (fun d => { d with lines := new w :: d.lines.filter (fun x =>
      !(x.slice == slice && x.set == set && x.way == w)) })).dieEv die 8 o
  match (List.range 16).find? (fun w => !ls.any (fun x => x.way == w)) with
  | some w => put s w
  | none =>
    match ls.filter (evictable s die o ls) with
    | [] => s
    | es =>
      let (u, t) := keyDraw s die key slice
      match es[u * es.length / 2 ^ 32]? with
      | some v => put t v.way
      | none => t

/-- A fill of sectors: into the line where the cache holds it, else into a line placed for the owner under the key
(06 R148; 17 R423). -/
def sectorFill (s : State) (addr o key : Nat) (valid : BitVec 8) : State :=
  if (lineOf s addr).isNone then dieFill s addr o key valid 0
  else s.modDie (homeDie addr) (fun d => { d with lines := d.lines.map (fun x =>
    if x.line == lineNo addr && x.host == isHost addr then { x with valid := x.valid ||| valid } else x) })

/-- The frames that migrations own: old and new, from the moment at which their copy engine has them active (08 R211, R213). -/
def migFrames (s : State) : List Nat :=
  s.dies.flatMap (fun p => match p.2.xlat.mig with
    | some m => (match m.engine with
      | some (c, g, k) => if s.active c g k then [m.old / 65536, m.new / 65536] else []
      | none => [])
    | none => [])

/-- Whether an access at an address meets the recall of a migration (08 R207, R213). -/
def recalled (s : State) (addr : Nat) : Bool := spaceOf addr == 0 && (migFrames s).contains (addr / 65536)

/-- Whether a line is retiring: placed under its owner's earlier key (17 R429). -/
def isRetiring (s : State) (die : Nat) (x : Line) : Bool := x.key < 4096 && x.epoch != (s.ownerEnt die x.key).epoch

/-- Remove a line from the die cache. -/
def lineDrop (s : State) (die : Nat) (x : Line) : State :=
  s.modDie die (fun d => { d with lines := d.lines.filter (fun y => !(y.slice == x.slice && y.set == x.set && y.way == x.way)) })

/-- The address of a line's first byte. -/
def Line.addr (x : Line) : Nat := if x.host then aHost (x.line * 256) else aDev (x.line * 256)

/-- Relocate a retiring line: a fill into the new set, or out of the cache (17 R430); one that an engine owns waits
(17 R431). -/
def relocate (s : State) (die : Nat) (x : Line) : State :=
  if recalled s x.addr then s else dieFill (lineDrop s die x) x.addr x.owner x.key x.valid x.dirty

/-- A lookup by an owner: a hit at the retiring set relocates the line (17 R430). -/
def dieLookup (s : State) (addr owner : Nat) : State :=
  match lineOf s addr with
  | none => s
  | some x => if x.key == owner && isRetiring s (homeDie addr) x then relocate s (homeDie addr) x else s

/-- The line of an address is written back: no sector is dirty. -/
def lineClean (s : State) (addr : Nat) : State :=
  s.modDie (homeDie addr) (fun d => { d with lines := d.lines.map (fun x =>
    if x.line == lineNo addr && x.host == isHost addr then { x with dirty := 0 } else x) })

/-- The sectors of n written bytes from an address within one line are dirty. -/
def lineDirty (s : State) (addr n : Nat) : State :=
  s.modDie (homeDie addr) (fun d => { d with lines := d.lines.map (fun x =>
    if x.line == lineNo addr && x.host == isHost addr then
      { x with valid := x.valid ||| sectorsOf addr n, dirty := x.dirty ||| sectorsOf addr n } else x) })

/-- The parts of n bytes from an address that lie in one line each: address and bytes. -/
def linesIn (addr n : Nat) : List (Nat × Nat) :=
  (unitsIn addr n 256).map (fun k => (max addr (k * 256), min (addr + n) (k * 256 + 256) - max addr (k * 256)))
where
  unitsIn (a n k : Nat) : List Nat := if n = 0 then [] else (List.range ((a + n - 1) / k - a / k + 1)).map (fun i => a / k + i)

/-! ### Writes -/

/-- Who writes, for a bank watch event (08 R216): class, owner, identifier; and the writer's context tag, 0 for an agent
that is no thread, its core, 409,600 for none, and the agent where it is one; and the thread and number of the access that it makes, or for
which an engine makes it. -/
structure Writer where
  cls : Nat
  owner : Nat
  ident : Nat
  tag : Nat
  core : Nat
  agent : Option Agent := none
  req : Option (Agent × Nat × Nat) := none

/-- Whether a thread of an agent is the writer. -/
def Writer.is (w : Writer) (a : Agent) (t : Thread) : Bool := if w.tag = 0 then w.agent == some a else t.tag == w.tag

/-- Reservations on the granules of n bytes from a, lost by a write of another agent (06 R156). -/
def loseResv (s : State) (a n : Nat) (w : Writer) : State :=
  let lose := fun (g : Agent) (t : Thread) => match t.resv with
    | some r => if !w.is g t && r.granule * 32 < a + n && a < r.granule * 32 + 32 then { t with resv := none } else t
    | none => t
  { s with
    threads := s.threads.map (fun p => (p.1, lose (.thread p.1) p.2)),
    dies := s.dies.map (fun p => (p.1, { p.2 with sx := p.2.sx.map (fun x => (x.1, { x.2 with th := lose (.sextant p.1 x.1) x.2.th })) })) }

/-- Whether a bank watch unit matches a line address (08 R215). -/
def watchHit (u : BitVec 64) (line : Nat) : Bool :=
  let span := bits u.toNat 7 5
  bitAt u.toNat 0 && line / 2 ^ span == bits u.toNat 51 8 / 2 ^ span

/-- The debug events of a write of n bytes to device memory, one for each sector and matching unit (08 R216). -/
def watchEvents (s : State) (a0 n : Nat) (w : Writer) : List Event :=
  if spaceOf a0 ≠ 0 then [] else
    (linesIn.unitsIn a0 n 32).flatMap fun sector => (List.range 4).filterMap (fun k =>
      let a := sector * 32
      let u := tget (s.die (homeDie a)).watchUnits (homeSlice a * 4 + k) 0
      if watchHit u (lineNo a) then
        some (.bankWatchEvent (homeDie a) (homeSlice a) k (BitVec.ofNat 64 (offOf a / 32 * 32)) (BitVec.ofNat 4 w.cls)
          (BitVec.ofNat 12 w.owner) (BitVec.ofNat 29 w.ident))
      else none)

/-- The words that a write to local store changes, kept for fetches made ahead (03 R55). -/
def logCode (s : State) (a n : Nat) : State :=
  if spaceOf a ≠ 1 then s else
    let core := offOf a / 65536
    let off := offOf a % 65536
    let ws := (List.range ((off + n - 1) / 4 - off / 4 + 1)).map (fun i => (off / 4 + i) * 4)
    (s.modCore core (fun c => { c with codeLog := c.codeLog ++ ws.map (fun o =>
      (o, codeNow s core o, s.nextId)) })).fresh

/-- HEAD of a ring control block (15 R388). -/
def ringHead (v : Nat) : BitVec 32 := BitVec.ofNat 32 v
/-- TAIL of a ring control block. -/
def ringTail (v : Nat) : BitVec 32 := BitVec.ofNat 32 (v / 2 ^ 64)

/-- Whether a ring's condition holds (15 R388): data, or room. -/
def ringReady (v : Nat) : Bool :=
  if bitAt v 160 then (ringTail v - ringHead v).toNat < bits v 159 128 else ringHead v != ringTail v

/-- Whether a read of the block at a place finds its condition, and no error. -/
def ringGood (s : State) (place : Nat) : Bool := ringReady (s.rd place 32) && !s.poisoned place 32 && !s.uncorr place 32

/-- A thread parked by rwait reads the block again when a store to its granule is performed: a condition that holds at or
before the limit ends the wait (15 R398, R399). -/
def rereadRing (s : State) (a n : Nat) (t : Thread) : Thread :=
  match t.park, t.prog with
  | some (.rwait place _ lim), .since c _ _ =>
    if a < place + 32 ∧ place < a + n ∧ s.now ≤ lim then
      (if ringGood s place then { t with prog := .met }
       else { t with park := some (.rwait place s.now lim), prog := .since c (ringHead (s.rd place 32)) (ringTail (s.rd place 32)) })
    else t
  | _, _ => t

/-- The waits of rwait after a write of n bytes at a. -/
def noteRings (s : State) (a n : Nat) : State :=
  { s with threads := s.threads.map (fun p => (p.1, rereadRing s a n p.2)) }

/-- Dword n of a queue packet (19 R462). -/
def Packet.d (x : Packet) (n : Nat) : Nat := (List.range 8).foldl (fun v i => v + (x.bytes.getD (8 * n + i) 0).toNat * 2 ^ (8 * i)) 0

/-- Whether a value of its dword meets the condition of a WAIT (19 R462). -/
def Packet.meets (x : Packet) (v : Nat) : Bool :=
  match x.d 1 with
  | 0 => v &&& x.d 4 == x.d 3
  | 1 => v &&& x.d 4 != x.d 3
  | 2 => v &&& x.d 4 ≥ x.d 3
  | _ => v &&& x.d 4 < x.d 3

/-- A WAIT reads its dword again at each store performed in its granule (19 R462). -/
def rereadWait (s : State) (p a n : Nat) (x : Packet) : Packet :=
  match sxPlace (s.frontDie p) (x.d 2) with
  | some y => if x.typ = 3 ∧ a < y - y % 32 + 32 ∧ y - y % 32 < a + n ∧ x.meets (s.rd y 8) = true then { x with met := true } else x
  | none => x

/-- The WAITs of the queues after a write of n bytes at a. -/
def noteQueueWaits (s : State) (a n : Nat) : State :=
  { s with parts := s.parts.map (fun r => (r.1, { r.2 with packets := tmap r.2.packets (rereadWait s r.1 a n) })) }

/-- Whether the directory of its home records a copy of the host of the line of an address. -/
def hostHolds (s : State) (a : Nat) : Bool := (s.die (homeDie a)).hostCopies.contains (lineNo a)

/-- The back-invalidations in progress, with that of n bytes at a for a request: the host answers within 4,000 cycles, after
a time that is a free value (07 R186; log 99). -/
def invalidating (s : State) (r : Agent × Nat × Nat) (a n : Nat) : State :=
  ({ s with invals := s.invals.filter (fun (q : Inval) => s.now < q.until_) ++
      [Inval.mk r.1 r.2.1 r.2.2 a n (s.now + (Config.freeWord s.tick).toNat % 4001)] }).tock

/-- A write by another than the host to lines of which the host holds a copy: the directory gives the copy up as the write
commits, and the host is told (07 R186). -/
def backInvalidate (s : State) (w : Writer) (a n : Nat) : State :=
  if w.cls = 5 then s else
    (linesIn a n).foldl (fun s p =>
      let d := homeDie p.1
      if hostHolds s p.1 then
        let s := (s.modDie d (fun r => { r with hostCopies := r.hostCopies.filter (fun k => k != lineNo p.1) })).out (.backInval d (lineNo p.1))
        match w.req with
        | some r => invalidating s r p.1 p.2
        | none => s
      else s) s

/-- What a write of n bytes at a, just performed for every agent, does beside its data: reservations lost, waits of rwait and
WAIT seen to, bank watch units matched, caches of other cores and host copies invalidated, die-cache sectors dirty. -/
def State.wrote (s : State) (w : Writer) (a n : Nat) : State :=
  let s := noteQueueWaits (noteRings ((loseResv s a n w).dues (watchEvents s a n w)) a n) a n
  if spaceOf a = 0 ∨ spaceOf a = 4 then
    (linesIn a n).foldl (fun s p => lineDirty s p.1 p.2) (cacheInvalidate (if spaceOf a = 0 then backInvalidate s w a n else s) w.core a n)
  else s

/-- A write of n bytes of v at a, performed for every agent: code words logged, the data, and what goes with it. -/
def State.perfWrite (s : State) (w : Writer) (a v n : Nat) : State := ((logCode s a n).wr a v n).wrote w a n

/-- The same of runs of bytes within one 32-byte granule, lowest first, in one step (08 R206, R216). -/
def State.perfRuns (s : State) (w : Writer) (l : List (Nat × Nat × Nat)) : State :=
  match l.head?, l.getLast? with
  | some x, some y => (l.foldl (fun s r => (logCode s r.1 r.2.1).wr r.1 r.2.2 r.2.1) s).wrote w x.1 (y.1 + y.2.1 - x.1)
  | _, _ => s

end Sys2Proof.Machine
end

