-- ==== Sys2Proof/Machine/Visible.lean ====
section
/-!
DEFINITION. Visible: what an access is, which stores on their way it sees (07 R166-R169), and what it waits for before it moves
(06 R146; 07 R168-R182; 18 R452).
-/
namespace Sys2Proof.Machine

/-! ### What an access is -/

/-- Whether two ranges of bytes overlap. -/
def overlaps (a n b m : Nat) : Bool := a < b + m && b < a + n

/-- A load, LR, AMO or full/empty read, or an SC: its answer goes to a register or to its thread. -/
def Access.loadLike (x : Access) : Bool :=
  match x.kind with
  | .store | .stfe | .stff | .feset _ | .cflush => false
  | _ => true

/-- A store: passes scope by scope. -/
def Access.isStore (x : Access) : Bool := match x.kind with | .store => true | _ => false

/-- Performed at its bank as one indivisible access with a result: LR, SC, AMO, full/empty access. -/
def Access.whole (x : Access) : Bool :=
  match x.kind with
  | .load _ | .store | .cflush | .lineQuery | .image => false
  | _ => true

/-- A full/empty access. -/
def Access.isFe (x : Access) : Bool := match x.kind with | .ldfe | .ldff | .stfe | .stff | .feset _ => true | _ => false

/-- ACC of an access (06 R142). -/
def Access.acc (x : Access) : Nat :=
  match x.kind with
  | .load _ | .image => 0
  | .store => 1
  | .lr => 2
  | .sc => 3
  | .amo _ | .fadd => 4
  | .ldfe | .ldff => 5
  | .stfe | .stff => 6
  | .feset _ => 7
  | .cflush => 8
  | .lineQuery => 13

/-- A write at a slice: goes through the replay filter (08 R214). -/
def Access.sliceWrites (x : Access) : Bool :=
  (spaceOf x.addr == 0 || spaceOf x.addr == 4) && (match x.kind with | .store | .sc | .amo _ | .fadd => true | _ => false)

/-- The scopes that a store passes before it reaches its bank (07 R186): 1 core, 2 cluster port, 3 die egress, 4 port
egress. -/
def Access.path (x : Access) : List Nat :=
  let own := match spaceOf x.addr with
    | 1 => 0
    | 2 => 1
    | 7 => 4
    | 8 => 0
    | 3 => if bits (offOf x.addr) 29 25 = x.agent.die then 2 else 3
    | _ => if homeDie x.addr = x.agent.die then 2 else 3
  let from_ := match x.agent with | .thread _ => 1 | .sextant _ _ => 3
  (List.range' 1 own).filter (fun l => from_ ≤ l)

/-- Whether an access belongs to the thread of another one. -/
def sameThread (x y : Access) : Bool := if x.tag = 0 ∧ y.tag = 0 then x.agent == y.agent else x.tag == y.tag

/-- Whether two agents' accesses lie in one unit of a scope (07 R166). -/
def sameUnit (s : State) (lvl : Nat) (x y : Access) : Bool :=
  match lvl with
  | 0 => sameThread x y
  | 1 => x.agent.isThread && y.agent.isThread && x.core == y.core
  | 2 => x.agent.isThread && y.agent.isThread && clusterOf x.core == clusterOf y.core
  | 3 => dieOf x.core == dieOf y.core
  | 4 => s.partOf (dieOf x.core) == s.partOf (dieOf y.core)
  | _ => true

/-- The accesses still on their way. -/
def pendingOf (s : State) : List (Nat × Access) := s.net.filter (fun p => !p.2.done)

/-- Whether a store on its way is visible to an access of another number (07 R169). -/
def visibleTo (s : State) (y : Nat × Access) (id : Nat) (x : Access) : Bool :=
  y.2.isStore && !y.2.done && !y.2.refused &&
    (if sameThread y.2 x then y.1 < id
     else (List.range' 1 4).any (fun l => l ≤ y.2.lvl && sameUnit s l y.2 x))

/-- The stores on their way that an access sees, those performed last first: of the narrowest scope, newest first. -/
def visibleStores (s : State) (id : Nat) (x : Access) : List (Nat × Access) :=
  let l := s.net.filter (fun y => y.1 != id && overlaps y.2.addr y.2.size x.addr x.size && visibleTo s y id x)
  (List.range 6).flatMap (fun lv => sortBy (fun a b => if lv = 0 then b.1 ≤ a.1 else b.2.stamp ≤ a.2.stamp) (l.filter (fun y => y.2.lvl == lv)))

/-- One byte as an access sees it, with the store it comes from. -/
def seenByte (s : State) (vs : List (Nat × Access)) (a : Nat) : Nat × Option Nat :=
  match vs.find? (fun y => y.2.addr ≤ a && a < y.2.addr + y.2.size) with
  | some y => (y.2.data / 2 ^ (8 * (a - y.2.addr)) % 256, some y.1)
  | none => ((memRead s.mem a).toNat, none)

/-- The bytes of an access as it sees them. -/
def seenVal (s : State) (vs : List (Nat × Access)) (a n : Nat) : Nat :=
  (List.range n).foldl (fun v k => v + (seenByte s vs (a + k)).1 * 2 ^ (8 * k)) 0

/-- The stores that those bytes come from. -/
def seenFrom (s : State) (vs : List (Nat × Access)) (a n : Nat) : List Nat :=
  ((List.range n).filterMap (fun k => (seenByte s vs (a + k)).2)).eraseDups

/-! ### Order -/

/-- Whether the host has yet to answer a back-invalidation of a write, which is until then not performed at .sys
(07 R186). -/
def invalLeft (s : State) (scope id : Nat) : Bool := 5 ≤ scope && s.invals.any (fun q => q.id == id && decide (s.now < q.until_))

/-- Whether a back-invalidation belongs to a thread's write. -/
def Inval.isOf (q : Inval) (a : Agent) (tag : Nat) : Bool := if tag = 0 ∧ q.tag = 0 then q.agent == a else q.tag == tag

/-- Whether the host has yet to answer one of a thread's writes numbered below last, or of its engines'. -/
def invalsLeft (s : State) (a : Agent) (tag scope last : Nat) : Bool :=
  5 ≤ scope && s.invals.any (fun q => q.id < last && q.isOf a tag && decide (s.now < q.until_))

/-- Whether a store is performed at a scope of its own thread's (07 R167). -/
def performedAt (s : State) (scope id : Nat) : Bool :=
  !invalLeft s scope id && (match tfind s.net id with
  | none => true
  | some y => y.done || (y.isStore && scope ≤ y.lvl))

/-- Whether every access of a thread earlier than a number is performed at a scope, with what its loads have read
(07 R171): loads once delivered. -/
def releasedAt (s : State) (scope id : Nat) (x : Access) : Bool :=
  s.net.all (fun p => p.1 ≥ id || !sameThread p.2 x || (!p.2.loadLike && performedAt s scope p.1)) &&
    !invalsLeft s x.agent x.tag scope id &&
    (match s.tagThread x.agent x.tag with
     | some t => t.readFrom.all (fun q => q.2 ≥ id || performedAt s scope q.1)
     | none => true)

/-- Whether a thread has an undelivered refusal of a posted operation that holds its releases back (08 R201). -/
def refusalPending (t : Thread) : Bool := tsAen t.csr.tstatus && !tsInh t.csr.tstatus && t.traps.any (fun x => x.refusal)

/-- A load, or the read of a word of an image: the stores on their way serve it (07 R182). -/
def Access.reads (x : Access) : Bool := match x.kind with | .load _ | .image => true | _ => false

/-- Whether an access must still wait (07 R170-R182; 06 R146): a load sees the thread's own stores on their way, and a mode-5
query of oplace waits for the accesses to its line alone (17 R436). -/
def blocked (s : State) (id : Nat) (x : Access) : Bool :=
  let early := s.net.filter (fun p => p.1 < id && sameThread p.2 x)
  let acq := x.kind != .lineQuery && early.any (fun p => p.2.acq)
  let own := early.any (fun p => !p.2.done && overlaps p.2.addr p.2.size x.addr x.size &&
    !(x.reads && p.2.isStore) && !(x.isStore && p.2.isStore))
  let bank := spaceOf x.addr == 1 && s.net.any (fun p => p.1 < id && !p.2.done && !p.2.listed && spaceOf p.2.addr == 1 && p.2.core == x.core)
  let rel := match x.rel with
    | none => false
    | some sc => !releasedAt s sc id x
  let resv := (match x.kind with | .lr | .sc => true | _ => false) && early.any (fun p => !p.2.done && (match p.2.kind with | .lr | .sc => true | _ => false))
  let whole := x.whole && !(visibleStores s id x).isEmpty
  x.lvl == 0 && (acq || own || bank || rel || resv || whole)

/-- Whether a store must wait behind an overlapping one of the same unit that reached its scope first (07 R168). -/
def storeBehind (s : State) (id : Nat) (x : Access) : Bool :=
  s.net.any (fun p => p.1 != id && p.2.isStore && !p.2.done && p.2.lvl == x.lvl && overlaps p.2.addr p.2.size x.addr x.size &&
    sameUnit s x.lvl p.2 x && (if x.lvl = 0 then p.1 < id else p.2.stamp < x.stamp))

/-! ### What stands at a point -/

/-- Whether host memory is held at die 0 (18 R452). -/
def hostHeld (s : State) (x : Access) : Bool :=
  spaceOf x.addr == 4 && s.holdsHost (s.partOf x.agent.die)

/-- Whether an access cannot move on now. -/
def held (s : State) (id : Nat) (x : Access) : Bool := blocked s id x || (x.isStore && storeBehind s id x) || hostHeld s x

end Sys2Proof.Machine
end

