-- ==== Sys2Proof/Machine/Points.lean ====
section
/-!
DEFINITION. Points: the contended points of a request's way (17 R422), the rounds that the owners waiting there take
(17 R424, R425), the exceedance counts of those that leave (17 R428), and the replay filters (08 R214).
Accesses hold their place in their own record; the requests of engines, units and packets hold a claim.
-/
namespace Sys2Proof.Machine

/-- A contended point: class, die, instance (17 R422). -/
abbrev Point := Nat × Nat × Nat

/-! ### The way of a request -/

/-- The numbers from one to another, in that order. -/
def stretch (x y : Nat) : List Nat := if x ≤ y then List.range' x (y + 1 - x) else (List.range' y (x + 1 - y)).reverse

/-- The dies that traffic between two dies passes: along the carrier's row, then along the column (18 R439). -/
def route (a b : Nat) : List Nat :=
  (stretch (a % 8) (b % 8)).map (fun c => a / 8 * 8 + c) ++ ((stretch (a / 8) (b / 8)).drop 1).map (fun r => r * 8 + b % 8)

/-- The die of a place that requests come from: a cluster, or a die's own units. -/
def srcDie (src : Nat) : Nat := if 6400 ≤ src then src - 6400 else src / 200

/-- The die of a place that requests go to: a slice, a port, or a die's scratchpads. -/
def dstDie (dst : Nat) : Nat := if dst < 2048 then dst / 64 else if dst < 2060 then portDie (dst - 2048) else dst - 2060

/-- Crossings of the elastic network between two places (17 R422, class 4), die by die of the way; which they are on a die is
a free value (log 16). -/
def crossed (src dst : Nat) : List Point :=
  (route (srcDie src) (dstDie dst)).flatMap (fun d =>
    ((Config.crossings src dst).filter (fun n => n / 4096 % 32 == d)).map (fun n => (4, d, n % 4096)))

/-- The place of a die-cache slice, of a Mynis port and of a die's scratchpads in the network, for the crossings. -/
def slicePlace (addr : Nat) : Nat := homeDie addr * 64 + homeSlice addr
/-- The place of a Mynis port. -/
def portPlace (port : Nat) : Nat := 2048 + port
/-- The place of a die's scratchpads. -/
def diePlace (die : Nat) : Nat := 2060 + die
/-- The place of a die's own units, after the clusters. -/
def unitPlace (die : Nat) : Nat := 6400 + die

/-- The points from a place to a die-cache slice: crossings, then the slice port. -/
def toSlice (src addr : Nat) : List Point := crossed src (slicePlace addr) ++ [(0, homeDie addr, homeSlice addr)]

/-- A place on the way of a unit's request: a point, with the row asked for where it is a memory controller (17 R425). -/
abbrev Stop := Point × Nat

/-- Points as places of a way. -/
def plain (l : List Point) : List Stop := l.map (fun p => (p, 0))

/-- The memory package of a device byte (20 R480): G7 packages 0 to 7, L6 packages 8 and 9. -/
def packageOf (pa : Nat) : Nat := if bitAt pa 37 then 8 + bits pa 36 0 / 65536 % 2 else bits pa 36 0 / 65536 % 8

/-- The memory controller of a device byte. -/
def controller (addr : Nat) : Point := (1, homeDie addr, packageOf (offOf addr))

/-- The place of a read of n bytes that the die cache lacks at the memory controller. -/
def missAt (s : State) (addr n : Nat) : List Stop :=
  if spaceOf addr ≠ 0 ∨ hasSectors s addr n then [] else [(controller addr, Config.rowOf addr)]

/-- The point of a slice's replay filter (17 R422: units 200 to 263 of class 6). -/
def filterPoint (addr : Nat) : Point := (6, homeDie addr, 200 + homeSlice addr)

/-- The points of a write at a slice: those to its port, then its replay filter (08 R214). -/
def toFilter (src addr : Nat) : List Point := toSlice src addr ++ [filterPoint addr]

/-- The way of a unit's read of n bytes within a line, from a place. -/
def unitRead (s : State) (src addr n : Nat) : List Stop :=
  match spaceOf addr with
  | 0 | 4 => plain (toSlice src addr) ++ missAt s addr n
  | 3 => plain (crossed src (diePlace (bits (offOf addr) 29 25)))
  | _ => []

/-- The way of a unit's write of n bytes within a line: sectors that it fills only in part are read first. -/
def unitWrite (s : State) (src addr n : Nat) : List Stop :=
  match spaceOf addr with
  | 0 | 4 => plain (toSlice src addr) ++ (if addr % 32 = 0 ∧ n % 32 = 0 then [] else missAt s addr n) ++ [(filterPoint addr, 0)]
  | 3 => plain (crossed src (diePlace (bits (offOf addr) 29 25)))
  | _ => []

/-- The points to a Mynis port's egress. -/
def toPort (src port : Nat) : List Point := crossed src (portPlace port) ++ [(5, portDie port, port)]

/-- The port of a FABRIC target of a partition. -/
def fabricPort (s : State) (part addr : Nat) : Nat := bits (s.importEnt part (bits (offOf addr) 51 40)) 35 32

/-- Where an access comes from. -/
def Access.src (x : Access) : Nat := match x.agent with | .thread _ => clusterOf x.core | .sextant d _ => unitPlace d

/-- The points of an access's way (17 R422). -/
def Access.points (s : State) (x : Access) : List Point :=
  match spaceOf x.addr with
  | 0 | 4 => (if x.agent.isThread then [(2, dieOf x.core, clusterOf x.core % 200)] else []) ++ (match x.kind with | .stfe | .stff => toFilter x.src x.addr | _ => toSlice x.src x.addr)
  | 3 => crossed x.src (diePlace (bits (offOf x.addr) 29 25))
  | 7 => toPort x.src (fabricPort s (s.partOf (dieOf x.core)) x.addr)
  | _ => []

/-- The point at which an access waits next. -/
def pointOf (s : State) (x : Access) : Option Point :=
  if x.done || x.sent || x.refused || x.listed then none else (x.points s)[x.point]?

/-- The point at its home that an access waits at: the memory controller of its fill, or the replay filter (17 R422). -/
def homePoint (x : Access) : Option Point :=
  if x.done || x.sent || x.refused then none
  else if x.fill = 1 ∧ spaceOf x.addr = 0 then some (controller x.addr)
  else if x.atFilter then some (filterPoint x.addr)
  else none

/-! ### Rounds (17 R424-R426) -/

/-- A request that stands at a point: its number in the net or among the claims, its owner, the cycle in which it came, the
row that it asks for, and its rounds there. -/
structure Waiting where
  claim : Bool
  key : Nat
  owner : Nat
  came : Nat
  row : Nat
  granted : Bool
  lost : Nat
  deriving DecidableEq, Repr

/-- An access as it stands at a point. -/
def Access.waiting (x : Access) (id : Nat) : Waiting :=
  { claim := false, key := id, owner := x.owner, came := x.came.getD 0, row := Config.rowOf x.addr, granted := x.granted, lost := x.lost }

/-- A claim as it stands at its first point. -/
def Claim.waiting (c : Claim) (k : Nat) : Waiting :=
  { claim := true, key := k, owner := c.owner, came := c.came, row := (c.path.headD ((0, 0, 0), 0)).2, granted := c.granted, lost := c.lost }

/-- The accesses that wait at a point: those that have come to it and that nothing else holds back. -/
def waitingAt (s : State) (p : Point) : List (Nat × Access) :=
  s.net.filter (fun y => (pointOf s y.2 == some p && y.2.came.isSome && !held s y.1 y.2) || homePoint y.2 == some p)

/-- The claims that wait at a point. -/
def claimsAt (s : State) (p : Point) : Tbl Claim := s.claims.filter (fun c => c.2.path.head?.map Prod.fst == some p)

/-- The requests that wait at a point. -/
def waitsAt (s : State) (p : Point) : List Waiting :=
  (waitingAt s p).map (fun y => y.2.waiting y.1) ++ (claimsAt s p).map (fun c => c.2.waiting c.1)

/-- The owners with a request at a point that has not been granted. -/
def presentAt (s : State) (p : Point) : List Nat := (((waitsAt s p).filter (fun y => !y.granted)).map Waiting.owner).eraseDups

/-- Whether another owner's request, not yet granted, waits at a point. -/
def rivalAt (s : State) (owner : Nat) (p : Point) : Bool := (presentAt s p).any (fun o => o != owner)

/-- The row that a memory package has open. -/
def openRow (s : State) (p : Point) : Option Nat := if p.1 = 1 then tfind (s.die p.2.1).openRow p.2.2 else none

/-- The order in which a point serves the requests of one owner (17 R425): at a memory controller those for the open row
first, then those that came first; of those that came in one cycle an access before a claim, the lowest number first
(DESIGN CHOICE, log 16). -/
def Waiting.before (op : Option Nat) (x y : Waiting) : Bool :=
  let hit := fun (w : Waiting) => op == some w.row
  if hit x != hit y then hit x
  else if x.came ≠ y.came then x.came < y.came
  else if x.claim != y.claim then y.claim
  else x.key < y.key

/-- The request that a point would serve next of those given (17 R425, R426). -/
def headOf (op : Option Nat) (l : List Waiting) : Option Waiting :=
  l.foldl (fun m y => match m with
    | none => some y
    | some x => if y.before op x then some y else m) none

/-- Whether a request at a slice port or a memory controller must let others of its owner go first (17 R425): it has won no
round, and it is not the one that its owner would have served next. -/
def behind (s : State) (p : Point) (w : Waiting) : Bool :=
  decide (p.1 ≤ 1) && !w.granted && (waitsAt s p).any (fun y => y.owner == w.owner && y.before (openRow s p) w)

/-- Whether an access cannot pass the point where it stands: another of its owner goes first, or another owner's waits
there and it has won no round. -/
def contended (s : State) (id : Nat) (x : Access) : Bool :=
  match pointOf s x with
  | none => false
  | some p => behind s p (x.waiting id) || (!x.granted && rivalAt s x.owner p)

/-- A memory package has served a row. -/
def setRow (s : State) (p : Point) (row : Nat) : State :=
  if p.1 = 1 then s.modDie p.2.1 (fun d => { d with openRow := tset d.openRow p.2.2 row }) else s

/-- An access leaves its point: the exceedance counters of its owner (17 R428). -/
def passPoint (s : State) (id : Nat) (x : Access) : State :=
  match pointOf s x with
  | none => s
  | some (c, d, _) =>
    ({ s with net := tset s.net id { x with point := x.point + 1, came := none, granted := false, lost := 0 } }).leavePoint d x.owner c x.lost

/-- A request at a point is granted, or loses the round. -/
def roundEnd (s : State) (w : Waiting) (won : Bool) : State :=
  if w.claim then
    let s := { s with claims := (s.claims.map (fun c => if c.1 = w.key then (c.1, if won then { c.2 with granted := true } else { c.2 with lost := c.2.lost + 1 }) else c)) }
    match tfind s.transfers w.key with
    | some x => if won then s else s.monEv (.thread x.slot) 10 1
    | none => s
  else
    let s' := { s with net := (s.net.map (fun y => if y.1 = w.key then (y.1, if won then { y.2 with granted := true } else { y.2 with lost := y.2.lost + 1 }) else y)) }
    match tfind s.net w.key with
    | some x => if won then s' else s'.monEv x.agent 10 1
    | none => s

/-- What a round at a point does to one owner's requests: the one that the point would serve next is granted where the owner
has won, and loses the round otherwise (17 R424-R426). -/
def roundOf (p : Point) (win : Nat) (s : State) (o : Nat) : State :=
  match headOf (openRow s p) ((waitsAt s p).filter (fun y => y.owner == o && !y.granted)) with
  | some w => roundEnd s w (o == win)
  | none => s

/-- ARBITRATION_ROUND over the requests at a point: the winner's head is granted, the others' heads lose a round
(17 R424-R426, R428). -/
def netRound (s : State) (cls die inst : Nat) : State :=
  let present := presentAt s (cls, die, inst)
  if present.length < 2 then s
  else
    let (win, s) := s.round die cls inst present
    present.foldl (roundOf (cls, die, inst) win) s

/-! ### The replay filters (08 R214) -/

/-- The filter of a slice. -/
def filterOf (s : State) (die slice : Nat) : List (Nat × BitVec 64) := tget (s.die die).filters slice []

/-- The state with a filter replaced. -/
def setFilter (s : State) (die slice : Nat) (l : List (Nat × BitVec 64)) : State :=
  s.modDie die (fun d => { d with filters := if l.isEmpty then terase d.filters slice else tset d.filters slice l })

/-- Whether a point is a replay filter without a free entry. -/
def filterFull (s : State) (p : Point) : Bool :=
  p.1 == 6 && 200 ≤ p.2.2 && p.2.2 < 264 && (filterOf s p.2.1 (p.2.2 - 200)).length ≥ 64

/-- A request's name by its class, number and sequence (08 R214): class 0 is a core's, 1 a copy engine's, by cluster × 4 +
engine; 2 a reduction engine's, 3 a migration's and 4 a unit of a front end, by die; 5 a Sextant thread's, by die × 64 +
thread.  DESIGN CHOICE (log 11): the spec gives the fields and no numbers of the classes. -/
def identCls (cls num seq : Nat) : Nat := cls * 2 ^ 45 + num % 2 ^ 21 * 2 ^ 24 + seq % 2 ^ 24

/-- Whether the filters of the slices of lines have room for the identifiers of writes to them, as many as a filter holds
(08 R214). -/
def filtersTake (s : State) (l : List Nat) : Bool :=
  let at_ := fun (a : Nat) => (homeDie a, homeSlice a)
  let l := l.filter (fun a => spaceOf a == 0 || spaceOf a == 4)
  l.all (fun a => (filterOf s (homeDie a) (homeSlice a)).length + min 64 (l.filter (fun b => at_ b == at_ a)).length ≤ 64)

/-- A write of a unit at a slice, applied and answered: its identifier enters the filter until the acknowledgement; where a
write of many lines fills a filter, those past its 64 entries are acknowledged as they are made (08 R214; DEDUCED, log 121). -/
def enterFilter (s : State) (addr ident : Nat) : State :=
  if (spaceOf addr = 0 ∨ spaceOf addr = 4) ∧ (filterOf s (homeDie addr) (homeSlice addr)).length < 64 then
    (setFilter s (homeDie addr) (homeSlice addr) (filterOf s (homeDie addr) (homeSlice addr) ++ [(ident, 0)])).due (.replayAck ident)
  else s

/-- A unit's use of the die-cache lines of n bytes for an owner, from a die: looked up, and the sectors filled (06 R148;
17 R423, R430). -/
def unitLine (s : State) (owner die a n : Nat) (shared : Bool) : State :=
  if spaceOf a ≠ 0 ∧ spaceOf a ≠ 4 then s
  else (linesIn a n).foldl (fun s p =>
    sectorFill (dieLookup s p.1 owner) p.1 owner (placeKey s p.1 owner (s.partOf die) shared) (sectorsOf p.1 p.2)) s

/-! ### Claims -/

/-- What a request finds at its points: it has passed them all, or it waits. -/
inductive Passage where
  | thru (s : State)
  | wait (s : State)

/-- One move of a request along its points: it comes to the first one, and passes one at a time, as rounds and the replay
filter let it (17 R424, R428; 08 R214). -/
def claimStep (s : State) (who owner : Nat) (path : List Stop) : Passage :=
  match tfind s.claims who with
  | none => if path.isEmpty then .thru s else .wait { s with claims := tset s.claims who { owner := owner, path := path, came := s.now } }
  | some c =>
    match c.path with
    | [] => .thru { s with claims := terase s.claims who }
    | (p, row) :: r =>
      if filterFull s p || behind s p (c.waiting who) then .wait s
      else if !c.granted && rivalAt s c.owner p then .wait (s.dueOnce (.arbitrationRound p.2.1 p.1 p.2.2))
      else
        let s := setRow (s.leavePoint p.2.1 c.owner p.1 c.lost) p row
        if r.isEmpty then .thru { s with claims := terase s.claims who }
        else .wait { s with claims := tset s.claims who { owner := c.owner, path := r, came := s.now } }

/-- A request leaves the points where it waits. -/
def dropClaim (s : State) (who : Nat) : State := { s with claims := terase s.claims who }

end Sys2Proof.Machine
end

