-- ==== Sys2Proof/Machine/Translate.lean ====
section
/-!
DEFINITION. Translate: page tables, TLBs, the pending table, the fault buffer, the pager's commands and page migration
(09 R217-R238), and their event rows.
-/
namespace Sys2Proof.Machine

/-! ### Table entries (09 R219-R221) -/

/-- The index of a virtual address at a level (09 R219). -/
def vaIndex (va lvl : Nat) : Nat :=
  match lvl with
  | 1 => bits va 51 40
  | 2 => bits va 39 28
  | _ => bits va 27 16

/-- Whether n bytes at a physical address lie in the memory of a partition (09 R220, R221). -/
def paInPart (s : State) (p pa n : Nat) : Bool :=
  pa < 2 ^ 43 && s.dieIn (bits pa 42 38) p && bits pa 36 0 + n ≤ tierBytes (bits pa 37 37)

/-- Whether a valid entry is malformed at a level (09 R220). -/
def entMalformed (s : State) (p e lvl : Nat) : Bool :=
  let leaf := bitAt e 1
  bits e 63 52 != 0 || bits e 14 8 != 0 || (lvl == 1 && leaf) || (lvl == 3 && !leaf) ||
    (if leaf then
      if lvl == 2 then bits e 27 15 != 0 || !paInPart s p (bits e 51 28 * 2 ^ 28) (2 ^ 28)
      else bitAt e 15 || !paInPart s p (bits e 51 16 * 2 ^ 16) (2 ^ 16)
    else bits e 7 2 != 0 || !paInPart s p (bits e 51 15 * 2 ^ 15) (2 ^ 15))

/-- The physical address that a leaf gives a virtual address (09 R219). -/
def leafPa (big : Bool) (leaf va : Nat) : Nat :=
  if big then bits leaf 51 28 * 2 ^ 28 + bits va 27 0 else bits leaf 51 16 * 2 ^ 16 + bits va 15 0

/-- What an access needs of a leaf (09 R225). -/
structure Need where
  r : Bool := false
  w : Bool := false
  a : Bool := false
  fe : Bool := false

/-- Check of a leaf: none when the access may proceed (09 R225). -/
def leafCheck (leaf : Nat) (n : Need) : Option (Cause × Nat) :=
  if bitAt leaf 7 then some (.addrDenied, 9)
  else if (n.r && !bitAt leaf 2) || (n.w && !bitAt leaf 3) || (n.a && !bitAt leaf 4) then some (.addrDenied, 10)
  else if n.fe && !bitAt leaf 5 then some (.segRights, 4)
  else none

/-! ### TLBs (09 R223) -/

/-- Whether a TLB entry translates an owner's address. -/
def tlbHit (owner va : Nat) (e : TlbEnt) : Bool :=
  e.owner == owner && (if e.big then e.vpn == bits va 51 28 else e.vpn == bits va 51 16)

/-- The first-level lookup of a cluster port. -/
def firstLevel (s : State) (cluster owner va : Nat) : Option TlbEnt := (s.cluster cluster).tlb1.find? (tlbHit owner va)

/-- An entry put first in a first-level TLB of 256. -/
def fillFirst (s : State) (cluster : Nat) (e : TlbEnt) : State :=
  s.modCluster cluster (fun c => { c with tlb1 := (e :: c.tlb1.filter (fun x => x != e)).take 256 })

/-- The key of a leaf's placement: the partition's for a SHARED leaf (17 R420). -/
def leafKey (s : State) (die owner leaf : Nat) : Nat := if bitAt leaf 6 then 4096 + s.partOf die else owner

/-- The set of an entry in a die's second-level TLB (09 R223). -/
def tlb2Set (s : State) (die : Nat) (e : TlbEnt) : Nat :=
  placeSet (s.keySeed die (leafKey s die e.owner e.leaf.toNat)) 1 e.vpn 10

/-- The second-level lookup of a die. -/
def secondLevel (s : State) (die owner va : Nat) : Option TlbEnt :=
  ((s.die die).xlat.tlb2.map Prod.snd).flatten.find? (tlbHit owner va)

/-- An entry put first in its set of 16 ways. -/
def fillSecond (s : State) (die : Nat) (e : TlbEnt) : State :=
  let k := tlb2Set s die e
  s.modXlat die (fun x => { x with tlb2 := tset x.tlb2 k ((e :: (tget x.tlb2 k []).filter (fun y => y != e)).take 16) })

/-! ### Pending entries and the fault buffer (09 R225-R229) -/

/-- The pending entry of an owner's page. -/
def pendOf (s : State) (die owner vpn : Nat) : Option (Nat × PendEnt) :=
  (s.die die).xlat.pend.find? (fun p => p.2.owner == owner && p.2.vpn == vpn)

/-- The state with a pending entry replaced. -/
def setPend (s : State) (die e : Nat) (p : PendEnt) : State :=
  s.modXlat die (fun x => { x with pend := tset x.pend e p })

/-- A notice to the pager: notices merge while one is unserved (09 R231). -/
def notice (s : State) (die : Nat) : State :=
  if (s.die die).xlat.noticePending then s
  else (s.modXlat die (fun x => { x with noticePending := true })).due (.pagerNotice die)

/-- A fault that is not recorded: DROPPED and DROPS (09 R227, R229, R231). -/
def dropFault (s : State) (die : Nat) : State :=
  let was := (s.die die).xlat.droppedBit
  let s := s.modXlat die (fun x => { x with droppedBit := true, drops := min (x.drops + 1) 0xFFFF })
  if was then s else notice s die

/-- Fault (09 R227): the entry is FAULTED and offered to the buffer of 8. -/
def faultPend (s : State) (die e lvl : Nat) (p : PendEnt) : State :=
  let s := setPend s die e { p with st := .faulted, level := lvl, at_ := none }
  match (List.range 8).find? (fun n => (tfind (s.die die).xlat.fbent n).isNone) with
  | some n => notice (s.modXlat die (fun x => { x with fbent := tset x.fbent n e })) die
  | none => dropFault s die

/-- The outcome of a translation. -/
inductive Xres where
  | leaf (e : TlbEnt) (s : State)
  | park (p : Park) (s : State)
  | denied (reason : Nat)

/-- Who asks: number, class (0 thread, 1 copy engine, 2 reduction engine), FIRST of the fault buffer (09 R228); for a peer's
packet and the loader class 0 and FIRST 0, and for the COPY of a queue class 1 and FIRST 0 (DESIGN CHOICE, log 106: the rule
names none of the three). -/
structure Asker where
  num : Nat
  cls : Nat
  first : Nat
  cluster : Nat
  die : Nat
  owner : Nat

/-- Translate (09 R225): acc is the ACC code of 09 R228. -/
def translate (s : State) (q : Asker) (va acc : Nat) : Xres :=
  match firstLevel s q.cluster q.owner va with
  | some e => .leaf e (fillFirst s q.cluster e)
  | none =>
    match secondLevel s q.die q.owner va with
    | some e => .park (.page q.die 256) (fillFirst (fillSecond s q.die e) q.cluster e)
    | none =>
      match pendOf s q.die q.owner (bits va 51 16) with
      | some (n, p) =>
        match p.st with
        | .denied 11 => .denied 11
        | _ => .park (.page q.die n) (setPend s q.die n { p with waiters := p.waiters.filter (fun w => w.1 != q.num) ++ [(q.num, q.cluster)] })
      | none =>
        match (List.range 256).find? (fun n => (tfind (s.die q.die).xlat.pend n).isNone) with
        | none =>
          let s := s.modXlat q.die (fun x => { x with dropped := x.dropped.filter (fun w => w != q.num) ++ [q.num] })
          .park (.dropped q.die (s.die q.die).xlat.replays) (dropFault s q.die)
        | some n =>
          let p : PendEnt := { owner := q.owner, vpn := bits va 51 16, st := .walking, level := 0, acc := acc, cls := q.cls, first := q.first, waiters := [(q.num, q.cluster)] }
          .park (.page q.die n) ((setPend s q.die n p).due (.pageWalk q.die n))

/-- Translation for a unit that asks again while it waits: one that the full table has dropped stays so until a REPLAY_ALL, and
counts once (09 R227). -/
def translateUnit (s : State) (q : Asker) (va acc : Nat) : Xres :=
  if (s.die q.die).xlat.dropped.contains q.num then .park (.dropped q.die (s.die q.die).xlat.replays) s else translate s q va acc

/-- Whether a requester still waits on a pending entry (09 R225, R227). -/
def waitsOn (s : State) (die e num : Nat) : Bool :=
  match tfind (s.die die).xlat.pend e with
  | some p => p.waiters.any (fun w => w.1 == num) && p.st != .denied 11
  | none => false

/-! ### The walk (09 R224, R225) -/

/-- The bits of a virtual address that an entry of a level covers. -/
def vaAbove (va lvl : Nat) : Nat := va / 2 ^ (if lvl = 1 then 40 else 28)

/-- The walk-cache set of a table entry (09 R223). -/
def walkSet (s : State) (die owner pa : Nat) : Nat := placeSet (s.keySeed die owner) 2 (pa / 8) 4

/-- The walk cache's entry for a table pointer of an owner's address (09 R223): the one that a removal of the address finds, too
(09 R235). -/
def walkHit (s : State) (die owner va lvl pa : Nat) : Option WalkEnt :=
  (tget (s.die die).xlat.walkCache (walkSet s die owner pa) []).find? (fun w =>
    w.owner == owner && w.level == lvl && w.above == vaAbove va lvl && w.pa == pa && decide (lvl ≤ 2))

/-- An entry put first in its walk-cache set of 16 ways. -/
def walkFront (s : State) (die : Nat) (w : WalkEnt) : State :=
  let set := walkSet s die w.owner w.pa
  s.modXlat die (fun x => { x with walkCache := tset x.walkCache set ((w :: (tget x.walkCache set []).filter (fun v => v != w)).take 16) })

/-- A table entry as a walk reads it: through the walk cache for a table pointer, most recently used first, else at its home die
cache (09 R223, R225). -/
def walkRead (s : State) (die owner va lvl pa : Nat) : Nat × State :=
  match walkHit s die owner va lvl pa with
  | some w => (w.ent.toNat, walkFront s die w)
  | none =>
    let s := sectorFill (dieLookup s (aDev pa) owner) (aDev pa) owner owner (sectorsOf (aDev pa) 8)
    let e := s.rd (aDev pa) 8
    let keep : WalkEnt := { owner := owner, level := lvl, above := vaAbove va lvl, pa := pa, ent := BitVec.ofNat 64 e }
    (e, if bitAt e 0 && !bitAt e 1 && lvl ≤ 2 && !entMalformed s (s.partOf die) e lvl then walkFront s die keep else s)

/-- The result of a walk: a fault at a level, a malformed entry, or a leaf. -/
inductive Walked where
  | fault (lvl : Nat)
  | bad
  | leaf (big : Bool) (e : Nat)

/-- The cluster ports that have a waiter on an entry (09 R225). -/
def waiterClusters (p : PendEnt) : List Nat := (p.waiters.map Prod.snd).eraseDups

/-- The walker's outcome applied to the pending entry (09 R225). -/
def walkDone (s : State) (die e : Nat) (p : PendEnt) (r : Walked) : State :=
  match r with
  | .fault lvl => faultPend s die e lvl p
  | .bad => setPend s die e { p with st := .denied 11, at_ := none }
  | .leaf big leaf =>
    let t : TlbEnt := { owner := p.owner, big := big, vpn := if big then p.vpn / 4096 else p.vpn, leaf := BitVec.ofNat 64 leaf }
    let s := (waiterClusters p).foldl (fun s c => fillFirst s c t) (fillSecond s die t)
    s.modXlat die (fun x => { x with pend := terase x.pend e })

/-- The walks that wait at a walker (09 R224). -/
def walksAt (s : State) (die inst : Nat) : Tbl PendEnt :=
  (s.die die).xlat.pend.filter (fun q => q.1 % 16 == inst && q.2.st == .walking && q.2.at_.isNone)

/-- Owners of other walks that wait at the same walker (09 R224). -/
def walkRivals (s : State) (die e : Nat) (p : PendEnt) : List Nat :=
  ((walksAt s die (e % 16)).map (fun q => q.2.owner)).filter (fun o => o != p.owner)

/-- Whether a walker makes another walk. -/
def walkerBusy (s : State) (die e : Nat) : Bool :=
  (s.die die).xlat.pend.any (fun q => q.1 % 16 == e % 16 && q.1 != e && q.2.st == .walking && q.2.at_.isSome)

/-- The number under which a walk's reads wait at their points. -/
def walkWho (die e : Nat) : Nat := 2 ^ 98 + die * 256 + e

/-- An entry that a walk has read at a level: the walk ends, or goes on in the table that it names (09 R225). -/
def walkTake (s : State) (die e : Nat) (p : PendEnt) (lvl ent : Nat) : State :=
  if !bitAt ent 0 then walkDone s die e p (.fault lvl)
  else if entMalformed s (s.partOf die) ent lvl then walkDone s die e p .bad
  else if bitAt ent 1 then walkDone s die e p (.leaf (lvl == 2) ent)
  else (setPend s die e { p with at_ := some (lvl + 1, bits ent 51 15 * 2 ^ 15) }).due (.pageWalk die e)

/-- One level of a walk: the walk cache's entry, or the read of the entry at the slice of its home die once it has passed the
points on its way (09 R225; 17 R422, R428). -/
def walkLevel (s : State) (die e : Nat) (p : PendEnt) (lvl table : Nat) : State :=
  let va := p.vpn * 65536
  let pa := table + 8 * vaIndex va lvl
  if table = 0 ∧ lvl = 1 then walkDone s die e p (.fault 1)
  else if (walkHit s die p.owner va lvl pa).isSome then
    let (ent, s) := walkRead s die p.owner va lvl pa
    walkTake s die e p lvl ent
  else match claimStep s (walkWho die e) p.owner (unitRead s (unitPlace die) (aDev pa) 8) with
    | .wait s => s.due (.pageWalk die e)
    | .thru s =>
      let (ent, s) := walkRead s die p.owner va lvl pa
      walkTake s die e p lvl ent

/-- PAGE_WALK: a walker makes the walk of a pending entry, once its owner is served, level by level (09 R224, R225). -/
def doPageWalk (s : State) (die e : Nat) : State :=
  match tfind (s.die die).xlat.pend e with
  | none => s
  | some p =>
    if p.st != .walking then s
    else match p.at_ with
    | some (lvl, table) => walkLevel s die e p lvl table
    | none =>
      if walkerBusy s die e then s.due (.pageWalk die e)
      else if !p.granted && !(walkRivals s die e p).isEmpty then
        (s.dueOnce (.arbitrationRound die 3 (e % 16))).due (.pageWalk die e)
      else
        let t := (s.ownerEnt die p.owner).troot
        let p := { p with at_ := some (1, t) }
        walkLevel ((setPend s die e p).leavePoint die p.owner 3 p.lost) die e p 1 t

/-- PAGE_WALK (09 R225). -/
def execPageWalk (s : State) : Outc :=
  match s.ev with
  | some (.pageWalk die e) => evDo (.pageWalk die e) (doPageWalk s die e)
  | _ => .fault .noSuchUnit

/-! ### The pager (09 R231-R236) -/

/-- Whether the pager of a die is the host (09 R230). -/
def hostPager (s : State) (die : Nat) : Bool := bitAt (s.die die).xlat.pgcfg.toNat 0

/-- A command written to FBCMD: performed after those written before it (09 R232). -/
def issueCmd (s : State) (die : Nat) (e : Event) : State :=
  let q := (s.die die).xlat.cmdQ
  let s := s.modXlat die (fun x => { x with cmdQ := q ++ [e] })
  if q.isEmpty then s.due e else s

/-- Recorded faults, in entry order: entry and pending entry. -/
def recorded (s : State) (die : Nat) : List (Nat × PendEnt) :=
  (s.die die).xlat.fbent.filterMap (fun p => (tfind (s.die die).xlat.pend p.2).map (fun e => (p.1, e)))

/-- The entry of a page in a table of a level. -/
def entryAt (s : State) (vpn table lvl : Nat) : Nat := s.rd (aDev (table + 8 * vaIndex (vpn * 65536) lvl)) 8

/-- The table that a page's entry in a table of a level points to: the entry is valid and well formed and no leaf (09 R220). -/
def tableBelow (s : State) (die vpn table lvl : Nat) : Option Nat :=
  let e := entryAt s vpn table lvl
  if bitAt e 0 && !bitAt e 1 && !entMalformed s (s.partOf die) e lvl then some (bits e 51 15 * 2 ^ 15) else none

/-- The place of a page's level-3 entry, where both upper levels have valid, well-formed table pointers. -/
def leafPlace (s : State) (die owner vpn : Nat) : Option Nat :=
  let t1 := (s.ownerEnt die owner).troot
  if t1 = 0 then none else
    match tableBelow s die vpn t1 1 with
    | none => none
    | some t2 => (tableBelow s die vpn t2 2).map (fun t3 => t3 + 8 * vaIndex (vpn * 65536) 3)

/-- Whether a page is mapped: by a valid, well-formed leaf of either size. -/
def mapped (s : State) (die owner vpn : Nat) : Bool :=
  let t1 := (s.ownerEnt die owner).troot
  let leaf := fun (t lvl : Nat) => let e := entryAt s vpn t lvl; bitAt e 0 && bitAt e 1 && !entMalformed s (s.partOf die) e lvl
  t1 != 0 && (match tableBelow s die vpn t1 1 with
    | none => false
    | some t2 => leaf t2 2 || (match tableBelow s die vpn t2 2 with | none => false | some t3 => leaf t3 3))

/-- What the pager writes as. -/
def pagerWriter : Writer := { cls := 0, owner := 0, ident := 0, tag := 0, core := 409600 }

/-- A table entry as the pager's walk of an owner's page needs it: where it is no valid, well-formed table pointer, a free table
of the partition is cleared and entered; none where the configuration gives no such table (09 R220, R231). -/
def pagerStep (s : State) (die owner vpn table lvl : Nat) : Option (Nat × State) :=
  match tableBelow s die vpn table lvl with
  | some t => some (t, s)
  | none =>
    let t := bits (Config.pagerTable die owner vpn lvl) 51 15 * 2 ^ 15
    if !paInPart s (s.partOf die) t (2 ^ 15) then none
    else
      let s := (List.range 128).foldl (fun s k => s.perfWrite pagerWriter (aDev (t + 256 * k)) 0 256) s
      some (t, s.perfWrite pagerWriter (aDev (table + 8 * vaIndex (vpn * 65536) lvl)) (t + 1) 8)

/-- The tables above a page's leaf as the pager finds or enters them: the place of the level-3 entry. -/
def pagerTables (s : State) (die owner vpn : Nat) : Option (Nat × State) :=
  match pagerStep s die owner vpn (s.ownerEnt die owner).troot 1 with
  | none => none
  | some (t2, s) => (pagerStep s die owner vpn t2 2).map (fun q => (q.1 + 8 * vaIndex (vpn * 65536) 3, q.2))

/-- The leaf for a page of an owner with its frame in the memory channel group of structure 3: the package that the frame
lies in (17 R420; 20 R480). -/
def groupLeaf (s : State) (die owner vpn leaf : Nat) : Nat :=
  let seed := s.keySeed die (if bitAt leaf 6 then 4096 + s.partOf die else owner)
  if bitAt leaf 37 then setBits leaf 16 16 (placeSet seed 3 vpn 1) else setBits leaf 18 16 (placeSet seed 3 vpn 3)

/-- Whether a frame lies in a tag region (09 R222). -/
def inTagRegion (frame : Nat) : Bool :=
  (List.range 32).any (fun d => (List.range 2).any (fun tier =>
    tagBase d tier < frame + 65536 && frame < tagBase d tier + tierBytes tier / 64))

/-- The leaf that the pager writes for a page: what owner 0's configuration gives, never TAGGED in a tag region (09 R222), none
where nothing that it may map is given (09 R231). -/
def pagerChoice (s : State) (die owner vpn : Nat) : Option Nat :=
  match Config.pagerLeaf die owner vpn with
  | none => none
  | some l =>
    let e := groupLeaf s die owner vpn l.toNat
    let e := if inTagRegion (bits e 51 16 * 65536) then setBits e 5 5 0 else e
    if bitAt e 0 ∧ bitAt e 1 ∧ !entMalformed s (s.partOf die) e 3 ∧ (s.ownerEnt die owner).troot ≠ 0 then some e else none

/-- A frame filled from the backing of its page, and its tag bytes where it is mapped TAGGED (09 R222, R231). -/
def pagerFill (s : State) (die owner vpn leaf : Nat) : State :=
  let frame := bits leaf 51 16 * 65536
  let v := fun (f : Nat → BitVec 8) (o n : Nat) => (List.range n).foldr (fun k v => (f (o + k)).toNat + 256 * v) 0
  let s := (List.range 256).foldl (fun s k => s.perfWrite pagerWriter (aDev (frame + 256 * k)) (v (Config.pagerByte die owner vpn) (256 * k) 256) 256) s
  if bitAt leaf 5 then
    (List.range 4).foldl (fun s k =>
      s.perfWrite pagerWriter (aDev ((tagPlace frame).1 + 256 * k)) (v (Config.pagerTags die owner vpn) (256 * k) 256) 256) s
  else s

/-- The pager service of Sextant on a recorded fault (09 R231): it fills and maps the page that owner 0's configuration gives, in
the group of its owner, with the tables above it, or denies it where nothing to map is given; a page that is mapped by then
is left as it is. -/
def pagerServe (s : State) (die : Nat) (n : Nat) (p : PendEnt) : State :=
  if mapped s die p.owner p.vpn then issueCmd s die (.fbcmdMapped die n)
  else match pagerChoice s die p.owner p.vpn with
  | none => issueCmd s die (.fbcmdDeny die n)
  | some leaf =>
    match pagerTables s die p.owner p.vpn with
    | none => issueCmd s die (.fbcmdDeny die n)
    | some (at_, s) => issueCmd ((pagerFill s die p.owner p.vpn leaf).perfWrite pagerWriter (aDev at_) leaf 8) die (.fbcmdMapped die n)

/-- The function by which a partition's vectors are sent: its lowest enabled virtual function, or the physical function
(log 27). -/
def fnOf (s : State) (p : Nat) : Nat :=
  ((List.range 32).find? (fun v => bitAt (tget s.vfcfg v 0).toNat 63 && bits (tget s.vfcfg v 0).toNat 36 32 == p)).getD 32

/-- PAGER_NOTICE: the Sextant service serves the recorded faults and then issues REPLAY_ALL, or the host is sent the
vector (09 R231). -/
def doPagerNotice (s : State) (die : Nat) : State :=
  if !(s.die die).xlat.noticePending then s else
    let s := (s.modXlat die (fun x => { x with noticePending := false })).dieEv die 6 0
    if hostPager s die then s.out (.msix (fnOf s (s.partOf die)) (bits (s.die die).xlat.pgcfg.toNat 26 16))
    else
      let s := (recorded s die).foldl (fun s q => pagerServe s die q.1 q.2) s
      issueCmd (s.modXlat die (fun x => { x with droppedBit := false })) die (.fbcmdReplayAll die)

/-- PAGER_NOTICE (09 R231). -/
def execPagerNotice (s : State) : Outc :=
  match s.ev with
  | some (.pagerNotice die) => evDo (.pagerNotice die) (doPagerNotice s die)
  | _ => .fault .noSuchUnit

/-- A command has acted: the next one that was written may (09 R232). -/
def cmdNext (s : State) (die : Nat) (e : Event) : State :=
  match (s.die die).xlat.cmdQ with
  | [] => s
  | h :: r =>
    if h = e then
      let s := s.modXlat die (fun x => { x with cmdQ := r })
      match r with | [] => s | n :: _ => s.due n
    else s

/-- A command with no effect sets CMDERR (09 R232). -/
def cmdErr (s : State) (die : Nat) : State := s.modXlat die (fun x => { x with cmderr := true })

/-- MAPPED and DENY (09 R232): the pending entry takes a state and the buffer entry is freed. -/
def resolve (s : State) (die n : Nat) (st : PendSt) : State :=
  match tfind (s.die die).xlat.fbent n with
  | none => cmdErr s die
  | some e =>
    let s := s.modXlat die (fun x => { x with fbent := terase x.fbent n })
    match tfind (s.die die).xlat.pend e with
    | some p => setPend s die e { p with st := st }
    | none => s

/-- FBCMD_MAPPED (09 R232). -/
def execFbcmdMapped (s : State) : Outc :=
  match s.ev with
  | some (.fbcmdMapped die n) => evDo (.fbcmdMapped die n) (cmdNext (resolve s die n .resolved) die (.fbcmdMapped die n))
  | _ => .fault .noSuchUnit

/-- FBCMD_DENY (09 R232). -/
def execFbcmdDeny (s : State) : Outc :=
  match s.ev with
  | some (.fbcmdDeny die n) => evDo (.fbcmdDeny die n) (cmdNext (resolve s die n (.denied 9)) die (.fbcmdDeny die n))
  | _ => .fault .noSuchUnit

/-- Whether a requester waits on an entry that a replay finds denied: its page (09 R233). -/
def deniedWaiter (denied : List (Nat × PendEnt)) (e num : Nat) : Option Nat :=
  (denied.find? (fun p => p.1 == e && p.2.waiters.any (fun w => w.1 == num))).map (fun p => p.2.vpn)

/-- A thread parked on a page whose entry is denied finds the denial at its reissue (09 R233). -/
def denyThread (die : Nat) (denied : List (Nat × PendEnt)) (slot : Nat) (t : Thread) : Thread :=
  match t.park with
  | some (.page d e) =>
    (match (if d = die then deniedWaiter denied e slot else none) with
     | some v => { t with prog := .denied 9 v }
     | none => t)
  | _ => t

/-- A transfer that waits for such a page (09 R237). -/
def denyTransfer (die : Nat) (denied : List (Nat × PendEnt)) (id : Nat) (t : Transfer) : Transfer :=
  match t.fault with
  | some (d, e) => if d = die ∧ (deniedWaiter denied e (2 ^ 32 + id)).isSome then { t with deny := 9, fault := none } else t
  | none => t

/-- The number by which a queue packet waits for a translation: its partition and packet. -/
def packetWaiter (part k : Nat) : Nat := 2 ^ 80 + part * 2 ^ 40 + k

/-- A queue's copy that waits for such a page (09 R233, 19 R462). -/
def denyPacket (die : Nat) (denied : List (Nat × PendEnt)) (num : Nat) (k : Packet) : Packet :=
  match k.fault with
  | some (d, e) => if d = die ∧ (deniedWaiter denied e num).isSome then { k with deny := 9, fault := none } else k
  | none => k

/-- REPLAY_ALL (09 R233). -/
def replayAll (s : State) (die : Nat) : State :=
  let x := (s.die die).xlat
  let denied := x.pend.filter (fun (p : Nat × PendEnt) => p.2.st == .denied 9)
  let s := { s with
    threads := s.threads.map (fun (p : Nat × Thread) => (p.1, denyThread die denied p.1 p.2)),
    transfers := s.transfers.map (fun (p : Nat × Transfer) => (p.1, denyTransfer die denied p.1 p.2)),
    parts := s.parts.map (fun (p : Nat × Part) =>
      (p.1, { p.2 with packets := p.2.packets.map (fun (k : Nat × Packet) => (k.1, denyPacket die denied (packetWaiter p.1 k.1) k.2)) })) }
  let packs := denied.flatMap (fun p => (p.2.waiters.map Prod.fst).filter (fun w => 2 ^ 64 ≤ w))
  s.modXlat die (fun x => { x with pend := x.pend.filter (fun (p : Nat × PendEnt) => p.2.st == .walking), fbent := [], dropped := [],
                                   packDenied := x.packDenied ++ packs, replays := (x.replays + 1) % 256 })

/-- FBCMD_REPLAY_ALL (09 R233). -/
def execFbcmdReplayAll (s : State) : Outc :=
  match s.ev with
  | some (.fbcmdReplayAll die) => evDo (.fbcmdReplayAll die) (cmdNext (replayAll s die) die (.fbcmdReplayAll die))
  | _ => .fault .noSuchUnit

/-- Whether pages [first, first + count) of an owner, or all for a count of 0, touch a TLB entry (09 R235). -/
def invalHits (owner first count : Nat) (e : TlbEnt) : Bool :=
  e.owner == owner && (count == 0 ||
    (if e.big then e.vpn * 4096 < first + count && first < (e.vpn + 1) * 4096 else first ≤ e.vpn && e.vpn < first + count))

/-- Whether such a range touches a walk-cache entry (09 R235). -/
def invalWalk (owner first count : Nat) (w : WalkEnt) : Bool :=
  let span := if w.level = 1 then 2 ^ 24 else 2 ^ 12
  w.owner == owner && (count == 0 || (w.above * span < first + count && first < (w.above + 1) * span))

/-- Remove an owner's translations of a range from every TLB and walk cache of a partition (09 R232, R235). -/
def dropXlat (s : State) (part owner first count : Nat) : State :=
  let keep := fun (l : List TlbEnt) => l.filter (fun e => !invalHits owner first count e)
  let s := { s with clusters := s.clusters.map (fun (p : Nat × Cluster) =>
    if s.dieIn (p.1 / 200) part then (p.1, { p.2 with tlb1 := keep p.2.tlb1 }) else p) }
  (s.diesOf part).foldl (fun s d => s.modXlat d (fun x => { x with
    tlb2 := tmap x.tlb2 keep,
    walkCache := tmap x.walkCache (fun l => l.filter (fun w => !invalWalk owner first count w)) })) s

/-- The 256 MiB pages of an owner that a range removes whole from the TLBs of a partition (09 R235). -/
def bigHits (s : State) (part owner first count : Nat) : List Nat :=
  let of_ := fun (l : List TlbEnt) => (l.filter (fun e => e.big && invalHits owner first count e)).map (fun e => e.vpn)
  (((s.clusters.filter (fun p => s.dieIn (p.1 / 200) part)).flatMap (fun p => of_ p.2.tlb1)) ++
    (s.diesOf part).flatMap (fun d => of_ ((s.die d).xlat.tlb2.map Prod.snd).flatten)).eraseDups

/-- The accesses in flight that were translated through a range, or through a 256 MiB page that it removes whole
(09 R235). -/
def accessesOf (s : State) (part owner first count : Nat) : List Nat :=
  let big := bigHits s part owner first count
  (s.net.filter (fun p => !p.2.done && p.2.owner == owner && s.dieIn p.2.agent.die part && (match p.2.vpn with
    | some v => count == 0 || (first ≤ v && v < first + count) || big.contains (v / 4096)
    | none => false))).map Prod.fst

/-- FBCMD_INVAL: the entries are removed and BUSY stands until the accesses are performed (09 R235). -/
def doInval (s : State) (die owner : Nat) : State :=
  let x := (s.die die).xlat
  if x.busy then cmdErr s die
  else
    let part := s.partOf die
    let first := bits x.invva.toNat 51 16
    let count := bits x.invva.toNat 15 0
    let waits := accessesOf s part owner first count
    let s := dropXlat s part owner first count
    (s.modXlat die (fun y => { y with busy := true, invWaits := waits })).due (.invalComplete die)

/-- FBCMD_INVAL (09 R235). -/
def execFbcmdInval (s : State) : Outc :=
  match s.ev with
  | some (.fbcmdInval die owner) =>
    evDo (.fbcmdInval die owner) (cmdNext (doInval s die owner) die (.fbcmdInval die owner))
  | _ => .fault .noSuchUnit

/-- Whether an access is still to be performed. -/
def stillOut (s : State) (id : Nat) : Bool := match tfind s.net id with | some a => !a.done | none => false

/-- INVAL_COMPLETE: BUSY clears once the accesses have been performed (09 R235). -/
def doInvalComplete (s : State) (die : Nat) : State :=
  let x := (s.die die).xlat
  if !x.busy ∨ bits x.migstat.toNat 3 0 = 1 then s
  else if x.invWaits.any (stillOut s) then s.due (.invalComplete die)
  else s.modXlat die (fun y => { y with busy := false, invWaits := [] })

/-- INVAL_COMPLETE (09 R235). -/
def execInvalComplete (s : State) : Outc :=
  match s.ev with
  | some (.invalComplete die) => evDo (.invalComplete die) (doInvalComplete s die)
  | _ => .fault .noSuchUnit

/-! ### Migration (09 R238, 08 R213) -/

/-- The page that a die's migration names: owner, page number and new frame. -/
def migPage (x : Xlat) : Nat × Nat × Nat := (bits x.migva.toNat 11 0, bits x.migva.toNat 51 16, bits x.migpa.toNat 51 16 * 65536)

/-- The valid 64 KiB leaf of a page: place of the entry and leaf. -/
def smallLeaf (s : State) (die owner vpn : Nat) : Option (Nat × Nat) :=
  match leafPlace s die owner vpn with
  | none => none
  | some pa =>
    let e := s.rd (aDev pa) 8
    if bitAt e 0 ∧ bitAt e 1 ∧ !entMalformed s (s.partOf die) e 3 then some (pa, e) else none

/-- The wait list that serves a word (06 R151): by space and unit. -/
def waitPlace (a : Nat) : Nat × Nat :=
  match spaceOf a with
  | 1 => (dieOf (offOf a / 65536), 2 ^ 20 * (offOf a / 65536 + 1) + bits (offOf a) 15 12)
  | 2 => (offOf a / 2 ^ 20 / 200, 2 ^ 40 + offOf a / 16384)
  | 3 => (bits (offOf a) 29 25, 2 ^ 60 + offOf a / 256 % 64)
  | _ => (homeDie a, homeSlice a)

/-- The accesses on a wait list. -/
def waitList (s : State) (a : Nat) : List Nat := tget (s.die (waitPlace a).1).waitLists (waitPlace a).2 []

/-- The state with a wait list replaced. -/
def setWaitList (s : State) (a : Nat) (l : List Nat) : State :=
  s.modDie (waitPlace a).1 (fun d => { d with waitLists := tset d.waitLists (waitPlace a).2 l })

/-- The accesses that wait on words of a frame, by the slice of their list and in its order (06 R151, 09 R238). -/
def frameWaiters (s : State) (frame : Nat) : List Nat :=
  (List.range 64).flatMap (fun j => (tget (s.die (homeDie frame)).waitLists j []).filter (fun id =>
    match tfind s.net id with | some x => spaceOf x.addr == 0 && x.addr / 65536 == frame / 65536 | none => false))

/-- Whether the waiters of an old frame's words have room at the new home slices, whose lists they leave where they stand on
them already (09 R238). -/
def waitersFit (s : State) (old new : Nat) : Bool :=
  let moved := frameWaiters s old
  moved.all (fun id => match tfind s.net id with
    | some a =>
      let a' := aDev (new + a.addr % 65536)
      ((waitList s a').filter (fun k => !moved.contains k)).length + (moved.filter (fun k => match tfind s.net k with
        | some b => waitPlace (aDev (new + b.addr % 65536)) == waitPlace a'
        | none => false)).length ≤ 64
    | none => true)

/-- The code with which a migration is refused (09 R238), 0 when it starts. -/
def migRefusal (s : State) (die : Nat) : Nat :=
  let x := (s.die die).xlat
  let (o, vpn, new) := migPage x
  match smallLeaf s die o vpn with
  | none => 2
  | some (_, leaf) =>
    if bits x.migpa.toNat 63 52 ≠ 0 ∨ bits x.migpa.toNat 15 0 ≠ 0 ∨ !paInPart s (s.partOf die) new 65536 ∨ inTagRegion new then 3
    else if (s.diesOf (s.partOf die)).any (fun d => d != die && (match (s.die d).xlat.mig with | some m => m.owner == o && m.vpn == vpn | none => false)) then 4
    else if bitAt leaf 5 && !waitersFit s (leafPa false leaf 0) new then 5
    else 0

/-- FBCMD_MIGRATE: starts, with the page and frames as they then stand, or is refused in MIGSTAT (09 R238). -/
def doMigrate (s : State) (die : Nat) : State :=
  let x := (s.die die).xlat
  if x.busy then cmdErr s die
  else
    match migRefusal s die with
    | 0 =>
      let (o, vpn, new) := migPage x
      let old := match smallLeaf s die o vpn with | some (_, leaf) => leafPa false leaf 0 | none => 0
      (s.modXlat die (fun y => { y with migstat := 1, busy := true, mig := some { owner := o, vpn := vpn, old := old, new := new } })).due (.migrationComplete die)
    | c => s.modXlat die (fun y => { y with migstat := BitVec.ofNat 64 c })

/-- FBCMD_MIGRATE (09 R238). -/
def execFbcmdMigrate (s : State) : Outc :=
  match s.ev with
  | some (.fbcmdMigrate die) => evDo (.fbcmdMigrate die) (cmdNext (doMigrate s die) die (.fbcmdMigrate die))
  | _ => .fault .noSuchUnit

/-- Word addresses from one place on moved to another, for marks: those of n bytes. -/
def moveMarks (l : List Nat) (old new n : Nat) : List Nat :=
  let src := l.filter (fun a => old ≤ a && a < old + n)
  src.foldl (fun l a => setAdd l (a - old + new)) (l.filter (fun a => !(new ≤ a && a < new + n)))

/-- The waiters of an old frame's words moved to the new home slices' lists, in the order of theirs (09 R238). -/
def moveWaiters (s : State) (old new : Nat) : State :=
  (frameWaiters s old).foldl (fun s id => match tfind s.net id with
    | some x =>
      let a' := aDev (new + x.addr % 65536)
      let s := setWaitList s x.addr ((waitList s x.addr).filter (fun k => k != id))
      let s := setWaitList s a' (waitList s a' ++ [id])
      { s with net := tset s.net id { x with addr := a' } }
    | none => s) s

/-- The waits of rwait on a frame go on at the new one. -/
def moveRings (s : State) (old new : Nat) : State :=
  { s with threads := tmap s.threads (fun t => match t.park with
      | some (.rwait p a b) => if spaceOf p = 0 ∧ p / 65536 = old / 65536 then { t with park := some (.rwait (new + p % 65536) a b) } else t
      | _ => t) }

/-- The copy engine of a die that serves a migration: of the first cluster with room in a queue (09 R238 names none: DESIGN
CHOICE, log 49). -/
def migEngine (s : State) (die : Nat) : Option (Nat × Nat) :=
  (List.range' (die * 200) 200).findSome? (fun c => (freeEngine (s.cluster c)).map (fun g => (c, g)))

/-- The writer record of a migration (08 R216). -/
def migWriter : Writer := { cls := 3, owner := 0, ident := 0, tag := 0, core := 409600 }

/-- The bytes of a migration that a cell of a frame takes. -/
def migLine (s : State) (m : Migration) (key i : Nat) : State :=
  let a := m.old + 256 * i
  let b := m.new + 256 * i
  let v := s.rd a 256
  let poison := moveMarks s.poison a b 256
  let bad := moveMarks s.eccBad a b 256
  let s := match lineOf s a with | some l => lineDrop s (homeDie a) l | none => s
  let s := sectorFill s b m.owner key wholeLine
  { s.perfWrite migWriter b v 256 with poison := poison, eccBad := bad }

/-- The end of a migration, with its result in MIGSTAT. -/
def migEnd (s : State) (die code : Nat) : State :=
  let s := match ((s.die die).xlat.mig.bind (fun m => m.engine)) with | some (c, g, k) => dropClaim (s.leaveQueue c g k) k | none => s
  s.modXlat die (fun y => { y with migstat := BitVec.ofNat 64 code, busy := false, mig := none })

/-- The points of a migration: for each line its read at the old slice and its write at the new one (17 R422). -/
def migPoints (s : State) (src : Nat) (m : Migration) : List Stop :=
  (List.range 256).flatMap (fun i => unitRead s src (m.old + 256 * i) 256 ++ unitWrite s src (m.new + 256 * i) 256)

/-- The lines of the tags of a migration's new frame (09 R222). -/
def tagLines (m : Migration) : List Nat := (List.range 4).map (fun i => (tagPlace m.new).1 + 256 * i)

/-- The lines that a migration writes: the new frame's, those of its tags and that of the leaf. -/
def migWrites (s : State) (die : Nat) (m : Migration) : List Nat :=
  (List.range 256).map (fun i => m.new + 256 * i) ++
    (match smallLeaf s die m.owner m.vpn with
     | some (pa, leaf) => aDev pa :: (if bitAt leaf 5 then tagLines m else [])
     | none => [])

/-- The data and tags of a page are copied, the leaf rewritten, the translations removed and reservations on the page lost
(09 R238, 08 R213, 06 R156); a leaf that is by then no valid 64 KiB leaf ends the migration with code 2, which the rule gives
for the start alone (DESIGN CHOICE, log 107). -/
def migMove (s : State) (die : Nat) (m : Migration) (seq : Nat) : State :=
  match smallLeaf s die m.owner m.vpn with
  | none => migEnd s die 2
  | some (pa, leaf) =>
    let s := loseResv (loseResv s m.old 65536 migWriter) m.new 65536 migWriter
    let key := leafKey s (homeDie m.new) m.owner leaf
    let s := (List.range 256).foldl (fun s i => enterFilter (migLine s m key i) (m.new + 256 * i) (identCls 3 die (seq * 256 + i))) s
    let s := if bitAt leaf 5 then
        let s := s.perfWrite migWriter (tagPlace m.new).1 (s.rd (tagPlace m.old).1 1024) 1024
        let s := (tagLines m).zipIdx.foldl (fun s q => enterFilter s q.1 (identCls 3 die (seq * 256 + 257 + q.2))) s
        moveWaiters s m.old m.new
      else s
    let s := enterFilter (s.perfWrite migWriter (aDev pa) (leaf - bits leaf 51 16 * 2 ^ 16 + m.new) 8) (aDev pa) (identCls 3 die (seq * 256 + 256))
    migEnd (dropXlat (moveRings s m.old m.new) (s.partOf die) m.owner m.vpn 1) die 0

/-- MIGRATION_COMPLETE: a copy engine's queue takes the migration, the accesses to the page are performed, its lines pass their
points, and the page moves (09 R238, 08 R213; 17 R422). -/
def doMigration (s : State) (die : Nat) : State :=
  match (s.die die).xlat.mig with
  | none => s
  | some m =>
    match m.engine with
    | none =>
      match migEngine s die with
      | none => s.due (.migrationComplete die)
      | some (c, g) =>
        let k := s.nextId
        let s := s.fresh.modCluster c (fun r => { r with engines := tset r.engines g (r.queue g ++ [k]) })
        (s.modXlat die (fun y => { y with mig := some { m with engine := some (c, g, k) } })).due (.migrationComplete die)
    | some (c, g, k) =>
      let busy := fun (p : Nat × Access) => !p.2.done && !p.2.listed && spaceOf p.2.addr == 0 && p.2.addr / 65536 == m.old / 65536
      if !s.active c g k || s.net.any busy || !filtersTake s (migWrites s die m) then s.due (.migrationComplete die)
      else match claimStep s k m.owner (migPoints s c m) with
      | .wait s => s.due (.migrationComplete die)
      | .thru s => migMove s die m k

/-- MIGRATION_COMPLETE (09 R238). -/
def execMigrationComplete (s : State) : Outc :=
  match s.ev with
  | some (.migrationComplete die) => evDo (.migrationComplete die) (doMigration s die)
  | _ => .fault .noSuchUnit

end Sys2Proof.Machine
end

