-- ==== Sys2Proof/Machine/RegSpace.lean ====
section
/-!
DEFINITION. RegSpace: the registers of the module as Sextant and the host reach them: the register space (19 R471), the
BAR0 map (20 R476), the event ring (19 R472), the owner table's image (17 R416, R417), the partition control blocks
(18 R443, R444, R455) and the request of a partition reset (18 R449).
-/
namespace Sys2Proof.Machine

/-! ### The event ring (19 R472) -/

/-- The state with the SRC flag of every running hardware thread of a die set (19 R468). -/
def flagAll (s : State) (die src : Nat) : State :=
  s.modDie die (fun d => { d with sx := tmap d.sx (fun x => { x with flags := tset x.flags src true }) })

/-- Write an event record, or set OVF when the ring is full (19 R468, R472). -/
def evRecord (s : State) (die : Nat) (d0 d1 d2 d3 : BitVec 64) : State :=
  let p := (s.die die).plat
  if p.evW + 1 = p.evR then s.modPlat die (fun p => { p with evOvf := true })
  else
    let at_ := aSram die (0xFE000 + 32 * p.evW.toNat)
    let s := s.wr at_ (d0.toNat + d1.toNat * 2 ^ 64 + d2.toNat * 2 ^ 128 + d3.toNat * 2 ^ 192) 32
    flagAll (s.modPlat die (fun p => { p with evW := p.evW + 1 })) die 2

/-- EVENT_RECORD (19 R472). -/
def execEventRecord (s : State) : Outc :=
  match s.ev with
  | some (.eventRecord die d0 d1 d2 d3) => evDo (.eventRecord die d0 d1 d2 d3) (evRecord s die d0 d1 d2 d3)
  | _ => .fault .noSuchUnit

/-! ### Owner table (17 R416, R417) -/

/-- The image of an owner-table entry; SEED reads 0. -/
def ownerImage (e : OwnerEnt) : Nat :=
  e.v.toNat + bits e.troot 51 15 * 2 ^ 15 + bits e.part 4 0 * 2 ^ 64 + bits e.xclass 3 0 * 2 ^ 76 +
    ((List.range 8).foldl (fun n c => n + bits (tget e.shares c 0) 10 0 * 2 ^ (11 * c)) 0) * 2 ^ 80 +
    bits e.floor 4 0 * 2 ^ 170 + e.sweep.toNat * 2 ^ 175 + e.gen.toNat * 2 ^ 176

/-- An entry with its RW fields taken from an image. -/
def ownerOfImage (e : OwnerEnt) (n : Nat) : OwnerEnt :=
  { e with
    v := bitAt n 0
    troot := bits n 51 15 * 2 ^ 15
    part := bits n 68 64
    xclass := bits n 79 76
    shares := (List.range 8).filterMap (fun c =>
      let x := bits n (90 + 11 * c) (80 + 11 * c)
      if x = 0 then none else some (c, x))
    floor := bits n 174 170 }

/-- The sum of FLOOR over the V = 1 owners of a die. -/
def State.floorSum (s : State) (die : Nat) : Nat := (ownersBelow s die 4096).foldl (fun n p => n + p.2.floor) 0

/-- Whether a die's table breaks 17 R417. -/
def ownersBad (s : State) (die : Nat) : Bool :=
  (List.range 8).any (fun c => s.shareSum die c > 1024) || s.floorSum die > 16

/-- Reserved bits of a dword of an owner-table entry (17 R416). -/
def ownerRsv (dw : Nat) : Nat :=
  match dw with
  | 0 => (2 ^ 12 - 1) * 2 ^ 52 + (2 ^ 14 - 1) * 2
  | 1 => (2 ^ 7 - 1) * 2 ^ 5
  | 2 => 3 * 2 ^ 40
  | _ => 0

/-- A write of one dword of an entry, refused by the conditions of 17 R417. -/
def ownerWrite (s : State) (die o dw v : Nat) : Option State :=
  if dw = 3 then some (s.modOwner die o (fun e => { e with seed := BitVec.ofNat 64 v }))
  else
    let t := s.modOwner die o (fun e => ownerOfImage e (setBits (ownerImage e) (64 * dw + 63) (64 * dw) v))
    if ownersBad t die then none else some t

/-! ### Partition reset requests (18 R449) -/

/-- A request to reset a partition: started, absorbed, or ignored (18 R449).  resetStep 0 is no reset in progress. -/
def requestReset (s : State) (p cause : Nat) (zero rel : Bool) : State :=
  let r := s.part p
  if r.st = 4 ∨ r.st = 3 then s
  else if r.resetStep ≠ 0 then
    s.modPart p (fun r => { r with merged := (r.merged + 1) % 256, zero := r.zero || zero, rel := r.rel || rel })
  else
    (s.modPart p (fun r => { r with resetStep := 1, resetCause := cause, zero := zero, rel := rel })).due (.partitionReset p)

/-- An unrecoverable fault of a partition (18 R448). -/
def unrecoverable (s : State) (p : Nat) : State :=
  requestReset (s.modPart p (fun r => { r with ufaults := min (r.ufaults + 1) 0xFFFF })) p 3 false false

/-! ### PDIES and VFCFG (18 R443, R455) -/

/-- Whether a set of dies is empty or a rectangle of the 4 × 8 grid (18 R439, R455). -/
def isRect (d : Nat) : Bool :=
  d == 0 || (List.range 4).any (fun r0 => (List.range 4).any (fun r1 => (List.range 8).any (fun c0 => (List.range 8).any (fun c1 =>
    r0 ≤ r1 && c0 ≤ c1 && (List.range 32).all (fun k =>
      bitAt d k == (r0 ≤ k / 8 && k / 8 ≤ r1 && c0 ≤ k % 8 && k % 8 ≤ c1))))))

/-- A die that failed the array check stays in its RETIRED partition (18 R454, R455). -/
def dieFailed (s : State) (d : Nat) : Bool := (s.part (s.partOf d)).st == 4 && (s.part (s.partOf d)).failed.contains d

/-- A write of PDIES (18 R455): the dies leave their former partitions. -/
def pdiesWrite (s : State) (p v : Nat) : Option State :=
  let st := (s.part p).st
  let okDie := fun (d : Nat) => s.partOf d == p || ((s.part (s.partOf d)).st == 0 && !dieFailed s d)
  let failedKept := (List.range 32).all (fun d => !(s.partOf d == p && dieFailed s d) || bitAt v d)
  if (st = 0 ∨ st = 4) ∧ isRect v ∧ failedKept ∧ (List.range 32).all (fun d => !bitAt v d || okDie d) then
    let old := fun (q : Nat) => (List.range 32).foldl (fun n d => if bitAt (s.pdies q) d ∧ !bitAt v d then n + 2 ^ d else n) 0
    some ((List.range 32).foldl (fun t q =>
      t.modPart q (fun r => { r with dies := some (BitVec.ofNat 32 (if q = p then v else old q)) })) s)
  else none

/-- The VFCFG register of a function. -/
def State.vfReg (s : State) (v : Nat) : Nat := (tget s.vfNext v 0).toNat
/-- The configuration of a function that is in effect (18 R443). -/
def State.vfNow (s : State) (v : Nat) : Nat := (tget s.vfcfg v 0).toNat

/-- A write of VFCFG (18 R443): it takes effect at the end of the next reset of the partition it names. -/
def vfcfgWrite (s : State) (v x : Nat) : Option State :=
  let en := bitAt x 63
  let p := bits x 36 32
  let d := bits x 31 0
  let overlap := (List.range 32).any (fun w => w != v && bitAt (s.vfReg w) 63 && bits (s.vfReg w) 36 32 == p && (s.vfReg w % 2 ^ 32) &&& d != 0)
  if (en ∧ d = 0) ∨ d &&& s.pdies p ≠ d ∨ overlap then none
  else some { s with vfNext := tset s.vfNext v (BitVec.ofNat 64 x) }

/-! ### The registers -/

/-- The registers of the module, each with what names it within a die or partition. -/
inductive Reg where
  | owner (o dw : Nat)
  | xlat (off : Nat)
  | invcnt (n : Nat)
  | invdepth
  | modnum
  | ctxbase
  | qslots
  | regerr
  | evhdr
  | derr
  | derraddr
  | scrubcfg
  | thstat
  | thrcfg
  | thstep
  | part (p off : Nat)
  | mon (n : Nat)
  | monsel (n : Nat)
  | watchUnit (slice unit : Nat)
  | dbg (off : Nat)
  | kick
  | vfcfg (v : Nat)
  | ldreq
  | ldstat
  deriving DecidableEq, Repr

/-- A register of a translation control block (09 R230). -/
def xlatReg (off : Nat) : Option Reg := if off % 8 = 0 ∧ off ≤ 0xB0 then some (.xlat off) else none
/-- A register of a partition control block (18 R444). -/
def partReg (p off : Nat) : Option Reg := if off % 8 = 0 ∧ off ≤ 0x20 then some (.part p off) else none
/-- A register of a monitor block (20 R488). -/
def monReg (off : Nat) : Option Reg :=
  if off % 8 ≠ 0 ∨ off ≥ 0x100 then none else if off < 0x80 then some (.mon (off / 8)) else some (.monsel (off / 8 - 16))

/-- The register at an offset of a Sextant's register space (19 R471). -/
def sxReg (off : Nat) : Option Reg :=
  if off % 8 ≠ 0 then none
  else if off < 0x20000 then some (.owner (off / 32) (off / 8 % 4))
  else if off < 0x20100 then xlatReg (off - 0x20000)
  else if off < 0x20110 then some (.invcnt (off / 8 % 2))
  else if off = 0x20110 then some .invdepth
  else if off = 0x20118 then some .modnum
  else if off = 0x20120 then some .ctxbase
  else if off = 0x20128 then some .qslots
  else if off = 0x20130 then some .regerr
  else if off = 0x20138 then some .evhdr
  else if off = 0x20200 then some .derr
  else if off = 0x20208 then some .derraddr
  else if off = 0x20210 then some .scrubcfg
  else if off = 0x20220 then some .thstat
  else if off = 0x20228 then some .thrcfg
  else if off = 0x20230 then some .thstep
  else if 0x20400 ≤ off ∧ off < 0x20C00 then partReg ((off - 0x20400) / 64) (off % 64)
  else if 0x21000 ≤ off ∧ off < 0x21100 then monReg (off - 0x21000)
  else if 0x22000 ≤ off ∧ off < 0x22800 then some (.watchUnit ((off - 0x22000) / 32) (off / 8 % 4))
  else if 0x30000 ≤ off ∧ off ≤ 0x30020 then some (.dbg (off - 0x30000))
  else none

/-- The partition of a function: a virtual function's, or die 0's for the physical function. -/
def State.fnPart (s : State) (fn : Nat) : Nat := if fn < 32 then bits (s.vfNow fn) 36 32 else s.partOf 0

/-- The register at an offset of a function's BAR0, with its die (20 R476). -/
def hostReg (s : State) (fn off : Nat) : Option (Nat × Reg) :=
  let ds := s.diesOf (s.fnPart fn)
  let onDie := fun (k : Nat) (r : Option Reg) => match ds[k]?, r with | some d, some x => some (d, x) | _, _ => none
  let pf := fun (d : Nat) (r : Option Reg) => if fn = 32 then r.map (fun x => (d, x)) else none
  if fn < 32 ∧ !bitAt (s.vfNow fn) 63 then none
  else if off = 0 then some (s.frontDie (s.fnPart fn), .kick)
  else if 0x40 ≤ off ∧ off < 0x80 then (partReg (s.fnPart fn) (off - 0x40)).map (fun x => (0, x))
  else if 0x1000 ≤ off ∧ off < 0x3000 then onDie ((off - 0x1000) / 256) (xlatReg (off % 256))
  else if 0x3000 ≤ off ∧ off < 0x3200 then onDie ((off - 0x3000) / 16) (if off % 8 = 0 then some (.invcnt (off / 8 % 2)) else none)
  else if 0x4000 ≤ off ∧ off < 0x6000 then onDie ((off - 0x4000) / 256) (monReg (off % 256))
  else if 0x8000 ≤ off ∧ off < 0x8100 then pf 0 (if off % 8 = 0 then some (.vfcfg ((off - 0x8000) / 8)) else none)
  else if 0x9000 ≤ off ∧ off < 0x9800 then pf 0 (partReg ((off - 0x9000) / 64) (off % 64))
  else if 0xA000 ≤ off ∧ off < 0xA400 then
    pf ((off - 0xA000) / 32) (match off % 32 with | 0 => some .derr | 8 => some .derraddr | 16 => some .scrubcfg | _ => none)
  else if 0xB000 ≤ off ∧ off < 0xB400 then
    pf ((off - 0xB000) / 32) (match off % 32 with | 0 => some .thstat | 8 => some .thrcfg | 16 => some .thstep | _ => none)
  else if off = 0xC000 then pf 0 (some .ldreq)
  else if off = 0xC008 then pf 0 (some .ldstat)
  else none

/-! ### Reads -/

/-- A fault-buffer entry (09 R228). -/
def fbentImage (x : Xlat) (n : Nat) : Nat :=
  match (tfind x.fbent n).bind (fun e => tfind x.pend e) with
  | none => 0
  | some p => p.vpn * 2 ^ 92 + p.owner * 2 ^ 80 + p.acc * 2 ^ 77 + p.level * 2 ^ 75 + min p.waiters.length 63 * 2 ^ 69 + p.cls * 2 ^ 66 + p.first * 2 ^ 32 + 1

/-- FBSTAT (09 R229). -/
def fbstat (x : Xlat) : Nat :=
  x.replays * 2 ^ 32 + x.drops * 2 ^ 16 + (x.fbent.foldl (fun n p => n + 2 ^ p.1) 0) * 2 ^ 8 + x.cmderr.toNat * 4 + x.busy.toNat * 2 + x.droppedBit.toNat

/-- A register of a translation control block (09 R230); FBCMD reads 0. -/
def xlatGet (x : Xlat) (off : Nat) : Nat :=
  if off < 0x80 then bits (fbentImage x (off / 16)) (64 * (off / 8 % 2) + 63) (64 * (off / 8 % 2))
  else match off with
    | 0x80 => fbstat x
    | 0x90 => x.invva.toNat
    | 0x98 => x.migva.toNat
    | 0xA0 => x.migpa.toNat
    | 0xA8 => x.migstat.toNat
    | 0xB0 => x.pgcfg.toNat
    | _ => 0

/-- INVCNT0 and INVCNT1 (16 R414). -/
def invcnt (u : InvUnit) (n : Nat) : Nat :=
  if n = 0 then u.denies * 2 ^ 48 + u.invalids * 2 ^ 32 + u.naks * 2 ^ 16 + u.spills
  else u.replyDrops * 2 ^ 48 + u.overflows * 2 ^ 32 + u.accepts

/-- The applied throttle step of a die: the larger of the thermal and the power step (20 R484). -/
def appliedStep (s : State) (die : Nat) : Nat :=
  if (s.part (s.partOf die)).resetStep ≠ 0 ∧ (s.part (s.partOf die)).hotReset then 7 else max (s.die die).plat.thH s.powerW

/-- The thermal step of a die is a new one, which its monitors count (20 R484, R488). -/
def setThermal (s : State) (die h : Nat) (below : Option Nat) : State :=
  (s.modPlat die (fun p => { p with thH := h, thBelow := below })).dieEv die 10 0

/-- The applied step of a die may have changed: a change is counted in THSTEP, and takes effect with the next rotation and table
period (20 R484). -/
def noteStep (s : State) (die : Nat) : State :=
  let k := appliedStep s die
  let p := (s.die die).plat
  if k = p.thNext.getD p.thK then s
  else ((s.modPlat die (fun p => { p with thCount := min (p.thCount + 1) 0xFFFF, thNext := some k }))).dueOnce (.throttleStepApply die)

/-- A register of a partition control block (18 R444); PCMD reads 0. -/
def partGet (s : State) (p off : Nat) : Nat :=
  let r := s.part p
  match off with
  | 0x00 => r.resets * 2 ^ 48 + r.failDie * 2 ^ 40 + r.cause * 2 ^ 32 + r.ufaults * 2 ^ 16 + r.merged * 2 ^ 8 + r.st
  | 0x10 => s.pdies p
  | 0x18 => r.clampCount
  | 0x20 => r.qtable.toNat
  | _ => 0

/-- The value of a register. -/
def regGet (s : State) (die : Nat) (r : Reg) : Nat :=
  let d := s.die die
  let p := d.plat
  match r with
  | .owner o dw => bits (ownerImage (s.ownerEnt die o)) (64 * dw + 63) (64 * dw)
  | .xlat off => xlatGet d.xlat off
  | .invcnt n => invcnt d.inv n
  | .invdepth => (List.range 4).foldl (fun n k => n + tget d.inv.depth k 64 * 2 ^ (8 * k)) 0
  | .modnum => p.modnum.toNat
  | .ctxbase => p.ctxbase.toNat
  | .qslots => p.qslots
  | .regerr => p.regerr.toNat
  | .evhdr => p.evOvf.toNat * 65536 + p.evR.toNat * 256 + p.evW.toNat
  | .derr => p.uea * 2 ^ 48 + p.ued * 2 ^ 32 + p.ce
  | .derraddr => p.derraddr.toNat
  | .scrubcfg => p.devh * 65536 + p.chipm
  | .thstat => p.sensors.toNat
  | .thrcfg => p.thrcfg.toNat
  | .thstep => appliedStep s die + p.thH * 8 + s.powerW * 64 + p.thCount * 65536
  | .part q off => partGet s q off
  | .mon n => (tget p.dmon n 0).toNat
  | .monsel n => (tget p.dmonsel n 0).toNat
  | .watchUnit j u => (tget d.watchUnits (j * 4 + u) 0).toNat
  | .dbg off => match off with | 0 => p.dbgTgt.toNat | 8 => p.dbgSel.toNat | 0x10 => p.dbgData.toNat | 0x20 => p.dbgStat.toNat | _ => 0
  | .kick => 0
  | .vfcfg v => s.vfReg v
  | .ldreq => 0
  | .ldstat => s.ldstat.toNat

/-! ### Writes -/

/-- A run of ones from bit lo to bit hi. -/
def ones (hi lo : Nat) : Nat := (2 ^ (hi + 1 - lo) - 1) * 2 ^ lo

/-- The reserved bits of a register. -/
def regRsv (r : Reg) : Nat :=
  match r with
  | .owner _ dw => ownerRsv dw
  | .xlat off => if off < 0x80 then (if off % 16 = 0 then ones 63 61 + ones 31 1 else ones 1 0) else (match off with
    | 0x80 => ones 63 40 + ones 7 3
    | 0x88 => ones 63 28 + ones 15 7
    | 0xB0 => ones 63 27 + ones 15 1
    | _ => 0)
  | .invdepth => ones 63 31 + 2 ^ 23 + 2 ^ 15 + 2 ^ 7
  | .modnum => ones 63 16
  | .ctxbase => ones 63 52 + ones 27 1
  | .qslots => ones 63 6
  | .regerr => ones 62 43
  | .evhdr => ones 63 17
  | .derraddr => ones 55 52
  | .scrubcfg => ones 63 32
  | .thrcfg => ones 63 48
  | .thstep => ones 63 32 + ones 15 9
  | .part _ off => (match off with
    | 0x00 => ones 47 45 + ones 39 36 + ones 7 3
    | 0x08 => ones 63 3
    | 0x10 => ones 63 32
    | 0x18 => ones 63 48
    | _ => 0)
  | .monsel _ => ones 63 32 + ones 30 28 + ones 15 8
  | .watchUnit _ _ => ones 63 52 + ones 4 1
  | .dbg off => (match off with | 0 => ones 63 29 | 8 => ones 63 32 | 0x18 => ones 63 4 | 0x20 => ones 63 12 + ones 7 6 | _ => 0)
  | .kick => ones 63 10
  | .vfcfg _ => ones 62 41 + ones 39 37
  | _ => 0

/-- The event that a command word issues (09 R232). -/
def fbEvent (die v : Nat) : Option Event :=
  match bits v 3 0 with
  | 1 => some (.fbcmdMapped die (bits v 6 4))
  | 2 => some (.fbcmdDeny die (bits v 6 4))
  | 3 => some (.fbcmdReplayAll die)
  | 4 => some (.fbcmdInval die (bits v 27 16))
  | 5 => some (.fbcmdMigrate die)
  | _ => none

/-- A write to a register of a translation control block (09 R229, R230, R232). -/
def xlatPut (s : State) (die off v : Nat) : State :=
  match off with
  | 0x80 => s.modXlat die (fun x => { x with cmderr := x.cmderr && !bitAt v 2, droppedBit := x.droppedBit && !bitAt v 0 })
  | 0x88 => match fbEvent die v with | some e => issueCmd s die e | none => cmdErr s die
  | 0x90 => s.modXlat die (fun x => { x with invva := BitVec.ofNat 64 v })
  | 0x98 => s.modXlat die (fun x => { x with migva := BitVec.ofNat 64 v })
  | 0xA0 => s.modXlat die (fun x => { x with migpa := BitVec.ofNat 64 v })
  | 0xB0 => s.modXlat die (fun x => { x with pgcfg := BitVec.ofNat 64 v })
  | _ => s

/-- A write to DMONSELn: the selector is set and DMONn cleared (20 R488). -/
def monselWrite (s : State) (die n v : Nat) : State :=
  s.modPlat die (fun p => { p with dmonsel := tset p.dmonsel n (BitVec.ofNat 64 (v - (v &&& regRsv (.monsel n)))), dmon := tset p.dmon n 0 })

/-- The command that a write of DBGCMD starts (19 R473). -/
def dbgStart (s : State) (die op : Nat) : State :=
  let set := fun (res busy : Nat) => s.modPlat die (fun p =>
    { p with dbgStat := BitVec.ofNat 64 (setBits (setBits p.dbgStat.toNat 3 1 res) 0 0 busy) })
  if bitAt (s.die die).plat.dbgStat.toNat 0 then set 4 1
  else match op with
    | 1 => (set 0 1).due (.dbgRead die)
    | 2 => (set 0 1).due (.dbgWrite die)
    | 3 => (set 0 1).due (.dbgRelease die)
    | 4 => (set 0 1).due (.dbgHold die)
    | 5 => (set 0 1).due (.dbgUnhold die)
    | _ => set 2 0

/-- A write to a register of the debug interface (19 R473); a DBGTGT of another die is refused. -/
def dbgPut (s : State) (die off v : Nat) : Option State :=
  match off with
  | 0 => if bits v 28 24 = die then some (s.modPlat die (fun p => { p with dbgTgt := BitVec.ofNat 64 v })) else none
  | 8 => some (s.modPlat die (fun p => { p with dbgSel := BitVec.ofNat 64 v }))
  | 0x10 => some (s.modPlat die (fun p => { p with dbgData := BitVec.ofNat 64 v }))
  | 0x18 => some (dbgStart s die v)
  | _ => some s

/-- A write to a register of a partition control block by a source: 0 to 31 a virtual function, 32 the physical
function, 33 Sextant (18 R444, R449, R455). -/
def partPut (s : State) (src p off v : Nat) : Option State :=
  match off with
  | 0x08 =>
    if !bitAt v 0 then some s
    else if src = 33 then some (s.due (.sextantResetRequest p (BitVec.ofNat 64 v)))
    else some (s.due (.pcmdReset p (BitVec.ofNat 64 v)))
  | 0x10 => pdiesWrite s p v
  | 0x20 => if src < 32 then some s else if v % 64 ≠ 0 then none else some (s.modPart p (fun r => { r with qtable := BitVec.ofNat 64 v }))
  | _ => some s

/-- A write of a value without reserved bits to a register; none when a rule refuses it.  A write of QSLOTS outside its
range 1 to 32 is refused as one of INVDEPTH is: DESIGN CHOICE (log 95), since 20 R471 gives the range and no refusal. -/
def regPut (s : State) (src die : Nat) (r : Reg) (v : Nat) : Option State :=
  match r with
  | .owner o dw => ownerWrite s die o dw v
  | .xlat off => some (xlatPut s die off v)
  | .invdepth =>
    if (List.range 4).all (fun k => 1 ≤ bits v (8 * k + 6) (8 * k) && bits v (8 * k + 6) (8 * k) ≤ 64) then
      some (s.modInv die (fun u => { u with depth := (List.range 4).map (fun k => (k, bits v (8 * k + 6) (8 * k))) }))
    else none
  | .modnum => some (s.modPlat die (fun p => { p with modnum := BitVec.ofNat 16 v }))
  | .ctxbase => some (s.modPlat die (fun p => { p with ctxbase := BitVec.ofNat 64 v }))
  | .qslots => if 1 ≤ v ∧ v ≤ 32 then some (s.modPlat die (fun p => { p with qslots := v })) else none
  | .regerr => some (s.modPlat die (fun p => { p with regerr := if bitAt v 63 then p.regerr &&& 0x7FFFFFFFFFFFFFFF else p.regerr }))
  | .evhdr => some (s.modPlat die (fun p => { p with evOvf := p.evOvf && !bitAt v 16, evR := BitVec.ofNat 8 (v / 256) }))
  | .scrubcfg => some (s.modPlat die (fun p =>
      { p with devh := if 1 ≤ bits v 31 16 ∧ bits v 31 16 ≤ 24 then bits v 31 16 else p.devh, chipm := if 1 ≤ bits v 15 0 ∧ bits v 15 0 ≤ 60 then bits v 15 0 else p.chipm }))
  | .thrcfg => some (s.modPlat die (fun p => { p with thrcfg := BitVec.ofNat 64 v }))
  | .part p off => partPut s src p off v
  | .monsel n => some (monselWrite s die n v)
  | .watchUnit j u => some (s.modDie die (fun d => { d with watchUnits := tset d.watchUnits (j * 4 + u) (BitVec.ofNat 64 v) }))
  | .dbg off => dbgPut s die off v
  | .kick => some (s.due (.kick (s.partOf die) (v % 1024)))
  | .vfcfg f => vfcfgWrite s f v
  | .ldreq => some (if bits s.ldstat.toNat 3 0 = 1 then s else s.due (.loadRequest 0 (BitVec.ofNat 64 v) false))
  | _ => some s

/-- A write that Sextant may not make: recorded in REGERR (19 R471). -/
def regErr (s : State) (die off : Nat) : State :=
  s.modPlat die (fun p => { p with regerr := BitVec.ofNat 64 (2 ^ 63 + off) })

/-- A Sextant write at an offset of its register space (19 R471); a malformed command also sets CMDERR (09 R232). -/
def sxRegWrite (s : State) (die off v : Nat) : State :=
  match sxReg off with
  | none => s
  | some r =>
    if v &&& regRsv r ≠ 0 then
      let s := if r = .xlat 0x88 then cmdErr s die else s
      regErr s die off
    else match regPut s 33 die r v with
      | some t => t
      | none => regErr s die off

/-- A host write at an offset of a function's BAR0: reserved bits are ignored (00 R9), but a command with one set is
malformed (09 R232). -/
def hostRegWrite (s : State) (fn off v : Nat) : State :=
  match hostReg s fn off with
  | none => s
  | some (die, r) =>
    if r = .xlat 0x88 ∧ v &&& regRsv r ≠ 0 then cmdErr s die
    else (regPut s fn die r (v - (v &&& regRsv r))).getD s

/-- A host read at an offset of a function's BAR0: the register's value leaves for the host, 0 where the function has none there
(20 R476). -/
def hostRegRead (s : State) (fn off : Nat) : State :=
  s.out (.hostReg fn off (match hostReg s fn off with | some (die, r) => BitVec.ofNat 64 (regGet s die r) | none => 0))

/-- REGISTER_WRITE (00 R9, 19 R471, 20 R476): src 0 to 31 a virtual function, 32 the physical function, 33 the Sextant
of the die; and the host's reads, for which the table has no row (DESIGN CHOICE, log 108). -/
def execRegisterWrite (s : State) : Outc :=
  match s.ev with
  | some (.registerWrite src die off v) => evDo (.registerWrite src die off v)
      (if src = 33 then sxRegWrite s die off v.toNat else hostRegWrite s src off v.toNat)
  | some (.registerRead fn off) => evDo (.registerRead fn off) (hostRegRead s fn off)
  | _ => .fault .noSuchUnit

/-- OWNER_TABLE_WRITE (17 R417): a refused write is recorded in REGERR. -/
def execOwnerTableWrite (s : State) : Outc :=
  match s.ev with
  | some (.ownerTableWrite die o dw v) => evDo (.ownerTableWrite die o dw v) (sxRegWrite s die (32 * o + 8 * dw) v.toNat)
  | _ => .fault .noSuchUnit

/-- PDIES_WRITE (18 R455). -/
def execPdiesWrite (s : State) : Outc :=
  match s.ev with
  | some (.pdiesWrite p v) => evDo (.pdiesWrite p v) ((pdiesWrite s p (v.toNat % 2 ^ 32)).getD s)
  | _ => .fault .noSuchUnit

/-- VFCFG_WRITE (18 R443). -/
def execVfcfgWrite (s : State) : Outc :=
  match s.ev with
  | some (.vfcfgWrite f v) => evDo (.vfcfgWrite f v) (hostRegWrite s 32 (0x8000 + 8 * f) v.toNat)
  | _ => .fault .noSuchUnit

/-- DMONSEL_WRITE (20 R488). -/
def execDmonselWrite (s : State) : Outc :=
  match s.ev with
  | some (.dmonselWrite die n v) => evDo (.dmonselWrite die n v) (monselWrite s die n v.toNat)
  | _ => .fault .noSuchUnit

/-- EXCEEDANCE_COUNTER_CLEAR (17 R428). -/
def execExceedanceCounterClear (s : State) : Outc :=
  match s.ev with
  | some (.exceedanceCounterClear die o) => evDo (.exceedanceCounterClear die o) (s.modOwner die o (fun e => { e with exN := 0, exE := [] }))
  | _ => .fault .noSuchUnit

/-- PCMD_RESET (18 R449): a write without RESET requests nothing. -/
def execPcmdReset (s : State) : Outc :=
  match s.ev with
  | some (.pcmdReset p v) => evDo (.pcmdReset p v) (if bitAt v.toNat 0 then requestReset s p 1 (bitAt v.toNat 1) (bitAt v.toNat 2) else s)
  | _ => .fault .noSuchUnit

/-- FLR of a virtual function (18 R449). -/
def execFlr (s : State) : Outc :=
  match s.ev with
  | some (.flr f) => evDo (.flr f) (if bitAt (s.vfNow f) 63 then requestReset s (bits (s.vfNow f) 36 32) 2 false false else s)
  | _ => .fault .noSuchUnit

/-- SEXTANT_RESET_REQUEST: owner 0 through Sextant (18 R449). -/
def execSextantResetRequest (s : State) : Outc :=
  match s.ev with
  | some (.sextantResetRequest p v) => evDo (.sextantResetRequest p v)
      (if bitAt v.toNat 0 then requestReset s p 4 (bitAt v.toNat 1) (bitAt v.toNat 2) else s)
  | _ => .fault .noSuchUnit

end Sys2Proof.Machine
end

