-- ==== Sys2Proof/Machine/Kick.lean ====
section
/-!
DEFINITION. Kick: queue control blocks (19 R461), the map from queue threads to queues and the pending vector (19 R465),
kicks and their deferral (19 R467).
-/
namespace Sys2Proof.Machine

/-! ### Queue control blocks (19 R461) -/

/-- What Sextant writes for a queue: as owner 0 and no thread (log 13). -/
def sxWriter : Writer := { cls := 0, owner := 0, ident := 0, tag := 0, core := 409600 }

/-- The map of a partition, on its front-end die. -/
def State.qmap (s : State) (p : Nat) : QMap := (s.die (s.frontDie p)).qmap

/-- The QCB that entry q of the partition's queue table names; none where no queue is registered. -/
def queueEntry (s : State) (p q : Nat) : Option Nat :=
  let t := (s.part p).qtable.toNat
  if t = 0 then none
  else match sxPlace (s.frontDie p) t with
  | none => none
  | some a =>
    let e := s.rd (a + 8 * q) 8
    if e = 0 then none else sxPlace (s.frontDie p) e

/-- The place of a queue's QCB: as it was read when the queue was mapped, else as the table names it (19 R461). -/
def qcbPlace (s : State) (p q : Nat) : Option Nat := (tfind (s.qmap p).qcbs q).or (queueEntry s p q)

/-- A QCB: its place and its 512 bits. -/
structure Qcb where
  at_ : Nat
  img : Nat

/-- The QCB of a queue. -/
def qcbOf (s : State) (p q : Nat) : Option Qcb := (qcbPlace s p q).map (fun a => { at_ := a, img := s.rd a 64 })

/-- RBASE. -/
def Qcb.rbase (c : Qcb) : Nat := bits c.img 63 0
/-- SIZE. -/
def Qcb.size (c : Qcb) : Nat := bits c.img 95 64
/-- RD. -/
def Qcb.rd (c : Qcb) : Nat := bits c.img 159 128
/-- WR. -/
def Qcb.wr (c : Qcb) : Nat := bits c.img 223 192
/-- PRIO. -/
def Qcb.prio (c : Qcb) : Nat := bits c.img 258 256
/-- LATTOL in µs. -/
def Qcb.lattol (c : Qcb) : Nat := bits c.img 281 272
/-- OWNER. -/
def Qcb.owner (c : Qcb) : Nat := bits c.img 299 288
/-- VEC. -/
def Qcb.vec (c : Qcb) : Nat := bits c.img 314 304
/-- STATE. -/
def Qcb.state (c : Qcb) : Nat := bits c.img 323 320
/-- CDONE. -/
def Qcb.cdone (c : Qcb) : Nat := bits c.img 383 352
/-- PSINCE. -/
def Qcb.psince (c : Qcb) : Nat := bits c.img 447 384

/-- Bytes not yet read: (WR − RD) mod SIZE. -/
def Qcb.avail (c : Qcb) : Nat := (c.wr + c.size - c.rd) % c.size

/-- Whether a QCB is malformed, or its owner lies outside the partition (19 R461, R464). -/
def qcbBad (s : State) (p : Nat) (c : Qcb) : Bool :=
  let e := s.ownerEnt (s.frontDie p) c.owner
  bits c.img 511 448 != 0 || bits c.img 351 328 != 0 || bits c.img 319 315 != 0 || bits c.img 303 300 != 0 || bits c.img 287 282 != 0 ||
    bits c.img 271 259 != 0 || bits c.img 255 224 != 0 || bits c.img 191 160 != 0 || bits c.img 127 96 != 0 ||
    c.lattol > 1000 || c.size % 16 != 0 || c.size < 256 || c.size > 2 ^ 31 || c.rbase % 16 != 0 || (sxPlace (s.frontDie p) c.rbase).isNone ||
    c.rd ≥ c.size || c.wr ≥ c.size || !(e.v && e.part == p)

/-- A store of a front end's, with its identifier at the slice (08 R214). -/
def frontStore (s : State) (die a v n : Nat) : State := (enterFilter (s.perfWrite sxWriter a v n) a (identCls 4 die s.nextId)).fresh

/-- The state with STATE and ERR of a QCB written: one byte. -/
def setQstate (s : State) (die : Nat) (c : Qcb) (st err : Nat) : State := frontStore s die (c.at_ + 40) (err * 16 + st) 1
/-- The state with RD of a QCB written. -/
def setQrd (s : State) (die : Nat) (c : Qcb) (v : Nat) : State := frontStore s die (c.at_ + 16) v 4
/-- The state with CDONE of a QCB written. -/
def setQdone (s : State) (die : Nat) (c : Qcb) (v : Nat) : State := frontStore s die (c.at_ + 44) (v % 2 ^ 32) 4

/-! ### Host memory held at die 0 (18 R452) -/

/-- Whether an access of a partition's front end to a place is held at die 0. -/
def heldAt (s : State) (p a : Nat) : Bool := spaceOf a == 4 && s.holdsHost p

/-- Whether what a front end reads of a queue, its table entry where the queue is not mapped and its QCB, is held at die 0. -/
def queueHeld (s : State) (p q : Nat) : Bool :=
  ((tfind (s.qmap p).qcbs q).isNone && (match sxPlace (s.frontDie p) (s.part p).qtable.toNat with | some a => heldAt s p a | none => false)) ||
    (match qcbPlace s p q with | some a => heldAt s p a | none => false)

/-! ### The map (19 R465) -/

/-- The state with a partition's map changed. -/
def State.modQmap (s : State) (p : Nat) (f : QMap → QMap) : State :=
  s.modDie (s.frontDie p) (fun d => { d with qmap := f d.qmap })

/-- The slot to which a queue is bound: die × 32 + thread. -/
def slotOfQueue (s : State) (p q : Nat) : Option Nat := ((s.qmap p).slots.find? (fun x => x.2.1 == q)).map Prod.fst

/-- The kick flag of a slot's thread is set (19 R465). -/
def kickFlag (s : State) (slot : Nat) : State := s.modSx (slot / 32) (slot % 32) (fun x => { x with flags := tset x.flags 0 true })

/-- The pending bit of a queue is set, with PSINCE in its QCB if it was clear; a change of the vector sets the flag that `wpk`
waits for (19 R465, R468). -/
def setPending (s : State) (p q : Nat) : State :=
  if (s.qmap p).pending.contains q then s
  else
    let s := flagAll (s.modQmap p (fun m => { m with pending := setAdd m.pending q })) (s.frontDie p) 1
    match qcbPlace s p q with
    | some a => frontStore s (s.frontDie p) (a + 48) (s.timeNs (s.frontDie p)) 8
    | none => s

/-- The pending bit of a queue is cleared (19 R466, R470). -/
def clearPending (s : State) (p q : Nat) : State :=
  if (s.qmap p).pending.contains q then flagAll (s.modQmap p (fun m => { m with pending := setDel m.pending q })) (s.frontDie p) 1 else s

/-- A kick reaches its thread, or the scheduler (19 R465). -/
def wakeQueue (s : State) (p q : Nat) : State :=
  match slotOfQueue s p q with
  | some k => (kickFlag s k).dueOnce (.queuePacketStart p q)
  | none => (flagAll (setPending s p q) (s.frontDie p) 1).dueOnce (.schedulerRun p)

/-- A kick of a queue that is registered and neither HALTED nor DISABLED, in a partition that is not being reset
(19 R461, 18 R450). -/
def kickTaken (s : State) (p q : Nat) : Option Qcb :=
  if s.fenced p ∨ queueEntry s p q = none then none
  else match qcbOf s p q with
  | some c => if c.state = 2 ∨ c.state = 3 then none else some c
  | none => none

/-- A kick without deferral: `qkick` (19 R469). -/
def kickNow (s : State) (p q : Nat) : State := if (kickTaken s p q).isSome then wakeQueue s p q else s

/-- KICK: the pending bit is set at once, the wake may be deferred by LATTOL (19 R465, R467). -/
def doKick (s : State) (p q : Nat) : State :=
  if queueHeld s p q then s.due (.kick p q) else
  match kickTaken s p q with
  | none => s
  | some c =>
    let s := if (slotOfQueue s p q).isSome then s else setPending s p q
    (s.modQmap p (fun m => { m with deferred := m.deferred ++ [(q, s.now + c.lattol * 4000)] })).dueOnce (.kickDelivery p)

/-- KICK (19 R465). -/
def execKick (s : State) : Outc :=
  match s.ev with
  | some (.kick p q) => evDo (.kick p q) (doKick s p q)
  | _ => .fault .noSuchUnit

/-- KICK_DELIVERY: every deferred kick is delivered, in the order of arrival (19 R467). -/
def doKickDelivery (s : State) (p : Nat) : State :=
  let l := (s.qmap p).deferred
  if l.any (fun k => queueHeld s p k.1) then s.due (.kickDelivery p)
  else l.foldl (fun s k => wakeQueue s p k.1) (s.modQmap p (fun m => { m with deferred := [] }))

/-- KICK_DELIVERY (19 R467). -/
def execKickDelivery (s : State) : Outc :=
  match s.ev with
  | some (.kickDelivery p) => evDo (.kickDelivery p) (doKickDelivery s p)
  | _ => .fault .noSuchUnit

end Sys2Proof.Machine
end

