-- ==== Sys2Proof/Machine/Access.lean ====
section
/-!
DEFINITION. Access: pointers and their checks (06 R136-R142), watchpoints (14 R360-R362), the journal (08 R198, R199),
the touched-bank mask (07 R185), the tenant clamp (07 R187), and the issue of memory accesses (06 R145, R146).
-/
namespace Sys2Proof.Machine

/-! ### Segments (06 R137) -/

/-- LIMIT of a segment image. -/
def sgLimit (g : BitVec 128) : Nat := bits g.toNat 116 64
/-- KIND of a segment image. -/
def sgKind (g : BitVec 128) : Nat := bits g.toNat 58 56
/-- BASE of a segment image. -/
def sgBase (g : BitVec 128) : Nat := bits g.toNat 51 0
/-- Right T. -/
def sgT (g : BitVec 128) : Bool := bitAt g.toNat 55
/-- Right A. -/
def sgA (g : BitVec 128) : Bool := bitAt g.toNat 54
/-- Right W. -/
def sgW (g : BitVec 128) : Bool := bitAt g.toNat 53
/-- Right R. -/
def sgR (g : BitVec 128) : Bool := bitAt g.toNat 52

/-- Bits of the address space of a kind (06 R139). -/
def spaceBits (kind : Nat) : Nat := match kind with | 0 => 16 | 1 => 20 | 2 => 30 | _ => 52

/-- Whether a segment image is malformed (06 R137). -/
def sgMalformed (g : BitVec 128) : Bool :=
  sgKind g ≥ 6 || sgBase g % 32 != 0 || sgLimit g > 2 ^ 52 || bits g.toNat 127 117 != 0 || bits g.toNat 63 59 != 0 ||
    sgBase g + sgLimit g > 2 ^ spaceBits (sgKind g)

/-- A thread's segment register; null when it holds nothing (06 R138). -/
def Thread.seg (t : Thread) (n : Nat) : BitVec 128 := tget t.sgs n 0

/-! ### Checks (06 R140) -/

/-- What an instruction needs of a pointer (06 R140, R141), with its ACC (06 R142), the reads and writes that a
watchpoint sees (14 R361), and what translation asks (09 R225, R228). -/
structure AccSpec where
  size : Nat
  align : Nat
  r : Bool := false
  w : Bool := false
  a : Bool := false
  t : Bool := false
  kinds : List Nat := [0, 1, 2, 3, 4, 5]
  acc : Nat
  rd : Bool := false
  wr : Bool := false
  need : Need := {}
  xacc : Nat := 0
  /-- Kinds accepted once all of R140 has passed (10 R257, 13 R336). -/
  late : List Nat := [0, 1, 2, 3, 4, 5]
  /-- The execute boundary does not apply (11 R284); a pitch that is misaligned of itself (11 R283). -/
  noExb : Bool := false
  skew : Bool := false

/-- A trap's cause, TVAL and TINFO. -/
abbrev TrapInfo := Cause × BitVec 64 × BitVec 64

/-- A fault of a pointer check in the layout of 06 R142. -/
def accFault (c : Cause) (reason : Nat) (sp : AccSpec) (ea : BitVec 64) : TrapInfo :=
  (c, ea, info142 reason sp.acc false (bits ea.toNat 63 61))

/-- Whether a FABRIC target's import entry may be used by an owner (16 R403). -/
def fabricUsable (s : State) (part owner a : Nat) : Bool :=
  let e := s.importEnt part (bits a 51 40)
  bits e 31 30 == 1 && bits e 11 0 == owner

/-- The units of 2^k bytes that n bytes from a touch. -/
def unitsOf (a n k : Nat) : List Nat := if n = 0 then [] else (List.range ((a + n - 1) / 2 ^ k - a / 2 ^ k + 1)).map (fun i => a / 2 ^ k + i)

/-- The checks of a thread's pointer up to the DEVICE line of 06 R140: the kind and the target address. -/
def ptrCheck (s : State) (slot : Nat) (t : Thread) (sp : AccSpec) (ea : BitVec 64) : Except TrapInfo (Nat × Nat) :=
  let n := bits ea.toNat 63 61
  let g := t.seg n
  let off := bits ea.toNat 51 0
  let a := sgBase g + off
  let core := coreOf slot
  let part := s.partOf (dieOf core)
  if t.ecc.contains (0x300 + n) then .error (.eccUncorr, BitVec.ofNat 64 (0x300 + n), info142 18 14 false 0)
  else if bits ea.toNat 60 52 ≠ 0 then .error (accFault .segForm 0 sp ea)
  else if (sp.r && !sgR g) || (sp.w && !sgW g) || (sp.a && !sgA g) || (sp.t && !sgT g) then
    .error (accFault .segRights 1 sp ea)
  else if !sp.kinds.contains (sgKind g) then .error (accFault .segRights 3 sp ea)
  else if off + sp.size > sgLimit g then .error (accFault .segLimit 1 sp ea)
  else if off % sp.align ≠ 0 || sp.skew then .error (accFault .misaligned 0 sp ea)
  else if sgKind g = 2 ∧ (unitsOf a sp.size 25).any (fun d => !s.dieIn d part) then .error (accFault .segLimit 3 sp ea)
  else if sgKind g = 0 ∧ sp.size ≠ 0 ∧ !sp.noExb ∧ a < (s.core core).exb * 256 then .error (accFault .segRights 2 sp ea)
  else if sgKind g = 5 ∧ (unitsOf a sp.size 40).any (fun k => !fabricUsable s part (s.ownerOf core) (k * 2 ^ 40)) then
    .error (accFault .segRights 16 sp ea)
  else if sgKind g ≠ 3 ∧ !sp.late.contains (sgKind g) then .error (accFault .segRights 3 sp ea)
  else .ok (sgKind g, a)

/-! ### Watchpoints (14 R360-R362) -/

/-- Whether a watchpoint matches a byte range; an empty range overlaps nothing (14 R361). -/
def watchMatch (w : Watch) (ea : Nat) (size : Nat) (rd wr : Bool) : Bool :=
  let c := w.ctl.toNat
  bitAt c 3 && ((rd && bitAt c 4) || (wr && bitAt c 5)) && 0 < size &&
    ea < w.ptr.toNat + 2 ^ bits c 11 8 && w.ptr.toNat < ea + size

/-- The lowest watchpoint of a U-mode thread that matches, unless the instruction is the first after a WATCH handler's
tret. -/
def watchFind (t : Thread) (ea size : Nat) (rd wr : Bool) : Option Nat :=
  if t.mode == .k || t.skip then none
  else (List.range 4).find? (fun k => watchMatch (tget t.watches k {}) ea size rd wr)

/-- The WATCH trap of a matched access. -/
def watchTrap (k acc : Nat) (ea : BitVec 64) : Res := .trap .watch ea (BitVec.ofNat 64 (acc * 16 + k))

/-! ### Reaching a target -/

/-- Where an access goes. -/
structure Target where
  ea : BitVec 64
  /-- Kind 0 to 5, or 6 for a Sextant's address. -/
  kind : Nat
  /-- Target address in the kind's space. -/
  a : Nat
  /-- Place in the memories. -/
  place : Nat
  shared : Bool := false
  tagged : Bool := false
  vpn : Option Nat := none

/-- The outcome of reaching a target. -/
inductive Reach where
  | ok (s : State) (x : Target)
  | stop (r : Res)

/-- The requester record of a thread for the translation of its accesses. -/
def askerOf (s : State) (slot : Nat) : Asker :=
  { num := slot, cls := 0, first := coordOf slot, cluster := clusterOf (coreOf slot), die := dieOf (coreOf slot), owner := s.ownerOf (coreOf slot) }

/-- The place of a target of a kind that is not translated (06 R139). -/
def placeOfKind (core kind a : Nat) : Nat :=
  match kind with
  | 0 => aLocal core a
  | 1 => aCluster (clusterOf core) a
  | 2 => aDie a
  | 4 => aHost a
  | _ => aFabric a

/-- The bank of a place in local store. -/
def bankOf (place : Nat) : Nat := bits (offOf place) 15 12

/-- Whether a sibling's lock holds a thread out of a place (14 R357). -/
def lockedOut (s : State) (slot place : Nat) : Bool :=
  spaceOf place == 1 && (match (tget (s.core (coreOf slot)).locks (bankOf place) {}).holder with
    | some h => h != slot
    | none => false)

/-- A reached place: the wait for a locked bank or an owned unit (14 R357, 08 R207). -/
def reachPlace (s : State) (slot : Nat) (g : Prog) (x : Target) : Reach :=
  if lockedOut s slot x.place then .stop (.park (.bank (bankOf x.place)) g s)
  else if recalled s x.place then .stop (.park (.recall (x.place / 65536)) g s)
  else .ok s x

/-- The reason of a denial that a replay has found for the page of a DEVICE target (09 R233). -/
def deniedAt (g : Prog) (a : Nat) : Option Nat :=
  match g with
  | .denied r v => if v = bits a 51 16 then some r else none
  | _ => none

/-- A thread's pointer, checked, watched and translated (06 R140, 14 R362, 09 R217). -/
def reachThread (e : Env) (slot : Nat) (sp : AccSpec) (ea : BitVec 64) : Reach :=
  match ptrCheck e.s slot e.th sp ea with
  | .error (c, v, i) => .stop (.trap c v i)
  | .ok (kind, a) =>
    match watchFind e.th ea.toNat sp.size sp.rd sp.wr with
    | some k => .stop (watchTrap k sp.acc ea)
    | none =>
      if kind ≠ 3 then reachPlace e.s slot e.th.prog { ea := ea, kind := kind, a := a, place := placeOfKind (coreOf slot) kind a }
      else
        match deniedAt e.th.prog a with
        | some r => .stop (.trap .addrDenied ea (info142 r sp.acc false (bits ea.toNat 63 61)))
        | none =>
          match translate e.s (askerOf e.s slot) a sp.xacc with
          | .park p s => .stop (.park p e.th.prog s)
          | .denied r => .stop (.trap .addrDenied ea (info142 r sp.acc false (bits ea.toNat 63 61)))
          | .leaf t s =>
            match leafCheck t.leaf.toNat sp.need with
            | some (c, r) => .stop (.trap c ea (info142 r sp.acc false (bits ea.toNat 63 61)))
            | none =>
              if !sp.late.contains 3 then .stop (.trap .segRights ea (info142 3 sp.acc false (bits ea.toNat 63 61))) else
              let pa := leafPa t.big t.leaf.toNat a
              let x : Target := { ea := ea, kind := 3, a := a, place := aDev pa, shared := bitAt t.leaf.toNat 6, tagged := bitAt t.leaf.toNat 5, vpn := some (bits a 51 16) }
              reachPlace s slot e.th.prog x

/-- Whether a Sextant access to its register space is a doubleword load or store of a register of the map (19 R471). -/
def regAccessOk (p : Nat) (sp : AccSpec) : Bool :=
  spaceOf p != 8 || (sp.size == 8 && sp.acc ≤ 1 && (sxReg (offOf p % 2 ^ 43)).isSome)

/-- A Sextant address (19 R460, R471). -/
def reachSextant (e : Env) (die : Nat) (sp : AccSpec) (ea : BitVec 64) : Reach :=
  match sxPlace die ea.toNat with
  | none => .stop (.trap .segForm ea (info142 0 sp.acc false (bits ea.toNat 63 61)))
  | some p =>
    if !regAccessOk p sp then .stop (.trap .segForm ea (info142 0 sp.acc false (bits ea.toNat 63 61)))
    else if ea.toNat % sp.align ≠ 0 then .stop (.trap .misaligned ea (info142 0 sp.acc false (bits ea.toNat 63 61)))
    else if recalled e.s p then .stop (.park (.recall (p / 65536)) e.th.prog e.s)
    else .ok e.s { ea := ea, kind := 6, a := offOf p, place := p }

/-- Reach the target of an agent's access. -/
def reach (e : Env) (sp : AccSpec) (ea : BitVec 64) : Reach :=
  match e.ag with
  | .thread slot => reachThread e slot sp ea
  | .sextant d _ => reachSextant e d sp ea

/-! ### Touched banks (07 R185) -/

/-- The bit that an access sets, by its place and the thread's die. -/
def touchBit (die place : Nat) : Nat :=
  match spaceOf place with
  | 1 => 96
  | 2 => 97
  | 3 => if bits (offOf place) 29 25 = die then 98 else 64 + bits (offOf place) 29 25
  | 4 => 99
  | 7 => 100
  | _ => if homeDie place = die then homeSlice place else 64 + homeDie place

/-- The thread with a bit of its mask set. -/
def Thread.touch (t : Thread) (bit : Nat) : Thread := { t with touched := t.touched ||| BitVec.ofNat 128 (2 ^ bit) }

/-! ### The tenant clamp (07 R187, R188) -/

/-- Whether an ordering at a scope is clamped to the tenant: a Sextant stands in no virtual function. -/
def isClamped (s : State) (a : Agent) (scope : Nat) : Bool :=
  match a with
  | .sextant _ _ => false
  | .thread _ => scope == 5 && s.clampOn a.die

/-- The scope at which an ordering acts. -/
def clamped (s : State) (a : Agent) (scope : Nat) : Nat := if isClamped s a scope then 4 else scope

/-- A clamped instruction counted in its thread and in its partition (07 R187, R188; 18 R444). -/
def countClamp (s : State) (a : Agent) (scope : Nat) : State :=
  if isClamped s a scope then
    (s.modTh a (fun t => { t with clamped := if t.clamped = 0xFFFFFFFF then t.clamped else t.clamped + 1 })).modPart
      (s.partOf a.die) (fun p => { p with clampCount := min (p.clampCount + 1) (2 ^ 48 - 1) })
  else s

/-- An instruction's completion with its clamp counted. -/
def withClamp (a : Agent) (scope : Nat) (r : Res) : Res :=
  match r with
  | .ok x => .ok { x with s := countClamp x.s a scope }
  | y => y

/-! ### The journal (08 R198, R199) -/

/-- The lowest free entry of a core's journal. -/
def freeJournal (s : State) (core : Nat) : Option Nat :=
  (List.range 32).find? (fun k => (tfind (s.core core).journal k).isNone)

/-- Take a journal entry, with the core's count of posted operations moved on. -/
def takeJournal (s : State) (core k : Nat) (j : JEnt) : State :=
  s.modCore core (fun c => { c with journal := tset c.journal k { j with seq := c.jseq }, jseq := c.jseq + 1 })

/-- Whether a store to a place is posted from a die (08 R198). -/
def isPosted (die place : Nat) : Bool :=
  match spaceOf place with
  | 0 => homeDie place != die
  | 3 => bits (offOf place) 29 25 != die
  | 4 => die != 0
  | 7 => true
  | _ => false

/-! ### Issue (06 R145) -/

/-- The access of an environment to a target. -/
def mkAccess (e : Env) (x : Target) (kind : AKind) (size data : Nat) : Access :=
  { agent := e.ag, tag := e.th.tag, core := e.ag.core, owner := e.s.agentOwner e.ag, kind := kind, ea := x.ea, seg := x.kind, addr := x.place, size := size, data := data, shared := x.shared, vpn := x.vpn }

/-- The state with an access on its way and its arrival due. -/
def sendAccess (s : State) (a : Access) : State :=
  ({ s with net := tset s.net s.nextId a }.fresh).due (.memoryAccessArrival s.nextId)

/-- Outstanding loads and stores up by one, and the mask marked. -/
def countL (s : State) (a : Agent) (bit : Nat) : State :=
  s.modTh a (fun t => ({ t with cnt := { t.cnt with l := t.cnt.l + 1 } } : Thread).touch bit)
/-- The same for a store. -/
def countS (s : State) (a : Agent) (bit : Nat) : State :=
  s.modTh a (fun t => ({ t with cnt := { t.cnt with s := t.cnt.s + 1 } } : Thread).touch bit)

/-- Issue an access that counts on L and delivers to the destination (06 R145). -/
def issueLoad (e : Env) (s : State) (x : Target) (a : Access) : Res :=
  if e.th.cnt.l ≥ 63 then .park (.counterFull 0) e.th.prog s
  else
    let s := countL s e.ag (touchBit e.ag.die x.place)
    .ok { s := sendAccess s { a with dst := some e.rd }, dst := .pend s.nextId }

/-- Issue a store that counts on S, through the journal when it is posted (06 R145, R155; 08 R198). -/
def issueStore (e : Env) (s : State) (x : Target) (a : Access) : Res :=
  if e.th.cnt.s ≥ 63 then .park (.counterFull 1) e.th.prog s
  else
    match e.ag with
    | .sextant _ _ => doneS (sendAccess (countS s e.ag (touchBit e.ag.die x.place)) a)
    | .thread slot =>
      if !isPosted e.ag.die x.place then doneS (sendAccess (countS s e.ag (touchBit e.ag.die x.place)) a)
      else
        match freeJournal s a.core with
        | none => .park .journal e.th.prog s
        | some k =>
          let j : JEnt := { pointer := a.ea, owner := a.owner, slot := slot % 64, typ := 0, size := a.size.log2, reason := 0, seq := 0, tag := a.tag, id := s.nextId }
          doneS (sendAccess (takeJournal (countS s e.ag (touchBit e.ag.die x.place)) a.core k j) { a with journal := some k })

end Sys2Proof.Machine
end

