-- ==== Sys2Proof/Machine/Packet.lean ====
section
/-!
DEFINITION. Packet: the packets of the fabric and of the module (16 R402; 20 R479), the flits that carry them over a Mynis
port (20 R478), and where a packet goes.
-/
namespace Sys2Proof.Machine

/-! ### Headers (16 R402, 20 R479) -/

/-- A beat of 16 bytes. -/
abbrev Beat := BitVec 128

/-- Bits of a beat. -/
def bbits (b : Beat) (hi lo : Nat) : Nat := bits b.toNat hi lo

/-- A header: type, beats after it, destination and source module and die, export entry, and bits [65:0]. -/
def mkHdr (typ beats dmod smod ddie sdie expidx low : Nat) : Beat :=
  BitVec.ofNat 128 (typ * 2 ^ 124 + beats * 2 ^ 120 + dmod * 2 ^ 104 + smod * 2 ^ 88 + ddie * 2 ^ 83 + sdie * 2 ^ 78 + expidx * 2 ^ 66 + low % 2 ^ 66)

/-- Beat 1: KEY, journal index and identifier. -/
def mkBeat1 (key journal ident : Nat) : Beat := BitVec.ofNat 128 (key * 2 ^ 64 + journal * 2 ^ 48 + ident % 2 ^ 48)

/-- TYPE of a header. -/
def hTyp (h : Beat) : Nat := bbits h 127 124
/-- Destination module. -/
def hDmod (h : Beat) : Nat := bbits h 119 104
/-- Source module. -/
def hSmod (h : Beat) : Nat := bbits h 103 88
/-- Destination die. -/
def hDdie (h : Beat) : Nat := bbits h 87 83
/-- Source die. -/
def hSdie (h : Beat) : Nat := bbits h 82 78
/-- Export entry. -/
def hExp (h : Beat) : Nat := bbits h 77 66
/-- OFFSET of a WRITE, READ or ATOMIC. -/
def hOff (h : Beat) : Nat := bbits h 65 26
/-- SIZE of such a packet: log2 of its bytes. -/
def hSize (h : Beat) : Nat := bbits h 25 23
/-- RESP of a READ or ATOMIC. -/
def hResp (h : Beat) : Bool := bbits h 22 22 == 1
/-- OP of an ATOMIC. -/
def hOp (h : Beat) : Nat := bbits h 21 17
/-- The mark that a response carries: 0 none, 1 ECC_UNCORR, 2 POISON: DESIGN CHOICE, the spec gives it no place (log 11). -/
def hMark (h : Beat) : Nat := bbits h 1 0

/-- The first beat after the header. -/
def beat1 (bs : List Beat) : Beat := bs.headD 0
/-- The identifier that beat 1 carries. -/
def bIdent (bs : List Beat) : Nat := bbits (beat1 bs) 47 0
/-- The KEY that beat 1 carries. -/
def bKey (bs : List Beat) : Nat := bbits (beat1 bs) 127 64

/-- Bytes as beats, lowest byte first. -/
def beatsOf (v n : Nat) : List Beat := (List.range (ceilDiv n 16)).map (fun k => BitVec.ofNat 128 (v / 2 ^ (128 * k)))
/-- The number that beats hold, lowest first. -/
def beatsVal : List Beat → Nat
  | [] => 0
  | b :: r => b.toNat + 2 ^ 128 * beatsVal r

/-- A signed status as the byte of an ANSWER. -/
def statusByte (x : Int) : Nat := (x % 256).toNat
/-- The status that an ANSWER carries. -/
def answerStatus (bs : List Beat) : Int := (BitVec.ofNat 8 (bbits (beat1 bs) 55 48)).toInt

/-- Traffic class of a packet (16 R415); the answer to a READ or ATOMIC travels in class 0, as 20 R479 says of it, though 16 R415
lists read data with class 3 (DEDUCED, log 123). -/
def packetClass (h : Beat) : Nat :=
  match hTyp h with
  | 2 => if hResp h then 0 else 3
  | 3 => if hResp h then 0 else 2
  | 5 => 1
  | 6 => 0
  | 7 => 0
  | _ => 2

/-- Whether a header is well formed: its TYPE is assigned, its number of beats is the one its type gives, and the fields
its type requires lie in their range (16 R402, 20 R479). -/
def hdrOk (h : Beat) : Bool :=
  let n := bbits h 123 120
  match hTyp h with
  | 1 => hSize h ≤ 5 && hOff h % 2 ^ hSize h == 0 && n == 1 + ceilDiv (2 ^ hSize h) 16
  | 2 => hSize h ≤ 5 && hOff h % 2 ^ hSize h == 0 && n == (if hResp h then 1 + ceilDiv (2 ^ hSize h) 16 else 1)
  | 3 => (hSize h == 2 || hSize h == 3) && hOff h % 2 ^ hSize h == 0 && n == 2 &&
    ([0, 1, 4, 8, 12, 16, 20, 24, 28].contains (hOp h) || (hOp h == 31 && hSize h == 2))
  | 4 => n == 2
  | 5 => bbits h 45 42 ≤ 8 && bbits h 25 0 == 0 && n == 1 + ceilDiv (bbits h 45 42) 2
  | 6 => n == 1
  | 7 => n == 1
  | _ => false

/-! ### Mynis ports (20 R477, R478) -/

/-- A flit: the control beat, with PAUSE and RESUME in its bits [95:88], and fifteen beats, idle ones zero. -/
def mkFlit (seq ack ctl start : Nat) (data : List Beat) : List Beat :=
  let d := data ++ List.replicate (15 - data.length) 0
  let c := seq * 2 ^ 112 + ack * 2 ^ 96 + ctl * 2 ^ 88 + start * 2 ^ 32
  BitVec.ofNat 128 (c + (Config.flitCrc (BitVec.ofNat 128 c :: d)).toNat) :: d

/-- Send one flit through a port: it is kept until the peer has acknowledged it.  The first flit of a trained link carries
sequence 1: DESIGN CHOICE, the spec gives no first one (log 12). -/
def sendFlit (s : State) (p ctl start : Nat) (data : List Beat) : State :=
  let r := s.port p
  let n := r.txSeq + 1
  let f := mkFlit n.toNat r.rxSeq.toNat ctl start data
  (s.modPort p (fun r => { r with txSeq := n, unacked := r.unacked ++ [(n.toNat, f)] })).out (.flit p f)

/-- Send a packet through a port that is up and not paused, in flits of its own (DESIGN CHOICE, log 12). -/
def sendBeats (s : State) (p : Nat) (bs : List Beat) : State :=
  if bs.length ≤ 15 then sendFlit s p 0 1 bs else sendFlit (sendFlit s p 0 1 (bs.take 15)) p 0 0 (bs.drop 15)

/-- A PAUSE or RESUME of a class, in the control beat of a flit that carries no packet (16 R415, 20 R478; log 68). -/
def sendControl (s : State) (p c : Nat) (pause : Bool) : State :=
  if (s.port p).up then sendFlit s p (2 ^ (c + if pause then 4 else 0)) 0 [] else s

/-- A packet at a port: sent, kept while its class is paused, or lost where the link is down (16 R415, 20 R477). -/
def portSend (s : State) (p : Nat) (h : Beat) (bs : List Beat) : State :=
  let r := s.port p
  let c := packetClass h
  if !r.up then s
  else if tget r.pausedUs c false then s.modPort p (fun r => { r with waiting := r.waiting ++ [(c, h, bs)] })
  else sendBeats s p (h :: bs)

/-- The event of a packet that arrives at a die. -/
def packetEvent (die : Nat) (h : Beat) (bs : List Beat) : Option Event :=
  match hTyp h with
  | 1 => some (.write die h bs)
  | 2 => some (.read die h bs)
  | 3 => some (.atomic die h bs)
  | 4 => some (.counter die h bs)
  | 5 => some (.invoke die h bs)
  | 6 => some (.reply die h bs)
  | 7 => some (.answer die h bs)
  | _ => none

/-- A die's module number (19 R471). -/
def State.modnum (s : State) (die : Nat) : Nat := (s.die die).plat.modnum.toNat

/-- Send a packet from a die: within the module to its destination die, or out through a port (16 R402, 18 R440). -/
def State.route (s : State) (die port : Nat) (h : Beat) (bs : List Beat) : State :=
  if hDmod h = s.modnum die then
    (match packetEvent (hDdie h) h bs with | some e => s.due e | none => s)
  else portSend s port h bs

/-- The port by which an answer to a packet leaves: the lowest one of the die's partition (DESIGN CHOICE, log 12). -/
def State.answerPort (s : State) (die : Nat) : Nat :=
  ((List.range 12).find? (fun p => s.partOf (portDie p) == s.partOf die)).getD 0

/-- An ANSWER to the sender of a packet (16 R402). -/
def sendAnswer (s : State) (die : Nat) (h : Beat) (ident : Nat) (status : Int) : State :=
  s.route die (s.answerPort die) (mkHdr 7 1 (hSmod h) (s.modnum die) (hSdie h) die 0 0)
    [BitVec.ofNat 128 (statusByte status * 2 ^ 48 + ident % 2 ^ 48)]

/-- Bytes of one class in a port's receive buffer: the packets with their headers (16 R415). -/
def bufFill (r : Mynis) (c : Nat) : Nat := ((r.inbuf.filter (fun x => x.1 == c)).map (fun x => 16 * (1 + x.2.2.length))).sum

/-- A packet leaves the receive buffer that holds it; RESUME where the buffer has fallen to 256 KiB (16 R415). -/
def leaveBuffer (s : State) (h : Beat) (bs : List Beat) : State :=
  match (List.range 12).find? (fun p => (s.port p).inbuf.contains (packetClass h, h, bs)) with
  | none => s
  | some p =>
    let c := packetClass h
    let s := s.modPort p (fun r => { r with inbuf := r.inbuf.erase (c, h, bs) })
    if tget (s.port p).pausedPeer c false ∧ bufFill (s.port p) c ≤ 262144 then
      sendControl (s.modPort p (fun r => { r with pausedPeer := terase r.pausedPeer c })) p c false
    else s

/-- Drop a packet at ingress: DROPPED_PKT (16 R402, 20 R488). -/
def dropPacket (s : State) (die : Nat) : State := s.dieEv die 5 0

/-! ### Identifiers (08 R214) -/

/-- The access on its way that an identifier names, among those of a die's cores. -/
def accessOfIdent (s : State) (ident : Nat) : Option (Nat × Access) :=
  s.net.find? (fun p => p.2.ident p.1 == ident)

end Sys2Proof.Machine
end

