-- ==== Sys2Proof/Machine/MemEvents.lean ====
section
/-!
DEFINITION. MemEvents: what accesses do on their way and at their bank or slice (06 R143-R165; 07 R166-R182; 08 R198-R216),
how their answers arrive, and the rows of those events.
A store passes the scopes of its path one at a time and is visible to the agents of the last one it has passed
(07 R169); it is performed at its bank or slice.  Every other access is performed there at one moment.
-/
namespace Sys2Proof.Machine

/-! ### Banks -/

/-- Whether a scalar access that can be served stands at a bank that n bytes of a core's local store touch: it goes before
tile, matrix, copy and gather accesses (06 R143). -/
def scalarFirst (s : State) (core off n : Nat) : Bool :=
  s.net.any (fun p => !p.2.done && !p.2.listed && spaceOf p.2.addr == 1 && offOf p.2.addr / 65536 == core &&
    off / 4096 ≤ offOf p.2.addr % 65536 / 4096 && offOf p.2.addr % 65536 / 4096 ≤ (off + n - 1) / 4096 && !blocked s p.1 p.2)

/-! ### Rounds (17 R424) -/

/-- The agent for whom a walk is made, for its monitors: the first requester that waits for it, or the thread of a transfer
(20 R487). -/
def walkAgent (s : State) (p : PendEnt) : Option Agent :=
  match p.waiters.head? with
  | none => none
  | some (n, _) => if n < 2 ^ 32 then some (agentOf n) else (tfind s.transfers (n - 2 ^ 32)).map (fun t => .thread t.slot)

/-- A walk at its walker is granted, or loses the round, which its agent's monitors count (17 R426; 20 R487). -/
def walkEnd (s : State) (die k : Nat) (p : PendEnt) (won : Bool) : State :=
  if won then setPend s die k { p with granted := true }
  else
    let s := setPend s die k { p with lost := p.lost + 1 }
    match walkAgent s p with
    | some a => s.monEv a 10 1
    | none => s

/-- ARBITRATION_ROUND over the walks that wait at a walker (09 R224). -/
def walkRound (s : State) (die inst : Nat) : State :=
  let w := (walksAt s die inst).filter (fun q => !q.2.granted)
  let present := (w.map (fun y => y.2.owner)).eraseDups
  if present.length < 2 then s
  else
    let (win, s) := s.round die 3 inst present
    present.foldl (fun s o => match w.find? (fun y => y.2.owner == o) with
      | none => s
      | some (k, y) => walkEnd s die k y (o == win)) s

/-- ARBITRATION_ROUND (17 R424). -/
def execArbitrationRound (s : State) : Outc :=
  match s.ev with
  | some (.arbitrationRound die cls inst) =>
    evDo (.arbitrationRound die cls inst) (if cls = 3 then walkRound s die inst else netRound s cls die inst)
  | _ => .fault .noSuchUnit

/-! ### Answers -/

/-- An access's answer is on its way: its value or mark (06 R145, R164). -/
def answerLoad (s : State) (id : Nat) (x : Access) (v : Nat) (m : Option Mark) (f : FlagSet) : State :=
  let dst := x.dst.getD { agent := x.agent, tag := x.tag, reg := 0 }
  ({ s with net := tset s.net id { x with done := true, listed := false },
            reqs := tset s.reqs id (.value dst (BitVec.ofNat 64 v) m true none f) }).due (.registerValueArrival id)

/-- The thread with L, or S, one lower. -/
def Thread.uncount (t : Thread) (load : Bool) : Thread :=
  { t with cnt := if load then { t.cnt with l := t.cnt.l - 1 } else { t.cnt with s := t.cnt.s - 1 } }

/-- The mark of a reported error of an access (06 R164). -/
def accMark (c : Cause) (reason : Nat) (x : Access) : Mark :=
  { cause := c, tval := x.ea, tinfo := info142 reason x.acc true (bits x.ea.toNat 63 61) }

/-- An asynchronous trap of a thread that no journal entry holds. -/
def asyncOf (m : Mark) : AsyncTrap := { mark := m, seq := 0, isLock := false, journal := none }

/-- A full/empty write that the filter of its slice holds is acknowledged (08 R214). -/
def ackFe (s : State) (id : Nat) (x : Access) : State :=
  match x.kind with
  | .stfe | .stff => if spaceOf x.addr = 0 then s.due (.replayAck (x.ident id)) else s
  | _ => s

/-- A full/empty access ends: L or S falls as the answer returns (DESIGN CHOICE, log 90), and its thread finds the result at its reissue (06 R151). -/
def answerFe (s : State) (id : Nat) (x : Access) (v : Nat) (m : Option Mark) : State :=
  let s := ackFe { s with net := terase s.net id } id x
  let g := Prog.served (BitVec.ofNat 64 v) m
  s.modTag x.agent x.tag (fun t => { t.uncount x.loadLike with prog := if t.prog = Prog.asked id then g else t.prog, late := match t.late with | some (p, k) => some (p, if k = Prog.asked id then g else k) | none => none })

/-- A store that is not posted ends: S falls (06 R145). -/
def endStore (s : State) (id : Nat) (x : Access) : State :=
  ({ s with net := terase s.net id }).modTag x.agent x.tag (fun t => { t with cnt := { t.cnt with s := t.cnt.s - 1 } })

/-- A store has been performed: the acceptance of a posted one is on its way (08 R198, R203). -/
def acceptStore (s : State) (id : Nat) (x : Access) : State :=
  match x.journal with
  | none => endStore s id x
  | some j => ({ s with net := tset s.net id { x with done := true } }).due (.postedAnswerArrival x.core j 0)

/-- A word of an image arrives for the thread that asked for it, or the refusal of its request (15 R373, 08 R490). -/
def answerImage (s : State) (id : Nat) (x : Access) (v : Nat) (bad : Option Cause) (no : Option Mark) : State :=
  let f := fun (g : Prog) => match g with
    | .words l (some k) => if k = id then (match no with | some m => .refused m | none => .words (tset l x.addr (BitVec.ofNat 64 v, bad)) none) else g
    | g => g
  ({ s with net := terase s.net id }).modTag x.agent x.tag (fun t => { t with prog := f t.prog })

/-- A target refuses an access: with a reason of 08 R200 for a posted one, of 08 R490 otherwise. -/
def refuseAccess (s : State) (id : Nat) (x : Access) (posted other : Nat) : State :=
  match x.journal with
  | some j => ({ s with net := tset s.net id { x with sent := true, refused := true } }).due (.postedAnswerArrival x.core j posted)
  | none =>
    let m := accMark .postedRefused other x
    match x.kind with
    | .store | .cflush => (endStore s id x).raise x.agent x.tag (asyncOf m)
    | .stfe | .stff | .feset _ => (answerFe s id x 0 none).raise x.agent x.tag (asyncOf m)
    | .ldfe | .ldff => answerFe s id x 0 (some m)
    | .image => answerImage s id x 0 none (some m)
    | .sc => (answerLoad s id x 1 none 0).raise x.agent x.tag (asyncOf m)
    | _ => answerLoad s id x 0 (some m) 0

/-! ### Performing an access -/

/-- The writer record of an access (08 R216); a Sextant thread is named by its die and number (log 13). -/
def Access.writer (x : Access) : Writer :=
  { cls := 0, owner := x.owner,
    ident := (match x.agent with | .thread k => coordOf k | .sextant d t => d * 2 ^ 24 + t),
    tag := x.tag, core := (match x.agent with | .thread _ => x.core | .sextant _ _ => 409600), agent := some x.agent }

/-- The writer record of an access under its number. -/
def Access.writes (x : Access) (id : Nat) : Writer := { x.writer with req := some (x.agent, x.tag, id) }

/-- The error that a read of n bytes meets where the bytes come from memory: ECC_UNCORR before POISON (06 R164). -/
def readError (s : State) (vs : List (Nat × Access)) (a n : Nat) : Option Cause :=
  let mem := (wordsOf a n).filter (fun w => !vs.any (fun y => y.2.addr ≤ w && w + 8 ≤ y.2.addr + y.2.size))
  if mem.any (setHas s.eccBad) then some .eccUncorr else if mem.any (setHas s.poison) then some .poison else none

/-- A value as a load of n bytes delivers it (06 R154). -/
def extended (sg : Bool) (n v : Nat) : Nat :=
  if sg ∧ bitAt v (8 * n - 1) then v + (2 ^ 64 - 2 ^ (8 * n)) else v

/-- Keep, of what a thread has read, the stores still on their way, and add what a load has read (07 R171). -/
def noteRead (s : State) (id : Nat) (x : Access) (l : List Nat) : State :=
  let live := fun (k : Nat) => invalLeft s 5 k || (match tfind s.net k with | some y => !y.done | none => false)
  let back := (s.invals.filter (fun q => invalLeft s 5 q.id && overlaps q.addr q.size x.addr x.size && !q.isOf x.agent x.tag)).map Inval.id
  let new := (l.filter (fun k => match tfind s.net k with | some y => !sameThread y x | none => false) ++ back).map (fun k => (k, id))
  s.modTag x.agent x.tag (fun t => { t with readFrom := t.readFrom.filter (fun q => live q.1) ++ new })

/-- A load is performed: its value is fixed (07 R167). -/
def performLoad (s : State) (id : Nat) (x : Access) (sg : Bool) : State :=
  let vs := visibleStores s id x
  match readError s vs x.addr x.size with
  | some c => answerLoad s id x 0 (some (accMark c 0 x)) 0
  | none =>
    let s := noteRead s id x (seenFrom s vs x.addr x.size)
    answerLoad s id x (extended sg x.size (seenVal s vs x.addr x.size)) none 0

/-- A word of an image that the stores on their way serve (07 R182; 15 R373). -/
def performImage (s : State) (id : Nat) (x : Access) : State :=
  let vs := visibleStores s id x
  let s := noteRead s id x (seenFrom s vs x.addr x.size)
  answerImage s id x (seenVal s vs x.addr x.size) (readError s vs x.addr x.size) none

/-- The new value of an AMO (06 R158) from the old and the operand, both of n bytes. -/
def amoNew (op n old v : Nat) : Nat :=
  let w := 8 * n
  let sg := fun (k : Nat) => (BitVec.ofNat w k).toInt
  match op with
  | 0 => (old + v) % 2 ^ w
  | 4 => old ^^^ v
  | 8 => old ||| v
  | 12 => old &&& v
  | 16 => if sg v < sg old then v else old
  | 20 => if sg v < sg old then old else v
  | 24 => min old v
  | 28 => max old v
  | _ => v

/-- An AMO or amofadd.s is performed (06 R158, R159; 04 R105). -/
def performAmo (s : State) (id : Nat) (x : Access) : State :=
  match readError s [] x.addr x.size with
  | some c => answerLoad s id x 0 (some (accMark c 0 x)) 0
  | none =>
    let old := s.rd x.addr x.size
    let (new, f) := match x.kind with
      | .amo op => (amoNew op x.size old x.data, 0)
      | _ => fadd32 old x.data
    let s := s.perfWrite (x.writes id) x.addr new x.size
    answerLoad s id x (extended (x.size == 4) x.size old) none f

/-- A store is performed: one of fewer than 8 bytes on a bad word is not, and poisons the word (06 R165). -/
def performStore (s : State) (id : Nat) (x : Access) : State :=
  if x.size < 8 && (s.poisoned x.addr x.size || s.uncorr x.addr x.size) then
    let s := s.markPoison x.addr
    match x.journal with
    | some _ => refuseAccess s id x 4 0
    | none => (endStore s id x).raise x.agent x.tag (asyncOf (accMark .poison 0 x))
  else acceptStore (s.perfWrite (x.writes id) x.addr x.data x.size) id x

/-- An LR is performed: its reservation begins, unless a trap or a later LR has cleared it (06 R156); one whose word is bad
ends an earlier reservation and begins none (DESIGN CHOICE, log 92). -/
def performLr (s : State) (id : Nat) (x : Access) : State :=
  match readError s [] x.addr x.size with
  | some c =>
    let clear := fun (t : Thread) => if t.lrPend = some id then { t with resv := none, lrPend := none } else t
    answerLoad (s.modTag x.agent x.tag clear) id x 0 (some (accMark c 0 x)) 0
  | none =>
    let set := fun (t : Thread) => if t.lrPend = some id then { t with resv := some { granule := x.addr / 32, expires := s.now + 4096 }, lrPend := none } else t
    let v := extended (x.size == 4) x.size (s.rd x.addr x.size)
    answerLoad ((s.modTag x.agent x.tag set).due (.reservationExpiry x.agent.num)) id x v none 0

/-- An SC is performed (06 R156): the store of a word that is bad is not performed, as 06 R165 says of a store. -/
def performSc (s : State) (id : Nat) (x : Access) : State :=
  let ok := match s.getTh x.agent with
    | some t => t.tag == x.tag && (match t.resv with | some r => r.granule == x.addr / 32 && s.now < r.expires | none => false)
    | none => false
  let s := s.modTag x.agent x.tag (fun t => { t with resv := none })
  if !ok then answerLoad s id x 1 none 0
  else if x.size < 8 && (s.poisoned x.addr x.size || s.uncorr x.addr x.size) then
    (answerLoad (s.markPoison x.addr) id x 1 none 0).raise x.agent x.tag (asyncOf (accMark .poison 0 x))
  else answerLoad (s.perfWrite (x.writes id) x.addr x.data x.size) id x 0 none 0

/-- A line written back: clean and valid (06 R162). -/
def performFlush (s : State) (id : Nat) (x : Access) : State :=
  endStore (if spaceOf x.addr = 0 ∨ spaceOf x.addr = 4 then lineClean s x.addr else s) id x

/-- An `oplace` mode-5 query: the set that holds the line now (17 R436). -/
def performQuery (s : State) (id : Nat) (x : Access) : State :=
  answerLoad s id x (match lineOf s x.addr with | some l => l.set | none => 2 ^ 64 - 1) none 0

/-- An access of Sextant to its register space (19 R471). -/
def performReg (s : State) (id : Nat) (x : Access) : State :=
  let die := x.agent.die
  let off := offOf x.addr % 2 ^ 43
  match x.kind with
  | .store => endStore (sxRegWrite s die off x.data) id x
  | _ => answerLoad s id x (match sxReg off with | some r => regGet s die r | none => 0) none 0

/-- Perform an access at its bank or slice. -/
def perform (s : State) (id : Nat) (x : Access) : State :=
  if spaceOf x.addr = 8 then performReg s id x
  else match x.kind with
  | .load sg => performLoad s id x sg
  | .store => performStore s id x
  | .lr => performLr s id x
  | .sc => performSc s id x
  | .amo _ | .fadd => performAmo s id x
  | .cflush => performFlush s id x
  | .lineQuery => performQuery s id x
  | .image => performImage s id x
  | _ => s

/-! ### Fabric requests (16 R405, 20 R479) -/

/-- The die of another partition of this module that an own-module import names: the lowest front-end die whose
export entry carries the KEY (log 12), or a die of no such entry. -/
def exportDie (s : State) (part expidx key : Nat) : Option Nat :=
  ((List.range 32).find? (fun q => q != part && bits (tget (s.part q).exports expidx 0).toNat 145 144 == 1 &&
    bits (tget (s.part q).exports expidx 0).toNat 255 192 == key)).map s.frontDie

/-- The packet of a FABRIC access: port, header and beats. -/
def fabricPacket (s : State) (id : Nat) (x : Access) : Nat × Beat × List Beat :=
  let die := x.agent.die
  let part := s.partOf die
  let e := s.importEnt part (bits (offOf x.addr) 51 40)
  let key := bits e 127 64
  let mod := bits e 63 48
  let ddie := if mod = s.modnum die then (exportDie s part (bits e 47 36) key).getD (s.frontDie part)
    else bits (Config.freeWord (part * 4096 + bits (offOf x.addr) 51 40)).toNat 4 0
  let (typ, data, op) := match x.kind with
    | .store => (1, beatsOf x.data x.size, 0)
    | .amo op => (3, [BitVec.ofNat 128 x.data], op)
    | .fadd => (3, [BitVec.ofNat 128 x.data], 31)
    | _ => (2, [], 0)
  let low := bits (offOf x.addr) 39 0 * 2 ^ 26 + x.size.log2 * 2 ^ 23 + op * 2 ^ 17
  (bits e 35 32, mkHdr typ (1 + data.length) mod (s.modnum die) ddie die (bits e 47 36) low,
    mkBeat1 key (x.journal.getD 0) (x.ident id) :: data)

/-- Send a FABRIC access to its peer, with the watch for its answer (08 R214); an own-module import that no export
answers fails the ingress check. -/
def sendFabric (s : State) (id : Nat) (x : Access) : State :=
  let (port, h, bs) := fabricPacket s id x
  let die := x.agent.die
  let own := hDmod h == s.modnum die
  if own && hDdie h == s.frontDie (s.partOf die) && (exportDie s (s.partOf die) (hExp h) (bKey bs)).isNone then refuseAccess s id x 1 21
  else if !own && s.fenced (s.partOf (portDie port)) then refuseAccess s id x 3 20
  else (({ s with net := tset s.net id { x with sent := true, sentAt := s.now } }).route die port h bs).due (.requestReplayTimeout id)

/-! ### The way of an access -/

/-- Put a step back among those due. -/
def again (s : State) (e : Event) : State := s.due e

/-- Whether the target's partition refuses (18 R452): a Sextant's access to another partition's memory. -/
def targetFenced (s : State) (x : Access) : Bool :=
  spaceOf x.addr == 0 && s.partOf (homeDie x.addr) != s.partOf x.agent.die && s.fenced (s.partOf (homeDie x.addr))

/-- A store reaches the next scope of its path (07 R169). -/
def nextScope (s : State) (id l : Nat) (x : Access) : State :=
  ({ s with net := tset s.net id { x with lvl := l, stamp := s.nextId } }).fresh

/-- Whether a load is served from its core's cache (06 R147). -/
def coreHit (s : State) (x : Access) : Bool :=
  match x.kind, x.agent with
  | .load _, .thread _ => (spaceOf x.addr == 0 || spaceOf x.addr == 4) && coreHas s x.core x.addr
  | _, _ => false

/-- A core cache miss is counted: a load's as it first comes to its cluster's port, a store's as it leaves its core (20 R487; 06
R147). -/
def missEv (s : State) (x : Access) : State :=
  if x.agent.isThread && (spaceOf x.addr == 0 || spaceOf x.addr == 4) && !coreHas s x.core x.addr then s.monEv x.agent 4 1 else s

/-- Ask for the fill of a line that the die cache does not hold (06 R148). -/
def askFill (s : State) (id : Nat) (x : Access) (e : Event) : State :=
  again (({ s with net := tset s.net id { x with fill := 1, came := some s.now } }).due (.dieCacheFill (homeDie x.addr) (x.addr / 256) x.owner)) e

/-- Whether an access is a load that its cluster's port fetches by a burst (06 R149). -/
def Access.fetches (x : Access) : Bool := (match x.kind with | .load _ => true | _ => false) && x.agent.isThread

/-- The sectors that an access needs in its line (06 R148): a cluster's load miss fetches the whole line (06 R149). -/
def Access.sectors (x : Access) : BitVec 8 := if x.fetches then wholeLine else sectorsOf x.addr x.size

/-- The sectors are there, or the access does without them. -/
def lineReady (s : State) (x : Access) : Bool :=
  x.fill == 2 || (match lineOf s x.addr with | some l => x.sectors &&& ~~~l.valid == 0 | none => false)

/-- A load miss of another core of the cluster for the same line that has passed the port within the last 8 cycles and
serves this one (06 R149). -/
def mergeLead (s : State) (x : Access) : Option Nat :=
  (s.net.find? (fun p => !p.2.done && p.2.lead.isNone && p.2.fetches &&
    p.2.core != x.core && clusterOf p.2.core == clusterOf x.core && p.2.point != 0 && p.2.fill != 2 && s.now ≤ p.2.portAt + 8 &&
    p.2.addr / 256 == x.addr / 256 && (spaceOf x.addr == 0 || spaceOf x.addr == 4))).map Prod.fst

/-- The effect of a performed load or bypassing access on the core's cache (06 R147); a store to a line that it holds is no
use of it for the replacement (DESIGN CHOICE, log 88). -/
def cacheEffect (s : State) (x : Access) : State :=
  match x.agent with
  | .sextant _ _ => s
  | .thread _ =>
    match x.kind with
    | .load _ => coreTouch (mergeTouch s (clusterOf x.core) x.addr) x.core x.addr
    | .store | .cflush | .lineQuery => s
    | _ => coreDrop s x.core x.addr

/-- An access at a die-cache slice, past its points: fill, then the write or the read. -/
def atSlice (s : State) (id : Nat) (x : Access) (e : Event) : State :=
  if !lineReady s x && x.kind != .lineQuery && x.kind != .cflush then
    (if x.fill = 1 then again s e else askFill s id x e)
  else if x.sliceWrites then s.due (.sliceWrite id)
  else if x.kind = .lineQuery then perform s id x
  else perform (cacheEffect (dieLookup s x.addr x.owner) x) id x

/-- An access as it stands at its next point, to which it comes now unless it stands there already. -/
def Access.arrived (x : Access) (now : Nat) : Access := { x with came := x.came.or (some now) }

/-- An access comes to its next point: it waits for the round there, or passes (17 R424, R425). -/
def atPoint (s : State) (id : Nat) (x0 : Access) (e : Event) : State :=
  let x := x0.arrived s.now
  let s := { s with net := tset s.net id x }
  match pointOf s x with
  | some (c, d, i) =>
    if contended s id x then again (if rivalAt s x.owner (c, d, i) then s.dueOnce (.arbitrationRound d c i) else s) e
    else again (passPoint s id x) e
  | none => s

/-- A load miss at its cluster's port: served from the merge buffer, by another core's burst, or by one of its own
(06 R149). -/
def atClusterPort (s : State) (id : Nat) (x : Access) (e : Event) : State :=
  let s := if x.came.isNone then missEv s x else s
  if mergeHas s (clusterOf x.core) x.addr then perform (coreTouch s x.core x.addr) id x
  else if contended s id (x.arrived s.now) then atPoint s id x e
  else
    let s := passPoint s id x
    let lead := mergeLead s x
    again { s with net := s.net.map (fun (p : Nat × Access) => if p.1 = id then (id, { p.2 with portAt := s.now, lead := lead }) else p) } e

/-- A load miss that another core's burst serves: at once from the buffer when the burst has come, alone where there is none
(06 R149). -/
def atLead (s : State) (id k : Nat) (x : Access) (e : Event) : State :=
  if mergeHas s (clusterOf x.core) x.addr then perform (coreTouch s x.core x.addr) id x
  else match tfind s.net k with
    | some y => again (if y.done then { s with net := tset s.net id { x with lead := none } } else s) e
    | none => again { s with net := tset s.net id { x with lead := none } } e

/-- A FABRIC load that a point of its unit serves from the stores there (07 R169, R182): none where no store on its way
gives a byte; it waits where some give only a part. -/
def forwarded (s : State) (id : Nat) (x : Access) (e : Event) : Option State :=
  let vs := visibleStores s id x
  if spaceOf x.addr ≠ 7 ∨ x.isStore ∨ x.whole ∨ x.kind = .cflush ∨ vs.isEmpty then none
  else if (List.range x.size).all (fun k => (seenByte s vs (x.addr + k)).2.isSome) then some (perform s id x)
  else some (again s e)

/-- The die of an on-module bank or slice that serves an access. -/
def bankDie (a : Nat) : Option Nat :=
  match spaceOf a with
  | 0 => some (homeDie a)
  | 1 => some (dieOf (offOf a / 65536))
  | 2 => some (offOf a / 2 ^ 20 / 200)
  | 3 => some (bits (offOf a) 29 25)
  | _ => none

/-- The partition whose number an access on the PART channel carries though its bank is another's: a hardware fault has
changed the number (18 R440, R441). -/
def mismatch (s : State) (x : Access) : Option Nat :=
  match bankDie x.addr, x.part with
  | some d, some p => if s.partOf d = s.partOf x.agent.die ∧ p ≠ s.partOf d then some p else none
  | _, _ => none

/-- Work whose number is not its bank's partition is discarded, an unrecoverable fault of the partition that it named
(18 R441, R448). -/
def discard (s : State) (id p : Nat) : State := unrecoverable { s with net := terase s.net id } p

/-- MEMORY_ACCESS_ARRIVAL: one move of an access on its way. -/
def moveAccess (s : State) (id : Nat) : State :=
  let e := Event.memoryAccessArrival id
  match tfind s.net id with
  | none => s
  | some x =>
    if x.done || x.sent || x.listed || x.isFe then s
    else if blocked s id x then again s e
    else if x.isStore ∧ storeBehind s id x then again s e
    else match (if x.isStore then x.path.find? (fun l => x.lvl < l) else none) with
    | some l => again (nextScope (if x.lvl = 0 then missEv s x else s) id l x) e
    | none =>
      if targetFenced s x then refuseAccess s id x 3 20
      else if hostHeld s x then again s e
      else if coreHit s x then perform (coreTouch s x.core x.addr) id x
      else match forwarded s id x e, x.lead, pointOf s x with
      | some t, _, _ => t
      | none, some k, _ => atLead s id k x e
      | none, none, some (c, _, _) => if c = 2 && x.fetches then atClusterPort s id x e else atPoint s id x e
      | none, none, none =>
        match mismatch s x, spaceOf x.addr with
        | some p, _ => discard s id p
        | none, 0 | none, 4 => atSlice s id x e
        | none, 7 => if x.kind = .cflush then perform s id x else sendFabric s id x
        | none, _ => perform s id x

/-- MEMORY_ACCESS_ARRIVAL (06 R143). -/
def execMemoryAccessArrival (s : State) : Outc :=
  match s.ev with
  | some (.memoryAccessArrival id) => evDo (.memoryAccessArrival id) (moveAccess s id)
  | _ => .fault .noSuchUnit

/-! ### The replay filter (08 R214) -/

/-- SliceWrite: a replay is not applied again; a full filter makes the request wait, and the owners that wait take a round
(08 R214, 17 R422). -/
def doSliceWrite (s : State) (id : Nat) : State :=
  match tfind s.net id with
  | none => s
  | some x =>
    if x.done || x.sent then s
    else
      let die := homeDie x.addr
      let slice := homeSlice x.addr
      let f := filterOf s die slice
      if f.any (fun p => p.1 == x.ident id) then s
      else if x.isStore && storeBehind s id x then again s (.sliceWrite id)
      else if f.length ≥ 64 ∨ (!x.granted && rivalAt s x.owner (filterPoint x.addr)) then
        let s := if f.length ≥ 64 then s else s.dueOnce (.arbitrationRound die 6 (200 + slice))
        again { s with net := tset s.net id { x.arrived s.now with atFilter := true } } (.sliceWrite id)
      else
        let s := perform (cacheEffect (dieLookup (s.leavePoint die x.owner 6 x.lost) x.addr x.owner) x) id x
        let v := match tfind s.reqs id with | some (.value _ v _ _ _ _) => v | _ => 0
        let s := setFilter s die slice (filterOf s die slice ++ [(x.ident id, v)])
        if (tfind s.net id).isNone then s.due (.replayAck (x.ident id)) else s

/-- SLICE_WRITE (08 R214). -/
def execSliceWrite (s : State) : Outc :=
  match s.ev with
  | some (.sliceWrite id) => evDo (.sliceWrite id) (doSliceWrite s id)
  | _ => .fault .noSuchUnit

/-- REPLAY_ACK: the slice that holds the identifier frees its entry (08 R214). -/
def execReplayAck (s : State) : Outc :=
  match s.ev with
  | some (.replayAck ident) => evDo (.replayAck ident)
      { s with dies := tmap s.dies (fun d => { d with filters := (tmap d.filters (fun l => l.filter (fun p => p.1 != ident))).filter (fun p => !p.2.isEmpty) }) }
  | _ => .fault .noSuchUnit

/-- The cycles after which a request is replayed (08 R214). -/
def replayAfter (x : Access) : Nat := if spaceOf x.addr = 7 then 262144 else 16384

/-- An access whose replays have had no answer: refused, or an unrecoverable fault of its partition (08 R214, 18 R448). -/
def giveUp (s : State) (id : Nat) (x : Access) : State :=
  if x.journal.isSome ∨ spaceOf x.addr = 7 then refuseAccess s id x 7 23
  else unrecoverable s (s.partOf x.agent.die)

/-- Whether an access has passed the scopes and points of its way: its replay, too, finds its home (08 R203, R214). -/
def atHome (s : State) (x : Access) : Bool := (x.path.find? (fun l => x.lvl < l)).isNone && (pointOf s x).isNone && lineReady s x

/-- REQUEST_REPLAY_TIMEOUT of an access: a replay with the same identifier, or the end after three; the replay of a request
still on its way follows it and changes nothing (08 R214). -/
def replayAccess (s : State) (id : Nat) (x : Access) : State :=
  let due := x.sentAt + replayAfter x ≤ s.now
  if x.done ∨ x.listed ∨ x.refused then s
  else if spaceOf x.addr = 7 then
    if !x.sent then s
    else if !due then again s (.requestReplayTimeout id)
    else if x.replays ≥ 3 then giveUp s id x
    else sendFabric s id { x with replays := x.replays + 1 }
  else if x.sent then s
  else if x.replays ≥ 3 then (if due then giveUp s id x else s)
  else
    let s := { s with net := tset s.net id { x with replays := x.replays + 1, sentAt := s.now } }
    if x.sliceWrites && atHome s x then s.due (.sliceWrite id) else s

/-! ### Posted answers (08 R198-R203) -/

/-- A journal entry as bits [63:0] of 08 R199. -/
def journalLow (core index reason : Nat) (j : JEnt) : Nat :=
  j.owner * 2 ^ 52 + j.slot * 2 ^ 46 + j.typ * 2 ^ 44 + j.size * 2 ^ 41 + index * 2 ^ 36 + reason * 2 ^ 32 + j.seq.toNat + core * 0

/-- The trap of a refusal (08 R200); POISON as 06 R165 states. -/
def refusalTrap (core index reason : Nat) (j : JEnt) : AsyncTrap :=
  let m : Mark := if reason = 4 then { cause := .poison, tval := j.pointer, tinfo := info142 0 1 true (bits j.pointer.toNat 63 61) }
    else { cause := (match reason with | 5 => .counterFreed | 6 => .invOverflow | _ => .postedRefused), tval := j.pointer, tinfo := BitVec.ofNat 64 (journalLow core index reason j) }
  { mark := m, seq := j.seq.toNat, isLock := false, journal := some index, refusal := true }

/-- Free an entry of a core's journal. -/
def freeEntry (s : State) (core index : Nat) : State := s.modCore core (fun c => { c with journal := terase c.journal index })

/-- The agent that a journal entry names. -/
def jAgent (core : Nat) (j : JEnt) : Agent := .thread (core * 64 + j.slot)

/-- Record a refusal: for a thread in its slot it holds the entry until the trap is taken, for a saved thread it goes
into its context and the entry frees (08 R198, R202). -/
def recordRefusal (s : State) (core index reason : Nat) (j : JEnt) : State :=
  let a := jAgent core j
  let x := refusalTrap core index reason j
  if s.tagLive a j.tag then
    (s.modCore core (fun c => { c with journal := tset c.journal index { j with reason := reason } })).raise a j.tag x
  else freeEntry (s.raise a j.tag { x with journal := none }) core index

/-- POSTED_ANSWER_ARRIVAL: an acceptance frees the entry and S falls, a refusal is recorded (08 R198-R203). -/
def postedAnswer (s : State) (core index reason : Nat) : State :=
  match tfind (s.core core).journal index with
  | none => s
  | some j =>
    if j.reason ≠ 0 then s
    else
      let s := match tfind s.net j.id with
        | some x => endStore (if x.sliceWrites then s.due (.replayAck (x.ident j.id)) else s) j.id x
        | none => if j.typ = 2 then s.modTag (jAgent core j) j.tag (fun t => { t with cnt := { t.cnt with s := t.cnt.s - 1 } }) else s
      let s := { s with reqs := if j.typ = 0 then s.reqs else terase s.reqs j.id }
      if reason = 0 then freeEntry s core index else recordRefusal s core index (reason % 16) j

/-- POSTED_ANSWER_ARRIVAL (08 R200). -/
def execPostedAnswerArrival (s : State) : Outc :=
  match s.ev with
  | some (.postedAnswerArrival core index reason) => evDo (.postedAnswerArrival core index reason) (postedAnswer s core index reason)
  | _ => .fault .noSuchUnit

/-! ### Packets (08 R214) -/

/-- The cycles after which a packet is replayed (08 R214): longer where it leaves the module. -/
def packetAfter (s : State) (die : Nat) (h : Beat) : Nat := if hDmod h = s.modnum die then 16384 else 262144

/-- Whether a packet may not leave: its port's partition refuses (18 R452). -/
def portFenced (s : State) (die port : Nat) (h : Beat) : Bool := hDmod h != s.modnum die && s.fenced (s.partOf (portDie port))

/-- The way of a packet from a place: to the egress of its port, or within the module to its die (17 R422). -/
def packetWay (s : State) (src die port : Nat) (h : Beat) : List Stop :=
  plain (if hDmod h = s.modnum die then crossed src (diePlace (hDdie h)) else toPort src port)

/-- A packet leaves its core through the points of its way (16 R401, 15 R394; 17 R424, R428). -/
def departPacket (s : State) (id core journal die port : Nat) (h : Beat) (bs : List Beat) : State :=
  if portFenced s die port h then
    (if hTyp h = 5 then (dropClaim s id).due (.answer die (mkHdr 7 1 (hSmod h) (hSmod h) die die 0 0) [BitVec.ofNat 128 (statusByte (-5) * 2 ^ 48 + bIdent bs)])
     else (dropClaim s id).due (.postedAnswerArrival core journal 3))
  else match claimStep s id (s.ownerOf core) (packetWay s (clusterOf core) die port h) with
  | .wait t => again t (.requestReplayTimeout id)
  | .thru t => (({ t with reqs := tset t.reqs id (.sent core journal die port h bs 0 t.now true) }).route die port h bs).due (.requestReplayTimeout id)

/-- The groups of a die with a token have been answered (16 R411). -/
def groupAnswered (s : State) (die token : Nat) : State :=
  { s with launches := tmap s.launches (fun l => if l.home = die then { l with inv := l.inv.map (fun (r : InvRec) => if r.token.toNat = token then { r with token := 0 } else r) } else l) }

/-- A REPLY leaves its core through the points of its way: S falls where the fabric takes it, and one to a
peer is then taken to have answered its group (16 R411; 17 R424, R428; DEDUCED, log 118). -/
def departReply (s : State) (id slot tag die port : Nat) (h : Beat) (bs : List Beat) : State :=
  match claimStep s id (s.ownerOf (coreOf slot)) (packetWay s (clusterOf (coreOf slot)) die port h) with
  | .wait t => again t (.requestReplayTimeout id)
  | .thru t =>
    if hDmod h = t.modnum die then ({ t with reqs := tset t.reqs id (.reply slot tag die port h bs true) }).route die port h bs
    else (groupAnswered (({ t with reqs := terase t.reqs id }).modTag (.thread slot) tag (fun u => u.uncount false)) die ((beat1 bs).toNat / 2 ^ 64)).route die port h bs

/-- REQUEST_REPLAY_TIMEOUT of a packet that awaits its answer: replayed, or given up after three replays: UNREACHABLE
for an invocation, REASON 7 (16 R401, 08 R214). -/
def replayPacket (s : State) (id core journal die port : Nat) (h : Beat) (bs : List Beat) (n at_ : Nat) : State :=
  if s.now < at_ + packetAfter s die h then again s (.requestReplayTimeout id)
  else if n < 3 then
    (({ s with reqs := tset s.reqs id (.sent core journal die port h bs (n + 1) s.now true) }).route die port h bs).due (.requestReplayTimeout id)
  else if hTyp h = 5 then s.due (.answer die h [BitVec.ofNat 128 (statusByte (-5) * 2 ^ 48 + bIdent bs)])
  else s.due (.postedAnswerArrival core journal 7)

/-- REQUEST_REPLAY_TIMEOUT of a copy engine's FABRIC request: replayed, or given up after three replays, as the answer
UNREACHABLE (08 R214, 11 R285). -/
def replayEngine (s : State) (id x key : Nat) (ea : BitVec 64) (cells k die port : Nat) (h : Beat) (bs : List Beat) (n at_ : Nat) : State :=
  if s.now < at_ + 262144 then again s (.requestReplayTimeout id)
  else if n < 3 then
    (({ s with reqs := tset s.reqs id (.engine x key ea cells k die port h bs (n + 1) s.now) }).route die port h bs).due (.requestReplayTimeout id)
  else s.due (.answer die h [BitVec.ofNat 128 (statusByte (-5) * 2 ^ 48 + bIdent bs)])

/-- REQUEST_REPLAY_TIMEOUT of a queue's INVOKE: replayed, or given up after three replays: UNREACHABLE (08 R214). -/
def replayQueue (s : State) (id part k die port : Nat) (h : Beat) (bs : List Beat) (n at_ : Nat) : State :=
  if s.now < at_ + packetAfter s die h then again s (.requestReplayTimeout id)
  else if n < 3 then
    (({ s with reqs := tset s.reqs id (.queue part k die port h bs (n + 1) s.now) }).route die port h bs).due (.requestReplayTimeout id)
  else s.due (.answer die h [BitVec.ofNat 128 (statusByte (-5) * 2 ^ 48 + bIdent bs)])

/-- REQUEST_REPLAY_TIMEOUT of the decrement of a DONE counter at a peer: replayed, or given up after three replays as a
refusal, counted in LAUNCH_DONE_REFUSED (15 R371, 08 R214). -/
def replayDone (s : State) (id die owner port : Nat) (h : Beat) (bs : List Beat) (n at_ : Nat) : State :=
  if s.now < at_ + packetAfter s die h then again s (.requestReplayTimeout id)
  else if n < 3 then
    (({ s with reqs := tset s.reqs id (.done die owner port h bs (n + 1) s.now) }).route die port h bs).due (.requestReplayTimeout id)
  else { s with reqs := terase s.reqs id }.dieEv die 1 owner

/-- REQUEST_REPLAY_TIMEOUT (08 R214). -/
def execRequestReplayTimeout (s : State) : Outc :=
  match s.ev with
  | some (.requestReplayTimeout id) => evDo (.requestReplayTimeout id)
      (match tfind s.net id, tfind s.reqs id with
        | some x, _ => replayAccess s id x
        | none, some (.sent core journal die port h bs n t true) => replayPacket s id core journal die port h bs n t
        | none, some (.sent core journal die port h bs _ _ false) => departPacket s id core journal die port h bs
        | none, some (.reply slot tag die port h bs false) => departReply s id slot tag die port h bs
        | none, some (.queue part k die port h bs n t) => replayQueue s id part k die port h bs n t
        | none, some (.done die owner port h bs n t) => replayDone s id die owner port h bs n t
        | none, some (.engine x key ea cells k die port h bs n t) => replayEngine s id x key ea cells k die port h bs n t
        | none, _ => s)
  | _ => .fault .noSuchUnit

/-! ### Values for registers (05 R120, 06 R164, 08 R490) -/

/-- A word late in its place of a neighbour's queue arrives (11 R293). -/
def fillComing (s : State) (core queue place : Nat) (w : PortWord) : State :=
  (s.modCore core (fun c => c.setQueue queue { c.queue queue with
    coming := (c.queue queue).coming.map (fun p => if p.1 = place ∧ p.2.isNone then (p.1, some w) else p) })).due (.portWordArrival core queue)

/-- Deliver a value or a mark to a register entry: PRESENT with its count, or PENDING with the mark; for x0 a mark is an
asynchronous trap (05 R120, 06 R164).  A marked word that a load or atomic pushes to a neighbour keeps the access's pointer as its
TVAL: DESIGN CHOICE, 11 R293 gives both that and 0 for a word from a link (log 110). -/
def deliver (s : State) (id : Nat) (dst : RegDst) (v : BitVec 64) (m : Option Mark) : State :=
  match dst.push with
  | some (core, q, place) => fillComing s core q place { val := v, mark := m, slot := dst.agent.num }
  | none =>
    if dst.reg = 0 then (match m with | some k => s.raise dst.agent dst.tag (asyncOf k) | none => s)
    else s.modTag dst.agent dst.tag (fun t =>
      let e := t.ent dst.reg
      if e.st = .pending ∧ e.req = id then
        (match m with
         | none => writeEnt t dst.reg v dst.cnt
         | some k => t.setMark dst.reg k)
      else t)

/-- REGISTER_VALUE_ARRIVAL: the value is delivered, L falls, flags join (06 R145, R159). -/
def doValueArrival (s : State) (id : Nat) : State :=
  match tfind s.reqs id with
  | some (.value dst v m countsL _ f) =>
    let s := match tfind s.net id with
      | some x => if x.sliceWrites then s.due (.replayAck (x.ident id)) else s
      | none => s
    let s := { s with reqs := terase s.reqs id, net := terase s.net id }
    let s := deliver s id dst v m
    let s := if countsL then s.modTag dst.agent dst.tag (fun t => { t with cnt := { t.cnt with l := t.cnt.l - 1 } }) else s
    s.joinFlags dst.agent dst.tag f
  | _ => s

/-- REGISTER_VALUE_ARRIVAL (05 R120). -/
def execRegisterValueArrival (s : State) : Outc :=
  match s.ev with
  | some (.registerValueArrival id) => evDo (.registerValueArrival id) (doValueArrival s id)
  | _ => .fault .noSuchUnit

/-- The answer of a unit to an instruction: a value that will arrive (05 R120). -/
def answerValue (s : State) (id : Nat) (dst : RegDst) (v : BitVec 64) (countsL : Bool) : State :=
  ({ s with reqs := tset s.reqs id (.value dst v none countsL none 0) }).due (.registerValueArrival id)

/-- RESERVATION_EXPIRY: lost 4,096 cycles after the LR (06 R156). -/
def execReservationExpiry (s : State) : Outc :=
  match s.ev with
  | some (.reservationExpiry n) => evDo (.reservationExpiry n)
      (match (s.getTh (agentOf n)).bind (fun t => t.resv) with
        | none => s
        | some r => if r.expires ≤ s.now then s.modTh (agentOf n) (fun t => { t with resv := none }) else again s (.reservationExpiry n))
  | _ => .fault .noSuchUnit

/-- MERGE_BUFFER_EXPIRY (06 R149). -/
def execMergeBufferExpiry (s : State) : Outc :=
  match s.ev with
  | some (.mergeBufferExpiry c l) => evDo (.mergeBufferExpiry c l)
      (if (s.cluster c).merge.any (fun m => m.1 == l && s.now < m.2) then again s (.mergeBufferExpiry c l)
       else s.modCluster c (fun r => { r with merge := r.merge.filter (fun m => m.1 != l) }))
  | _ => .fault .noSuchUnit

/-- Whether an access waits for the fill of a line by an owner. -/
def fillWaits (line owner : Nat) (x : Access) : Bool := x.fill == 1 && x.addr / 256 == line && x.owner == owner

/-- DIE_CACHE_FILL: the sectors are read from their package, where the owners that wait take a round (17 R422, R424) and row
hits go first (17 R425), for the accesses that wait for them (06 R148, 17 R423). -/
def doFill (s : State) (die line owner : Nat) : State :=
  let a := line * 256
  let w := s.net.filter (fun p => fillWaits line owner p.2)
  match w with
  | [] => s
  | (_, x) :: _ =>
    let p := controller a
    let need := w.foldl (fun v y => v ||| y.2.sectors) 0
    let held : Bool := match lineOf s a with | some l => (need &&& ~~~l.valid) == 0 | none => false
    let won := w.any (fun y => y.2.granted)
    if !held && !isHost a && !won && w.all (fun y => behind s p (y.2.waiting y.1)) then again s (.dieCacheFill die line owner)
    else if !held && !isHost a && !won && rivalAt s owner p then
      again (s.dueOnce (.arbitrationRound p.2.1 1 p.2.2)) (.dieCacheFill die line owner)
    else
      let lost := (w.map (fun y => y.2.lost)).foldl max 0
      let s := if held then s
        else sectorFill (if isHost a then s else setRow (s.leavePoint die owner 1 lost) p (Config.rowOf a)) a owner
          (placeKey s a owner (s.partOf x.agent.die) x.shared) need
      { s with net := tmap s.net (fun y => if fillWaits line owner y then { y with fill := 2, came := none, granted := false, lost := 0 } else y) }

/-- DIE_CACHE_FILL (17 R423). -/
def execDieCacheFill (s : State) : Outc :=
  match s.ev with
  | some (.dieCacheFill die line owner) => evDo (.dieCacheFill die line owner) (doFill s die line owner)
  | _ => .fault .noSuchUnit

/-- BANK_WATCH_EVENT: the debug event reaches Sextant's event ring (08 R216, 19 R472). -/
def execBankWatchEvent (s : State) : Outc :=
  match s.ev with
  | some (.bankWatchEvent die slice unit addr cls owner ident) => evDo (.bankWatchEvent die slice unit addr cls owner ident)
      (s.due (.eventRecord die (BitVec.ofNat 64 (2 * 2 ^ 56 + slice)) 0
        (BitVec.ofNat 64 (cls.toNat * 2 ^ 60 + owner.toNat * 2 ^ 48 + unit % 4 * 2 ^ 46 + ident.toNat)) addr))
  | _ => .fault .noSuchUnit

/-! ### Full/empty accesses (06 R150-R153) -/

/-- Whether a full/empty access may proceed (06 R161). -/
def feReady (s : State) (x : Access) : Bool :=
  match x.kind with
  | .ldfe | .ldff => s.feBit x.addr
  | .stfe => !s.feBit x.addr
  | _ => true

/-- A full/empty access takes effect on its word (06 R161, R164): a bad word delivers no value and is left unchanged. -/
def feEffect (s0 : State) (id : Nat) (x : Access) : State :=
  let s := if spaceOf x.addr = 0 then cacheEffect s0 x else s0
  match x.kind with
  | .ldfe | .ldff =>
    (match readError s [] x.addr 8 with
     | some c => answerFe s id x 0 (some (accMark c 0 x))
     | none =>
       let v := s.rd x.addr 8
       answerFe (if x.kind = .ldfe then s.setFe x.addr false else s) id x v none)
  | .stfe | .stff => answerFe ((s.perfWrite (x.writes id) x.addr x.data 8).setFe x.addr true) id x 0 none
  | .feset b => answerFe (s.setFe x.addr b) id x 0 none
  | _ => s

/-- The earliest waiter on a word whose condition holds (06 R151). -/
def nextWaiter (s : State) (w : Nat) : Option (Nat × Access) :=
  (waitList s w).findSome? (fun k => match tfind s.net k with
    | some x => if x.addr = w ∧ feReady s x then some (k, x) else none
    | none => none)

/-- ServeWord, with fuel for the waiters (06 R151). -/
def serveWord (s : State) (w : Nat) : Nat → State
  | 0 => s
  | n + 1 =>
    match nextWaiter s w with
    | none => s
    | some (k, x) => serveWord (feEffect (setWaitList s w ((waitList s w).filter (fun j => j != k))) k x) w n

/-- A refused entry: the thread reissues after its backoff (06 R152). -/
def feRefused (s : State) (id : Nat) (x : Access) : State :=
  let k := x.replays
  let t := s.now + 64 * 2 ^ min k 6
  let back := fun (h : Thread) => if h.prog = Prog.asked id then { h.uncount x.loadLike with prog := .retried (k + 1), park := some (.feRetry t) } else h.uncount x.loadLike
  (({ s with net := terase s.net id }).modTag x.agent x.tag back).due (.feListRetry x.agent.num)

/-- A full/empty write of a TAGGED page stands in the filter of its slice from its arrival on, so that a replay finds it
(08 R214). -/
def feEnter (s : State) (id : Nat) (x : Access) : State :=
  match x.kind with
  | .stfe | .stff =>
    if spaceOf x.addr = 0 then
      setFilter s (homeDie x.addr) (homeSlice x.addr) (filterOf s (homeDie x.addr) (homeSlice x.addr) ++ [(x.ident id, 0)])
    else s
  | _ => s

/-- A full/empty access at the place that holds its word: it takes effect, is refused by a full list, or enters it
(06 R151, R152). -/
def atWord (s : State) (id : Nat) (x : Access) : State :=
  if feReady s x then serveWord (feEffect (feEnter s id x) id x) x.addr 65
  else if (waitList s x.addr).length ≥ 64 then feRefused s id x
  else
    let s := feEnter s id x
    setWaitList { s with net := tset s.net id { x with listed := true } } x.addr (waitList s x.addr ++ [id])

/-- FE_ACCESS_ARRIVAL: the access passes its points, the line of a word of a TAGGED page is filled, and it reaches the place
that holds its word (06 R148, R151; 17 R422, R430). -/
def doFeArrival (s : State) (id : Nat) : State :=
  match tfind s.net id with
  | none => s
  | some x =>
    if !x.isFe || x.listed || x.done then s
    else if blocked s id x then again s (.feAccessArrival id)
    else if targetFenced s x then refuseAccess s id x 3 20
    else match pointOf s x with
      | some p => if filterFull s p then again s (.feAccessArrival id) else atPoint s id x (.feAccessArrival id)
      | none =>
        match mismatch s x with
        | some p => discard s id p
        | none =>
        if spaceOf x.addr ≠ 0 then atWord s id x
        else if !lineReady s x then
          (if x.fill = 1 then again s (.feAccessArrival id) else askFill s id x (.feAccessArrival id))
        else atWord (dieLookup s x.addr x.owner) id x

/-- FE_ACCESS_ARRIVAL (06 R151). -/
def execFeAccessArrival (s : State) : Outc :=
  match s.ev with
  | some (.feAccessArrival id) => evDo (.feAccessArrival id) (doFeArrival s id)
  | _ => .fault .noSuchUnit

/-- FE_LIST_RETRY: after its backoff the thread reissues (06 R152). -/
def execFeListRetry (s : State) : Outc :=
  match s.ev with
  | some (.feListRetry n) => evDo (.feListRetry n)
      (match (s.getTh (agentOf n)).bind (fun t => t.park) with
        | some (.feRetry c) => if c ≤ s.now then s.wake (agentOf n) else again s (.feListRetry n)
        | _ => s)
  | _ => .fault .noSuchUnit

/-! ### The host (08 R205, 17 R421, 18 R452, 20 R475) -/

/-- The device address of a host offset in a partition's range (20 R475). -/
def hdmPlace (s : State) (p o : Nat) : Option Nat :=
  let ds := s.diesOf p
  let g := Config.g7Bytes * ds.length
  if o < g then ds[o / Config.g7Bytes]?.map (fun d => aDev (d * 2 ^ 38 + o % Config.g7Bytes))
  else ds[(o - g) / Config.l6Bytes]?.map (fun d => aDev (d * 2 ^ 38 + 2 ^ 37 + (o - g) % Config.l6Bytes))

/-- Whether a partition holds host requests at die 0 (18 R452). -/
def hostWaits (s : State) (p : Nat) : Bool := (s.part p).st == 2 || (s.part p).st == 3

/-- A host line fill: line owner 0 under the partition's key (17 R421). -/
def hostFill (s : State) (a n : Nat) : State :=
  (linesIn a n).foldl (fun s p => sectorFill s p.1 0 (4096 + s.partOf (homeDie p.1)) (sectorsOf p.1 p.2)) s

/-- The writer record of the host: its CXL requester identifier is a free value (08 R216; log 99). -/
def hostWriter (s : State) : Writer := { cls := 5, owner := 0, ident := bits (Config.freeWord s.tick).toNat 15 0, tag := 0, core := 409600 }

/-- The directory records that the host has read the lines of n bytes (07 R186). -/
def hostRead (s : State) (a n : Nat) : State :=
  (linesIn a n).foldl (fun s p => s.modDie (homeDie p.1) (fun d => { d with hostCopies := setAdd d.hostCopies (lineNo p.1) })) s

/-- HOST_MEM_REQUEST: served at the home slice (08 R205), 64 bytes a read. -/
def doHostMem (s : State) (p : Nat) (w : Bool) (o : Nat) (data : List (BitVec 8)) : State :=
  if hostWaits s p then s.dueFirst (.hostMemRequest p w o data)
  else match hdmPlace s p o with
  | none => s
  | some a =>
    let n := if w then data.length else 64
    let s := hostFill s a n
    if w then (s.perfWrite (hostWriter s) a (data.foldr (fun b v => b.toNat + 256 * v) 0) n).tock
    else (hostRead s a n).out (.hostData (s.rdBytes a n))

/-- HOST_MEM_REQUEST (08 R205, 20 R475). -/
def execHostMemRequest (s : State) : Outc :=
  match s.ev with
  | some (.hostMemRequest p w o data) => evDo (.hostMemRequest p w o data) (doHostMem s p w o data)
  | _ => .fault .noSuchUnit

/-- HOST_COHERENCE_REQUEST: the host takes the line that die 0's cache holds, found through the directory: for a shared
copy (kind 0) it is written back, otherwise it leaves the caches and the host may write it (17 R421, 06 R147). -/
def doHostCoherence (s : State) (line kind : Nat) : State :=
  let a := aHost (line * 256)
  if kind = 0 then lineClean s a
  else
    let s := match lineOf s a with | some l => lineDrop s 0 l | none => s
    (s.wrBytes a ((List.range 256).map (fun k => BitVec.ofNat 8 (bits (Config.freeWord (s.tick * 32 + k / 8)).toNat (8 * (k % 8) + 7) (8 * (k % 8)))))).tock.wrote (hostWriter s) a 256

/-- HOST_COHERENCE_REQUEST (17 R421). -/
def execHostCoherenceRequest (s : State) : Outc :=
  match s.ev with
  | some (.hostCoherenceRequest line kind) => evDo (.hostCoherenceRequest line kind) (doHostCoherence s line kind)
  | _ => .fault .noSuchUnit

end Sys2Proof.Machine
end

