-- ==== Sys2Proof/Machine/Release.lean ====
section
/-!
DEFINITION. Release: the waits of releases and acquires (07 R170-R172, R189; 08 R201), for fences, barriers and the accesses
that release.
-/
namespace Sys2Proof.Machine

/-- Whether an access is an agent's thread's. -/
def ofThread (a : Agent) (t : Thread) (x : Access) : Bool := if t.tag = 0 ∧ x.tag = 0 then x.agent == a else x.tag == t.tag

/-- Whether every load, LR, AMO and full/empty read numbered below last has delivered (07 R170, R171). -/
def delivered (s : State) (a : Agent) (t : Thread) (last : Nat) : Bool :=
  s.net.all (fun p => p.1 ≥ last || !ofThread a t p.2 || !p.2.loadLike)

/-- The set bits of a touched-bank mask. -/
def maskBits (t : Thread) : List Nat := (List.range 101).filter (fun k => bitAt t.touched.toNat k)

/-- Whether the wait of a thread's fence or barrier is over (07 R189, R201). -/
def probesDone (s : State) (a : Agent) (t : Thread) (sc last : Nat) (bs : List Nat) : Bool :=
  bs.isEmpty && delivered s a t last && (sc < 3 || !refusalPending t)

/-- Wait for what a release at a scope needs (probe), or an acquire: none when the wait is over, else the park. -/
def orderWait (e : Env) (probe : Bool) (sc : Nat) : Option Res :=
  match e.th.prog with
  | .probes sc' last at_ bs =>
    if probesDone e.s e.ag e.th sc' last bs then none else some (.park .fence (.probes sc' last at_ bs) e.s)
  | _ =>
    let last := e.s.nextId
    let bs := if probe ∧ sc ≠ 0 then maskBits e.th else []
    if probesDone e.s e.ag e.th (if probe then sc else 0) last bs then none
    else some (.park .fence (.probes (if probe then sc else 0) last e.s.now bs) (e.s.dues (bs.map (fun b => Event.fenceEchoArrival e.ag.num b))))

/-- The wait of an access at a checked target that releases at a scope: it parks on its echoes and undelivered refusals as a
fence does, and is issued when they are over (07 R171, R186; 08 R201). -/
def released (e : Env) (s : State) (rel : Option Nat) (go : Res) : Res :=
  match rel with
  | none => go
  | some sc =>
    match orderWait { e with s := s } true sc with
    | some r => r
    | none => go

/-- Whether the progress of an instruction shows that its release is behind it: it has asked for something since. -/
def pastRelease (g : Prog) : Bool :=
  match g with
  | .words _ _ | .denied _ _ | .retried _ => true
  | _ => false

/-- The wait of an instruction that releases at a scope before it asks another unit: it parks at its issue as a fence does, so
that a refusal which arrives meanwhile is taken and the instruction reissued (07 R171; 08 R201; log 62). -/
def releasing (e : Env) (sc : Nat) (go : Res) : Res :=
  if pastRelease e.th.prog then go else released e e.s (some sc) go

/-- The acquire at the leave of a barrier: every earlier load of the thread has delivered, or the thread parks as it stands
(07 R170, R195). -/
def acquired (e : Env) (s : State) (r : Res) : Res :=
  if delivered s e.ag e.th s.nextId then r else .park .fence e.th.prog s

end Sys2Proof.Machine
end

