-- ==== Sys2Proof/Machine/Scalar.lean ====
section
/-!
DEFINITION. Scalar: the base integer and M instructions (05 R126), Zicsr (05 R128, R129; 03 R76-R78), ccnt and rel
(05 R130, R131).
-/
namespace Sys2Proof.Machine

/-! ### Value operations (05 R126) -/

/-- An immediate sign-extended to 64 bits (03 R57). -/
def sext {n : Nat} (v : BitVec n) : Word := v.signExtend 64

/-- The low 32 bits sign-extended: the result of a word form. -/
def wordRes (v : Word) : Word := (v.setWidth 32).signExtend 64

/-- One or zero. -/
def flagWord (c : Bool) : Word := if c then 1 else 0

/-- Signed quotient, with the choices of 05 R126. -/
def divS {n : Nat} (a b : BitVec n) : BitVec n := if b = 0 then -1 else BitVec.ofInt n (a.toInt.tdiv b.toInt)
/-- Unsigned quotient, with the choices of 05 R126. -/
def divU {n : Nat} (a b : BitVec n) : BitVec n := if b = 0 then -1 else BitVec.ofNat n (a.toNat / b.toNat)
/-- Signed remainder, with the choices of 05 R126. -/
def remS {n : Nat} (a b : BitVec n) : BitVec n := if b = 0 then a else BitVec.ofInt n (a.toInt.tmod b.toInt)
/-- Unsigned remainder, with the choices of 05 R126. -/
def remU {n : Nat} (a b : BitVec n) : BitVec n := if b = 0 then a else BitVec.ofNat n (a.toNat % b.toNat)

/-- High half of a product of two integers. -/
def highHalf (x y : Int) : Word := BitVec.ofInt 64 ((x * y) / 2 ^ 64)

/-- A word form: the operation on the low 32 bits, sign-extended. -/
def word32 (f : BitVec 32 → BitVec 32 → BitVec 32) (a b : Word) : Word := (f (a.setWidth 32) (b.setWidth 32)).signExtend 64

/-- The amount of a shift: the low 6 bits (05 R126). -/
def sh6 (b : Word) : Nat := b.toNat % 64
/-- The amount of a word shift: the low 5 bits (05 R126). -/
def sh5 {n : Nat} (b : BitVec n) : Nat := b.toNat % 32

/-! ### Shared forms -/

/-- A register and an immediate to a register. -/
def runImm (s : State) (i : Instr) (d x : BitVec 5) (f : Word → Word) : Outc :=
  runIns s i { dst := some d, srcs := [(1, x)] } (fun e => done e (f e.a))

/-- Two registers to a register. -/
def runReg (s : State) (i : Instr) (d x y : BitVec 5) (f : Word → Word → Word) : Outc :=
  runIns s i { dst := some d, srcs := [(1, x), (2, y)] } (fun e => done e (f e.a e.b))

/-- A control transfer to a target (03 R53): MISALIGNED when it is not a multiple of 4. -/
def goTo (e : Env) (target : Word) (r : DstW) : Res :=
  if target.toNat % 4 ≠ 0 then .trap .misaligned target (info142 0 15 false (bits target.toNat 63 61))
  else .ok { s := e.s, dst := r, pc := some target }

/-- A conditional branch: imm holds bits [12:1] of the offset (03 R57). -/
def runBranch (s : State) (i : Instr) (x y : BitVec 5) (imm : BitVec 12) (c : Word → Word → Bool) : Outc :=
  runIns s i { srcs := [(1, x), (2, y)] }
    (fun e => if c e.a e.b then goTo e (e.th.pc + sext imm * 2) .none else doneS e.s)

/-! ### RV64I (05 R126) -/

/-- lui (05 R126). -/
def execLui (d : BitVec 5) (imm : BitVec 20) (st : State) : Outc :=
  runIns st (.lui d imm) { dst := some d } (fun e => done e (sext (imm ++ (0 : BitVec 12))))

/-- auipc (05 R126). -/
def execAuipc (d : BitVec 5) (imm : BitVec 20) (st : State) : Outc :=
  runIns st (.auipc d imm) { dst := some d } (fun e => done e (e.th.pc + sext (imm ++ (0 : BitVec 12))))

/-- jal: imm holds bits [20:1] of the offset (05 R126). -/
def execJal (d : BitVec 5) (imm : BitVec 20) (st : State) : Outc :=
  runIns st (.jal d imm) { dst := some d } (fun e => goTo e (e.th.pc + sext imm * 2) (.val (e.th.pc + 4)))

/-- jalr (05 R126). -/
def execJalr (d s : BitVec 5) (imm : BitVec 12) (st : State) : Outc :=
  runIns st (.jalr d s imm) { dst := some d, srcs := [(1, s)] }
    (fun e => goTo e ((e.a + sext imm) &&& ~~~(1 : Word)) (.val (e.th.pc + 4)))

/-- beq (05 R126). -/
def execBeq (s t : BitVec 5) (imm : BitVec 12) (st : State) : Outc :=
  runBranch st (.beq s t imm) s t imm (fun a b => a == b)

/-- bne (05 R126). -/
def execBne (s t : BitVec 5) (imm : BitVec 12) (st : State) : Outc :=
  runBranch st (.bne s t imm) s t imm (fun a b => a != b)

/-- blt (05 R126). -/
def execBlt (s t : BitVec 5) (imm : BitVec 12) (st : State) : Outc :=
  runBranch st (.blt s t imm) s t imm (fun a b => a.slt b)

/-- bge (05 R126). -/
def execBge (s t : BitVec 5) (imm : BitVec 12) (st : State) : Outc :=
  runBranch st (.bge s t imm) s t imm (fun a b => !a.slt b)

/-- bltu (05 R126). -/
def execBltu (s t : BitVec 5) (imm : BitVec 12) (st : State) : Outc :=
  runBranch st (.bltu s t imm) s t imm (fun a b => a.ult b)

/-- bgeu (05 R126). -/
def execBgeu (s t : BitVec 5) (imm : BitVec 12) (st : State) : Outc :=
  runBranch st (.bgeu s t imm) s t imm (fun a b => !a.ult b)

/-- addi (05 R126). -/
def execAddi (d s : BitVec 5) (imm : BitVec 12) (st : State) : Outc :=
  runImm st (.addi d s imm) d s (fun a => a + sext imm)

/-- slti (05 R126). -/
def execSlti (d s : BitVec 5) (imm : BitVec 12) (st : State) : Outc :=
  runImm st (.slti d s imm) d s (fun a => flagWord (a.slt (sext imm)))

/-- sltiu (05 R126). -/
def execSltiu (d s : BitVec 5) (imm : BitVec 12) (st : State) : Outc :=
  runImm st (.sltiu d s imm) d s (fun a => flagWord (a.ult (sext imm)))

/-- xori (05 R126). -/
def execXori (d s : BitVec 5) (imm : BitVec 12) (st : State) : Outc :=
  runImm st (.xori d s imm) d s (fun a => a ^^^ sext imm)

/-- ori (05 R126). -/
def execOri (d s : BitVec 5) (imm : BitVec 12) (st : State) : Outc :=
  runImm st (.ori d s imm) d s (fun a => a ||| sext imm)

/-- andi (05 R126). -/
def execAndi (d s : BitVec 5) (imm : BitVec 12) (st : State) : Outc :=
  runImm st (.andi d s imm) d s (fun a => a &&& sext imm)

/-- addiw (05 R126). -/
def execAddiw (d s : BitVec 5) (imm : BitVec 12) (st : State) : Outc :=
  runImm st (.addiw d s imm) d s (fun a => wordRes (a + sext imm))

/-- slli (05 R126). -/
def execSlli (d s : BitVec 5) (sh : BitVec 6) (st : State) : Outc :=
  runImm st (.slli d s sh) d s (fun a => a <<< sh.toNat)

/-- srli (05 R126). -/
def execSrli (d s : BitVec 5) (sh : BitVec 6) (st : State) : Outc :=
  runImm st (.srli d s sh) d s (fun a => a >>> sh.toNat)

/-- srai (05 R126). -/
def execSrai (d s : BitVec 5) (sh : BitVec 6) (st : State) : Outc :=
  runImm st (.srai d s sh) d s (fun a => a.sshiftRight sh.toNat)

/-- slliw (05 R126). -/
def execSlliw (d s : BitVec 5) (sh : BitVec 5) (st : State) : Outc :=
  runImm st (.slliw d s sh) d s (fun a => word32 (fun x _ => x <<< sh.toNat) a 0)

/-- srliw (05 R126). -/
def execSrliw (d s : BitVec 5) (sh : BitVec 5) (st : State) : Outc :=
  runImm st (.srliw d s sh) d s (fun a => word32 (fun x _ => x >>> sh.toNat) a 0)

/-- sraiw (05 R126). -/
def execSraiw (d s : BitVec 5) (sh : BitVec 5) (st : State) : Outc :=
  runImm st (.sraiw d s sh) d s (fun a => word32 (fun x _ => x.sshiftRight sh.toNat) a 0)

/-- add (05 R126). -/
def execAdd (d s t : BitVec 5) (st : State) : Outc :=
  runReg st (.add d s t) d s t (fun a b => a + b)

/-- sub (05 R126). -/
def execSub (d s t : BitVec 5) (st : State) : Outc :=
  runReg st (.sub d s t) d s t (fun a b => a - b)

/-- sll (05 R126). -/
def execSll (d s t : BitVec 5) (st : State) : Outc :=
  runReg st (.sll d s t) d s t (fun a b => a <<< sh6 b)

/-- slt (05 R126). -/
def execSlt (d s t : BitVec 5) (st : State) : Outc :=
  runReg st (.slt d s t) d s t (fun a b => flagWord (a.slt b))

/-- sltu (05 R126). -/
def execSltu (d s t : BitVec 5) (st : State) : Outc :=
  runReg st (.sltu d s t) d s t (fun a b => flagWord (a.ult b))

/-- xor (05 R126). -/
def execXor (d s t : BitVec 5) (st : State) : Outc :=
  runReg st (.xor d s t) d s t (fun a b => a ^^^ b)

/-- srl (05 R126). -/
def execSrl (d s t : BitVec 5) (st : State) : Outc :=
  runReg st (.srl d s t) d s t (fun a b => a >>> sh6 b)

/-- sra (05 R126). -/
def execSra (d s t : BitVec 5) (st : State) : Outc :=
  runReg st (.sra d s t) d s t (fun a b => a.sshiftRight (sh6 b))

/-- or (05 R126). -/
def execOr (d s t : BitVec 5) (st : State) : Outc :=
  runReg st (.or d s t) d s t (fun a b => a ||| b)

/-- and (05 R126). -/
def execAnd (d s t : BitVec 5) (st : State) : Outc :=
  runReg st (.and d s t) d s t (fun a b => a &&& b)

/-- mul (05 R126). -/
def execMul (d s t : BitVec 5) (st : State) : Outc :=
  runReg st (.mul d s t) d s t (fun a b => a * b)

/-- mulh (05 R126). -/
def execMulh (d s t : BitVec 5) (st : State) : Outc :=
  runReg st (.mulh d s t) d s t (fun a b => highHalf a.toInt b.toInt)

/-- mulhsu (05 R126). -/
def execMulhsu (d s t : BitVec 5) (st : State) : Outc :=
  runReg st (.mulhsu d s t) d s t (fun a b => highHalf a.toInt b.toNat)

/-- mulhu (05 R126). -/
def execMulhu (d s t : BitVec 5) (st : State) : Outc :=
  runReg st (.mulhu d s t) d s t (fun a b => highHalf a.toNat b.toNat)

/-- div (05 R126). -/
def execDiv (d s t : BitVec 5) (st : State) : Outc :=
  runReg st (.div d s t) d s t (fun a b => divS a b)

/-- divu (05 R126). -/
def execDivu (d s t : BitVec 5) (st : State) : Outc :=
  runReg st (.divu d s t) d s t (fun a b => divU a b)

/-- rem (05 R126). -/
def execRem (d s t : BitVec 5) (st : State) : Outc :=
  runReg st (.rem d s t) d s t (fun a b => remS a b)

/-- remu (05 R126). -/
def execRemu (d s t : BitVec 5) (st : State) : Outc :=
  runReg st (.remu d s t) d s t (fun a b => remU a b)

/-- addw (05 R126). -/
def execAddw (d s t : BitVec 5) (st : State) : Outc :=
  runReg st (.addw d s t) d s t (fun a b => wordRes (a + b))

/-- subw (05 R126). -/
def execSubw (d s t : BitVec 5) (st : State) : Outc :=
  runReg st (.subw d s t) d s t (fun a b => wordRes (a - b))

/-- sllw (05 R126). -/
def execSllw (d s t : BitVec 5) (st : State) : Outc :=
  runReg st (.sllw d s t) d s t (fun a b => word32 (fun x y => x <<< sh5 y) a b)

/-- srlw (05 R126). -/
def execSrlw (d s t : BitVec 5) (st : State) : Outc :=
  runReg st (.srlw d s t) d s t (fun a b => word32 (fun x y => x >>> sh5 y) a b)

/-- sraw (05 R126). -/
def execSraw (d s t : BitVec 5) (st : State) : Outc :=
  runReg st (.sraw d s t) d s t (fun a b => word32 (fun x y => x.sshiftRight (sh5 y)) a b)

/-- mulw (05 R126). -/
def execMulw (d s t : BitVec 5) (st : State) : Outc :=
  runReg st (.mulw d s t) d s t (fun a b => wordRes (a * b))

/-- divw (05 R126). -/
def execDivw (d s t : BitVec 5) (st : State) : Outc :=
  runReg st (.divw d s t) d s t (fun a b => word32 divS a b)

/-- divuw (05 R126). -/
def execDivuw (d s t : BitVec 5) (st : State) : Outc :=
  runReg st (.divuw d s t) d s t (fun a b => word32 divU a b)

/-- remw (05 R126). -/
def execRemw (d s t : BitVec 5) (st : State) : Outc :=
  runReg st (.remw d s t) d s t (fun a b => word32 remS a b)

/-- remuw (05 R126). -/
def execRemuw (d s t : BitVec 5) (st : State) : Outc :=
  runReg st (.remuw d s t) d s t (fun a b => word32 remU a b)

/-! ### CSRs (03 R76-R78, 05 R128, R129) -/

/-- The cnts word (07 R192). -/
def cntsWord (c : Counters) : Word := BitVec.ofNat 64 (c.t * 2 ^ 24 + c.c * 2 ^ 16 + c.s * 2 ^ 8 + c.l)

/-- The window word (05 R117). -/
def windowWord (t : Thread) : Word := BitVec.ofNat 64 (t.tlim * 2 ^ 24 + t.tb * 2 ^ 15 + t.win)

/-- The pmap word with its fills (11 R291): words in the in-port queue, and words that the sender
counts toward the out-port's. -/
def pmapWord (s : State) (slot : Nat) (t : Thread) : Word :=
  let ifill := match inPort t with | some (_, q) => ((s.core (coreOf slot)).queue q).words.length | none => 0
  let ofill := match outQueue slot t with
    | some (c, q) => ((s.core c).queue q).used
    | none => 0
  t.pmap ||| BitVec.ofNat 64 (ifill * 2 ^ 40 + ofill * 2 ^ 36)

/-- locklim of a core, or of a die's Sextant, whose threads share one (14 R342, 19 R459; log 36). -/
def lockLim (s : State) (a : Agent) : BitVec 32 := if a.isThread then (s.core a.core).locklim else (s.die a.die).plat.sxLocklim

/-- The value of a CSR (03 R78). -/
def csrRead (s : State) (a : Agent) (t : Thread) (n : Nat) : Word :=
  let core := a.core
  match n with
  | 0x001 => t.fstat
  | 0x800 => pmapWord s a.num t
  | 0xC00 => BitVec.ofNat 64 (s.cycles a.die)
  | 0xC01 => BitVec.ofNat 64 (s.timeNs a.die)
  | 0xC02 => t.instret
  | 0xC80 => tget t.mon 0 0
  | 0xC81 => tget t.mon 1 0
  | 0xC82 => tget t.mon 2 0
  | 0xC83 => tget t.mon 3 0
  | 0xCC0 => t.num.lindex
  | 0xCC1 => t.num.lcount
  | 0xCC2 => t.num.grank
  | 0xCC3 => t.num.gsize
  | 0xCC4 => BitVec.ofNat 64 (coordOf a.num)
  | 0xCC5 => BitVec.ofNat 64 (s.ownerOf core)
  | 0xCC6 => cntsWord t.cnt
  | 0xCC7 => windowWord t
  | 0xCC8 => t.clamped.setWidth 64
  | 0xCC9 => t.num.rtoken
  | 0xCCA => t.num.stage
  | 0x5C0 => t.csr.tstatus
  | 0x5C1 => t.csr.tvec
  | 0x5C2 => t.csr.tepc
  | 0x5C3 => t.csr.tcause
  | 0x5C4 => t.csr.tval
  | 0x5C5 => t.csr.tinfo
  | 0x5C6 => t.csr.tprog.setWidth 64
  | 0x5C7 => t.csr.tscratch
  | 0x5C8 => (lockLim s a).setWidth 64
  | 0x5C9 => (s.core core).bfmt
  | 0x5CA => t.monsel
  | 0xDC0 => BitVec.ofNat 64 ((s.core core).exb * 256)
  | 0xDC1 => BitVec.ofNat 64 (s.partOf a.die)
  | _ => 0

/-- What a pmap write is refused with (11 R292): a cause and its TINFO. -/
def pmapRefusal (s : State) (slot : Nat) (t : Thread) (v : Nat) : Option (Cause × BitVec 64) :=
  let core := coreOf slot
  let ien := bitAt v 15
  let oen := bitAt v 31
  let ireg := bits v 12 8
  let oreg := bits v 28 24
  let isrc := bits v 6 4
  let odir := bits v 22 20
  let sib := (s.slotsOn core).filter (fun k => k != slot)
  let held := fun (p : Thread → Bool) => sib.any (fun k => match tfind s.threads k with | some u => p u | none => false)
  if ien && ireg ≥ t.win then some (.regRange, infoReg ireg 4)
  else if oen && oreg ≥ t.win then some (.regRange, infoReg oreg 4)
  else if (ien && ireg = 0) || (oen && oreg = 0) || (ien && oen && ireg = oreg) then some (.illegal, info348 1 0)
  else if (ien && isrc > 5) || (oen && odir > 3) then some (.illegal, info348 2 0)
  else if (ien && isrc < 4 && (neighbour core isrc).isNone) || (oen && (neighbour core odir).isNone) then
    some (.illegal, info348 3 0)
  else if (ien && held (fun u => match inPort u with | some (_, q) => q == isrc | none => false)) ||
      (oen && held (fun u => match outPort u with | some (_, q) => q == odir | none => false)) then
    some (.illegal, info348 4 0)
  else
    let foreign := fun (dir : Nat) =>
      match neighbour core dir with | some c => s.ownerOf c != s.ownerOf core | none => false
    if (ien && isrc < 4 && foreign isrc) || (oen && foreign odir) then some (.illegal, info348 5 0) else none

/-- The writable bits of pmap (11 R291). -/
def pmapBits (v : Word) : Word := v &&& 0x9F709F70

/-- The writable bits of tcause (14 R342). -/
def tcauseBits (v : Word) : Word := v &&& 0x80000000000000FF

/-- The effect of writing a CSR (03 R78): RSV and RO fields keep their value (05 R128). -/
def csrWrite (s : State) (a : Agent) (t : Thread) (n : Nat) (v : Word) : State :=
  let th := fun (u : Thread) => s.setTh a (u.wrote (0x1000 + n))
  match n with
  | 0x001 => th { t with fstat := v &&& 0x1F }
  | 0x800 => th { t with pmap := pmapBits v ||| (t.pmap &&& 0x800000000000) }
  | 0x5C0 => th { t with csr := { t.csr with tstatus := v &&& 0x1F } }
  | 0x5C1 => th { t with csr := { t.csr with tvec := v &&& 0xFFFC } }
  | 0x5C2 => th { t with csr := { t.csr with tepc := v } }
  | 0x5C3 => th { t with csr := { t.csr with tcause := tcauseBits v } }
  | 0x5C4 => th { t with csr := { t.csr with tval := v } }
  | 0x5C5 => th { t with csr := { t.csr with tinfo := v } }
  | 0x5C6 => th { t with csr := { t.csr with tprog := v.setWidth 16 } }
  | 0x5C7 => th { t with csr := { t.csr with tscratch := v } }
  | 0x5C8 =>
    if a.isThread then s.modCore a.core (fun c => { c with locklim := v.setWidth 32 })
    else s.modPlat a.die (fun p => { p with sxLocklim := v.setWidth 32 })
  | 0x5C9 => s.modCore a.core (fun c => { c with bfmt := v })
  | 0x5CA => th { t with monsel := v &&& 0x01FF01FF01FF01FF }
  | _ => s

/-- Reading pmap clears FLUSHED (11 R291); no other read has an effect (03 R77). -/
def csrReadEffect (t : Thread) (n : Nat) : Thread :=
  if n = 0x800 then { t with pmap := t.pmap &&& ~~~(0x800000000000 : Word) } else t

/-- A Zicsr instruction (05 R128, 03 R77): the old value goes to xd, and new old is written if the form writes. -/
def csrStep (e : Env) (n : Nat) (reads writes : Bool) (new : Word → Word) : Res :=
  let old := if reads then csrRead e.s e.ag e.th n else 0
  if writes && bits n 11 10 == 3 then illegal e.i 0 0
  else
    match (if writes && n == 0x800 then pmapRefusal e.s e.ag.num e.th (new old).toNat else none) with
    | some (c, info) => .trap c (wordVal e.i) info
    | none =>
      let t := if reads then csrReadEffect e.th n else e.th
      let s := e.s.setTh e.ag t
      .ok { s := if writes then csrWrite s e.ag t n (new old) else s, dst := .val old }

/-- The fields of a register form. -/
def csrFields (d x : BitVec 5) (csr : BitVec 12) (reads : Bool) : Fields :=
  { dst := some d, srcs := [(1, x)], csr := some csr, items := if reads then [0x1000 + csr.toNat] else [] }

/-- The fields of an immediate form. -/
def csrFieldsI (d : BitVec 5) (csr : BitVec 12) (reads : Bool) : Fields :=
  { dst := some d, csr := some csr, items := if reads then [0x1000 + csr.toNat] else [] }

/-- csrrw: no read when rd is x0 (03 R77). -/
def execCsrrw (d s : BitVec 5) (csr : BitVec 12) (st : State) : Outc :=
  runIns st (.csrrw d s csr) (csrFields d s csr (d != 0)) (fun e => csrStep e csr.toNat (d != 0) true (fun _ => e.a))

/-- csrrs: no write when rs1 is x0 (03 R77). -/
def execCsrrs (d s : BitVec 5) (csr : BitVec 12) (st : State) : Outc :=
  runIns st (.csrrs d s csr) (csrFields d s csr true) (fun e => csrStep e csr.toNat true (s != 0) (fun old => old ||| e.a))

/-- csrrc: no write when rs1 is x0 (03 R77). -/
def execCsrrc (d s : BitVec 5) (csr : BitVec 12) (st : State) : Outc :=
  runIns st (.csrrc d s csr) (csrFields d s csr true) (fun e => csrStep e csr.toNat true (s != 0) (fun old => old &&& ~~~e.a))

/-- csrrwi: no read when rd is x0 (03 R77). -/
def execCsrrwi (d : BitVec 5) (csr : BitVec 12) (uimm : BitVec 5) (st : State) : Outc :=
  runIns st (.csrrwi d csr uimm) (csrFieldsI d csr (d != 0))
    (fun e => csrStep e csr.toNat (d != 0) true (fun _ => uimm.setWidth 64))

/-- csrrsi: no write when uimm is 0 (03 R77). -/
def execCsrrsi (d : BitVec 5) (csr : BitVec 12) (uimm : BitVec 5) (st : State) : Outc :=
  runIns st (.csrrsi d csr uimm) (csrFieldsI d csr true)
    (fun e => csrStep e csr.toNat true (uimm != 0) (fun old => old ||| uimm.setWidth 64))

/-- csrrci: no write when uimm is 0 (03 R77). -/
def execCsrrci (d : BitVec 5) (csr : BitVec 12) (uimm : BitVec 5) (st : State) : Outc :=
  runIns st (.csrrci d csr uimm) (csrFieldsI d csr true)
    (fun e => csrStep e csr.toNat true (uimm != 0) (fun old => old &&& ~~~(uimm.setWidth 64)))

/-! ### ccnt and rel (05 R130, R131) -/

/-- ccnt: the prefix of the next instruction (05 R130). -/
def execCcnt (n : BitVec 4) (st : State) : Outc :=
  runIns st (.ccnt n) {} (fun e => .ok { s := e.s, pre := some n })

/-- The thread with an entry released, whatever its count (05 R131). -/
def releaseEnt (t : Thread) (r : Nat) : Thread := t.setEnt r { st := .released }

/-- rel: not a read; x0 and registers bound as ports are left alone (05 R131). -/
def execRel (a : BitVec 5) (st : State) : Outc :=
  runIns st (.rel a) { names := [(1, a)] }
    (fun e => if isIn e.th a.toNat || isOut e.th a.toNat then doneS e.s
      else doneS (e.s.setTh e.ag (releaseEnt e.th a.toNat)))

end Sys2Proof.Machine
end

