-- ==== Sys2Proof/Machine/MemAccess.lean ====
section
/-!
DEFINITION. MemAccess: the instructions of the memory access class (06 R154-R162): what each checks and sends.  What an
access does at its bank or slice stands in MemEvents.
-/
namespace Sys2Proof.Machine

/-! ### Shared forms -/

/-- The pointer of an offset form (06 R140). -/
def eaOf (e : Env) (off : Word) : BitVec 64 := e.a + off

/-- The needs of a plain load of n bytes (06 R141). -/
def specLoad (n : Nat) : AccSpec := { size := n, align := n, r := true, acc := 0, rd := true, need := { r := true }, xacc := 0 }
/-- The needs of a plain store of n bytes. -/
def specStore (n : Nat) : AccSpec := { size := n, align := n, w := true, acc := 1, wr := true, need := { w := true }, xacc := 1 }
/-- The needs of an LR. -/
def specLr (n : Nat) : AccSpec := { size := n, align := n, r := true, a := true, kinds := [0, 1, 2, 3], acc := 2, rd := true, wr := true, need := { r := true }, xacc := 0 }
/-- The needs of an SC. -/
def specSc (n : Nat) : AccSpec := { size := n, align := n, w := true, a := true, kinds := [0, 1, 2, 3], acc := 3, rd := true, wr := true, need := { w := true }, xacc := 1 }
/-- The needs of an AMO. -/
def specAmo (n : Nat) : AccSpec := { size := n, align := n, r := true, w := true, a := true, acc := 4, rd := true, wr := true, need := { r := true, w := true, a := true }, xacc := 2 }
/-- The needs of a full/empty read. -/
def specFeRead : AccSpec := { size := 8, align := 8, r := true, t := true, kinds := [0, 1, 2, 3], acc := 5, rd := true, need := { r := true, fe := true }, xacc := 3 }
/-- The needs of a full/empty write. -/
def specFeWrite : AccSpec := { size := 8, align := 8, w := true, t := true, kinds := [0, 1, 2, 3], acc := 6, wr := true, need := { w := true, fe := true }, xacc := 4 }
/-- The needs of feset. -/
def specFeset : AccSpec := { size := 8, align := 8, w := true, t := true, kinds := [0, 1, 2, 3], acc := 7, wr := true, need := { w := true, fe := true }, xacc := 4 }
/-- The needs of cinv, cflush and pref. -/
def specLine : AccSpec := { size := 1, align := 1, r := true, acc := 8, xacc := 0 }

/-- A load of n bytes with an acquire (06 R154, R160). -/
def loadBody (n : Nat) (sg acq : Bool) (off : Word) (e : Env) : Res :=
  match reach e (specLoad n) (eaOf e off) with
  | .stop r => r
  | .ok s x => issueLoad e s x { mkAccess e x (.load sg) n 0 with acq := acq }

/-- A store of the low n bytes of field b with a release scope (06 R155, R160). -/
def storeBody (n : Nat) (rel : Option Nat) (off : Word) (e : Env) : Res :=
  match reach e (specStore n) (eaOf e off) with
  | .stop r => r
  | .ok s x => released e s rel (issueStore e s x { mkAccess e x .store n (e.b.toNat % 2 ^ (8 * n)) with rel := rel })

/-- The scope of the aq and rl bits, if either is set (06 R158). -/
def aqrlScope (aq rl : BitVec 1) : Nat := if aq = 0 ∧ rl = 0 then 0 else 5

/-- An LR, SC or AMO of n bytes with its aq and rl bits (06 R156, R158). -/
def atomicBody (sp : AccSpec) (k : AKind) (n : Nat) (aq rl : BitVec 1) (e : Env) : Res :=
  match reach e sp e.a with
  | .stop r => r
  | .ok s x =>
    let sc := if rl = 1 then some (clamped e.s e.ag 5) else none
    withClamp e.ag (aqrlScope aq rl) (released e s sc
      (issueLoad e (if k = .lr then s.modTh e.ag (fun t => { t with lrPend := some s.nextId }) else s) x
        { mkAccess e x k n (e.b.toNat % 2 ^ (8 * n)) with acq := aq == 1, rel := sc }))

/-- Run a load form. -/
def runLoad (st : State) (i : Instr) (d x : BitVec 5) (imm : BitVec 12) (n : Nat) (sg : Bool) : Outc :=
  runIns st i { dst := some d, srcs := [(1, x)] } (loadBody n sg false (sext imm))

/-- Run a store form. -/
def runStore (st : State) (i : Instr) (y x : BitVec 5) (imm : BitVec 12) (n : Nat) : Outc :=
  runIns st i { srcs := [(1, x), (2, y)] } (storeBody n none (sext imm))

/-- Run an LR. -/
def runLr (st : State) (i : Instr) (d x : BitVec 5) (aq rl : BitVec 1) (n : Nat) : Outc :=
  runIns st i { dst := some d, srcs := [(1, x)] } (atomicBody (specLr n) .lr n aq rl)

/-- Run an SC. -/
def runSc (st : State) (i : Instr) (d x y : BitVec 5) (aq rl : BitVec 1) (n : Nat) : Outc :=
  runIns st i { dst := some d, srcs := [(1, x), (2, y)] } (atomicBody (specSc n) .sc n aq rl)

/-- Run an AMO; op is fn7[6:2] (03 R62). -/
def runAmo (st : State) (i : Instr) (d x y : BitVec 5) (aq rl : BitVec 1) (op n : Nat) : Outc :=
  runIns st i { dst := some d, srcs := [(1, x), (2, y)] } (atomicBody (specAmo n) (.amo op) n aq rl)

/-- The offset of an 8-aligned form: off holds bits [11:3], with its sign (03 R72). -/
def off8 (off : BitVec 9) : Word := sext off * 8

/-- A full/empty access (06 R151, R161): the request, its wait, and the result its reissue finds. -/
def feBody (sp : AccSpec) (k : AKind) (off : Word) (e : Env) : Res :=
  let isLoad := match k with | .ldfe | .ldff => true | _ => false
  match e.th.prog with
  | .served v none => if isLoad then done e v else doneS e.s
  | .served _ (some m) => .ok { s := e.s, dst := if isLoad then .marked m else .none }
  | .asked id => .park (.answer id) (.asked id) e.s
  | g =>
    match reach e sp (eaOf e off) with
    | .stop r => r
    | .ok s x =>
      let full := if isLoad then e.th.cnt.l ≥ 63 else e.th.cnt.s ≥ 63
      if full then .park (.counterFull (if isLoad then 0 else 1)) g s
      else
        let tries := match g with | .retried n => n | _ => 0
        let a := { mkAccess e x k 8 e.b.toNat with dst := some e.rd, replays := tries }
        let s := if isLoad then countL s e.ag (touchBit e.ag.die x.place) else countS s e.ag (touchBit e.ag.die x.place)
        .park (.answer s.nextId) (.asked s.nextId) (({ s with net := tset s.net s.nextId a }.fresh).due (.feAccessArrival s.nextId))

/-- The launch that a thread belongs to is strict (15 R369, R372). -/
def isStrict (s : State) (t : Thread) : Bool :=
  match tfind s.launches t.launch with
  | some l => bitAt (l.record.dw.getD 0 0).toNat 21
  | none => false

/-! ### Loads and stores (06 R154, R155) -/

/-- lb (06 R154). -/
def execLb (d s : BitVec 5) (imm : BitVec 12) (st : State) : Outc :=
  runLoad st (.lb d s imm) d s imm 1 true

/-- lh (06 R154). -/
def execLh (d s : BitVec 5) (imm : BitVec 12) (st : State) : Outc :=
  runLoad st (.lh d s imm) d s imm 2 true

/-- lw (06 R154). -/
def execLw (d s : BitVec 5) (imm : BitVec 12) (st : State) : Outc :=
  runLoad st (.lw d s imm) d s imm 4 true

/-- ld (06 R154). -/
def execLd (d s : BitVec 5) (imm : BitVec 12) (st : State) : Outc :=
  runLoad st (.ld d s imm) d s imm 8 false

/-- lbu (06 R154). -/
def execLbu (d s : BitVec 5) (imm : BitVec 12) (st : State) : Outc :=
  runLoad st (.lbu d s imm) d s imm 1 false

/-- lhu (06 R154). -/
def execLhu (d s : BitVec 5) (imm : BitVec 12) (st : State) : Outc :=
  runLoad st (.lhu d s imm) d s imm 2 false

/-- lwu (06 R154). -/
def execLwu (d s : BitVec 5) (imm : BitVec 12) (st : State) : Outc :=
  runLoad st (.lwu d s imm) d s imm 4 false

/-- sb (06 R155). -/
def execSb (t s : BitVec 5) (imm : BitVec 12) (st : State) : Outc :=
  runStore st (.sb t s imm) t s imm 1

/-- sh (06 R155). -/
def execSh (t s : BitVec 5) (imm : BitVec 12) (st : State) : Outc :=
  runStore st (.sh t s imm) t s imm 2

/-- sw (06 R155). -/
def execSw (t s : BitVec 5) (imm : BitVec 12) (st : State) : Outc :=
  runStore st (.sw t s imm) t s imm 4

/-- sd (06 R155). -/
def execSd (t s : BitVec 5) (imm : BitVec 12) (st : State) : Outc :=
  runStore st (.sd t s imm) t s imm 8

/-! ### LR, SC and AMOs (06 R156, R158) -/

/-- lr.w (06 R156). -/
def execLrW (d s : BitVec 5) (aq rl : BitVec 1) (st : State) : Outc :=
  runLr st (.lrW d s aq rl) d s aq rl 4

/-- sc.w (06 R156). -/
def execScW (d s t : BitVec 5) (aq rl : BitVec 1) (st : State) : Outc :=
  runSc st (.scW d s t aq rl) d s t aq rl 4

/-- lr.d (06 R156). -/
def execLrD (d s : BitVec 5) (aq rl : BitVec 1) (st : State) : Outc :=
  runLr st (.lrD d s aq rl) d s aq rl 8

/-- sc.d (06 R156). -/
def execScD (d s t : BitVec 5) (aq rl : BitVec 1) (st : State) : Outc :=
  runSc st (.scD d s t aq rl) d s t aq rl 8

/-- amoswap.w (06 R158). -/
def execAmoswapW (d s t : BitVec 5) (aq rl : BitVec 1) (st : State) : Outc :=
  runAmo st (.amoswapW d s t aq rl) d s t aq rl 1 4

/-- amoswap.d (06 R158). -/
def execAmoswapD (d s t : BitVec 5) (aq rl : BitVec 1) (st : State) : Outc :=
  runAmo st (.amoswapD d s t aq rl) d s t aq rl 1 8

/-- amoadd.w (06 R158). -/
def execAmoaddW (d s t : BitVec 5) (aq rl : BitVec 1) (st : State) : Outc :=
  runAmo st (.amoaddW d s t aq rl) d s t aq rl 0 4

/-- amoadd.d (06 R158). -/
def execAmoaddD (d s t : BitVec 5) (aq rl : BitVec 1) (st : State) : Outc :=
  runAmo st (.amoaddD d s t aq rl) d s t aq rl 0 8

/-- amoxor.w (06 R158). -/
def execAmoxorW (d s t : BitVec 5) (aq rl : BitVec 1) (st : State) : Outc :=
  runAmo st (.amoxorW d s t aq rl) d s t aq rl 4 4

/-- amoxor.d (06 R158). -/
def execAmoxorD (d s t : BitVec 5) (aq rl : BitVec 1) (st : State) : Outc :=
  runAmo st (.amoxorD d s t aq rl) d s t aq rl 4 8

/-- amoand.w (06 R158). -/
def execAmoandW (d s t : BitVec 5) (aq rl : BitVec 1) (st : State) : Outc :=
  runAmo st (.amoandW d s t aq rl) d s t aq rl 12 4

/-- amoand.d (06 R158). -/
def execAmoandD (d s t : BitVec 5) (aq rl : BitVec 1) (st : State) : Outc :=
  runAmo st (.amoandD d s t aq rl) d s t aq rl 12 8

/-- amoor.w (06 R158). -/
def execAmoorW (d s t : BitVec 5) (aq rl : BitVec 1) (st : State) : Outc :=
  runAmo st (.amoorW d s t aq rl) d s t aq rl 8 4

/-- amoor.d (06 R158). -/
def execAmoorD (d s t : BitVec 5) (aq rl : BitVec 1) (st : State) : Outc :=
  runAmo st (.amoorD d s t aq rl) d s t aq rl 8 8

/-- amomin.w (06 R158). -/
def execAmominW (d s t : BitVec 5) (aq rl : BitVec 1) (st : State) : Outc :=
  runAmo st (.amominW d s t aq rl) d s t aq rl 16 4

/-- amomin.d (06 R158). -/
def execAmominD (d s t : BitVec 5) (aq rl : BitVec 1) (st : State) : Outc :=
  runAmo st (.amominD d s t aq rl) d s t aq rl 16 8

/-- amomax.w (06 R158). -/
def execAmomaxW (d s t : BitVec 5) (aq rl : BitVec 1) (st : State) : Outc :=
  runAmo st (.amomaxW d s t aq rl) d s t aq rl 20 4

/-- amomax.d (06 R158). -/
def execAmomaxD (d s t : BitVec 5) (aq rl : BitVec 1) (st : State) : Outc :=
  runAmo st (.amomaxD d s t aq rl) d s t aq rl 20 8

/-- amominu.w (06 R158). -/
def execAmominuW (d s t : BitVec 5) (aq rl : BitVec 1) (st : State) : Outc :=
  runAmo st (.amominuW d s t aq rl) d s t aq rl 24 4

/-- amominu.d (06 R158). -/
def execAmominuD (d s t : BitVec 5) (aq rl : BitVec 1) (st : State) : Outc :=
  runAmo st (.amominuD d s t aq rl) d s t aq rl 24 8

/-- amomaxu.w (06 R158). -/
def execAmomaxuW (d s t : BitVec 5) (aq rl : BitVec 1) (st : State) : Outc :=
  runAmo st (.amomaxuW d s t aq rl) d s t aq rl 28 4

/-- amomaxu.d (06 R158). -/
def execAmomaxuD (d s t : BitVec 5) (aq rl : BitVec 1) (st : State) : Outc :=
  runAmo st (.amomaxuD d s t aq rl) d s t aq rl 28 8

/-- amofadd.s: NONDET in a strict launch before any other check (06 R159). -/
def execAmofaddS (d a b : BitVec 5) (aq rl : BitVec 1) (st : State) : Outc :=
  runIns st (.amofaddS d a b aq rl) { dst := some d, srcs := [(1, a), (2, b)] } (fun e =>
    if isStrict e.s e.th then .trap .nondet (wordVal e.i) 0 else atomicBody (specAmo 4) .fadd 4 aq rl e)

/-! ### Scoped acquire and release (06 R160) -/

/-- ld.aq (06 R160). -/
def execLdAq (scope : BitVec 3) (d a : BitVec 5) (off : BitVec 9) (st : State) : Outc :=
  runIns st (.ldAq scope d a off) { dst := some d, srcs := [(1, a)] }
    (fun e => withClamp e.ag scope.toNat (loadBody 8 false true (off8 off) e))

/-- sd.rl (06 R160). -/
def execSdRl (scope : BitVec 3) (b a : BitVec 5) (off : BitVec 9) (st : State) : Outc :=
  runIns st (.sdRl scope b a off) { srcs := [(1, a), (2, b)] }
    (fun e => withClamp e.ag scope.toNat (storeBody 8 (some (clamped e.s e.ag scope.toNat)) (off8 off) e))

/-! ### Full/empty accesses (06 R151, R161, R162) -/

/-- ldfe (06 R161). -/
def execLdfe (d a : BitVec 5) (off : BitVec 9) (st : State) : Outc :=
  runIns st (.ldfe d a off) { dst := some d, srcs := [(1, a)] } (feBody specFeRead .ldfe (off8 off))

/-- ldff (06 R161). -/
def execLdff (d a : BitVec 5) (off : BitVec 9) (st : State) : Outc :=
  runIns st (.ldff d a off) { dst := some d, srcs := [(1, a)] } (feBody specFeRead .ldff (off8 off))

/-- stfe (06 R161). -/
def execStfe (b a : BitVec 5) (off : BitVec 9) (st : State) : Outc :=
  runIns st (.stfe b a off) { srcs := [(1, a), (2, b)] } (feBody specFeWrite .stfe (off8 off))

/-- stff (06 R161). -/
def execStff (b a : BitVec 5) (off : BitVec 9) (st : State) : Outc :=
  runIns st (.stff b a off) { srcs := [(1, a), (2, b)] } (feBody specFeWrite .stff (off8 off))

/-- feset.e (06 R162). -/
def execFesetE (a : BitVec 5) (off : BitVec 12) (st : State) : Outc :=
  runIns st (.fesetE a off) { srcs := [(1, a)] } (feBody specFeset (.feset false) (sext off))

/-- feset.f (06 R162). -/
def execFesetF (a : BitVec 5) (off : BitVec 12) (st : State) : Outc :=
  runIns st (.fesetF a off) { srcs := [(1, a)] } (feBody specFeset (.feset true) (sext off))

/-! ### Lines (06 R162) -/

/-- Whether a target is cached: DEVICE or HOST. -/
def cachedKind (x : Target) : Bool := x.kind == 3 || x.kind == 4

/-- cinv: the line leaves the issuing core's cache (06 R162). -/
def execCinv (a : BitVec 5) (off : BitVec 12) (st : State) : Outc :=
  runIns st (.cinv a off) { srcs := [(1, a)] } (fun e =>
    match reach e specLine (eaOf e (sext off)) with
    | .stop r => r
    | .ok s x =>
      let s := s.modTh e.ag (fun t => t.touch (touchBit e.ag.die x.place))
      doneS (if cachedKind x then coreDrop s e.ag.core x.place else s))

/-- cflush: counts on S until the line is written back (06 R162). -/
def execCflush (a : BitVec 5) (off : BitVec 12) (st : State) : Outc :=
  runIns st (.cflush a off) { srcs := [(1, a)] } (fun e =>
    match reach e specLine (eaOf e (sext off)) with
    | .stop r => r
    | .ok s x =>
      if e.th.cnt.s ≥ 63 then .park (.counterFull 1) e.th.prog s
      else
        let a := { mkAccess e x .cflush 1 0 with seg := x.kind }
        doneS (sendAccess (countS s e.ag (touchBit e.ag.die x.place)) a))

/-- pref: fills the core cache line; whatever would trap or park in its own checks drops it (06 R162).  The register step
before them (03 R75) parks or traps as of any instruction that reads xs: DESIGN CHOICE (log 93). -/
def execPref (a : BitVec 5) (off : BitVec 12) (st : State) : Outc :=
  runIns st (.pref a off) { srcs := [(1, a)] } (fun e =>
    match reach { e with th := { e.th with watches := [] } } specLine (eaOf e (sext off)) with
    | .stop _ => doneS e.s
    | .ok s x =>
      let s := s.modTh e.ag (fun t => t.touch (touchBit e.ag.die x.place))
      doneS (if cachedKind x then coreTouch s e.ag.core x.place else s))

end Sys2Proof.Machine
end

