-- ==== Sys2Proof/Machine/Order.lean ====
section
/-!
DEFINITION. Order: fences (07 R186-R190), waitc (07 R191), barriers (07 R193-R197), and their event rows.
-/
namespace Sys2Proof.Machine

/-! ### Echoes (07 R185, R186) -/

/-- Whether the point of a mask bit may echo: every earlier access of the thread to it is performed at the scope, and so
is every store that those accesses have read (07 R186). -/
def echoReady (s : State) (a : Agent) (t : Thread) (sc last bit : Nat) : Bool :=
  let at_ := fun (x : Access) => touchBit a.die x.addr == bit
  s.net.all (fun p => p.1 ≥ last || !ofThread a t p.2 || !at_ p.2 || p.2.done || (!p.2.loadLike && performedAt s sc p.1)) &&
    s.invals.all (fun q => !(invalLeft s sc q.id && decide (q.id < last) && q.isOf a t.tag && touchBit a.die q.addr == bit)) &&
    t.readFrom.all (fun q => q.2 ≥ last || performedAt s sc q.1 || (match tfind s.net q.1, s.invals.find? (fun v => v.id == q.1) with | some x, _ => !at_ x | none, some v => touchBit a.die v.addr != bit | none, none => true))

/-- The widest scope open to an agent's thread (07 R185). -/
def widest (s : State) (a : Agent) : Nat := if isClamped s a 5 then 4 else 5

/-- FENCE_ECHO_ARRIVAL: the bit is answered, and cleared from the mask at the widest scope (07 R185, R186). -/
def doEcho (s : State) (a : Agent) (bit : Nat) : State :=
  match s.getTh a with
  | none => s
  | some t =>
    match t.prog with
    | .probes sc last at_ bs =>
      if !bs.contains bit then s
      else if !echoReady s a t sc last bit then again s (.fenceEchoArrival a.num bit)
      else
        let m := if sc = widest s a then t.touched &&& ~~~(BitVec.ofNat 128 (2 ^ bit)) else t.touched
        s.setTh a { t with prog := .probes sc last at_ (bs.filter (fun b => b != bit)), touched := m }
    | _ => s

/-- FENCE_ECHO_ARRIVAL (07 R186). -/
def execFenceEchoArrival (s : State) : Outc :=
  match s.ev with
  | some (.fenceEchoArrival n bit) => evDo (.fenceEchoArrival n bit) (doEcho s (agentOf n) bit)
  | _ => .fault .noSuchUnit

/-- A fence of a kind at a scope: 1 acq, 2 rel, 3 full (07 R189). -/
def fenceBody (kind sc : Nat) (e : Env) : Res :=
  match orderWait e (kind ≥ 2) (clamped e.s e.ag sc) with
  | some r => r
  | none => withClamp e.ag sc (doneS e.s)

/-- fence.s (07 R189). -/
def execFenceS (kind : BitVec 2) (scope : BitVec 3) (st : State) : Outc :=
  runIns st (.fenceS kind scope) {} (fenceBody kind.toNat scope.toNat)

/-- The standard fence: fence.s.full.sys (07 R190). -/
def execFence (fm : BitVec 1) (prd scc : BitVec 4) (st : State) : Outc :=
  runIns st (.fence fm prd scc) {} (fenceBody 3 5)

/-- waitc (07 R191). -/
def execWaitc (l s c t : BitVec 3) (st : State) : Outc :=
  runIns st (.waitc l s c t) {} (fun e =>
    let k := e.th.cnt
    if k.l ≤ l.toNat ∧ k.s ≤ s.toNat ∧ k.c ≤ c.toNat ∧ k.t ≤ t.toNat then doneS e.s
    else .park (.counters l.toNat s.toNat c.toNat t.toNat) e.th.prog e.s)

/-! ### Barriers (07 R193-R197) -/

/-- The needs of a barrier block (07 R194, R195). -/
def specBar : AccSpec := { size := 16, align := 16, r := true, w := true, a := true, acc := 9, rd := true, wr := true }

/-- The segment kind that a scope's blocks stand in. -/
def scopeKind (sc : Nat) : Nat := match sc with | 1 => 0 | 2 => 1 | 3 => 2 | 4 => 2 | 5 => 2 | _ => 6

/-- The largest number of members of a scope. -/
def largestN (sc : Nat) : Nat := match sc with | 1 => 64 | 2 => 4096 | 3 => 819200 | _ => 33554431

/-- A SEG_RIGHTS trap of a barrier instruction (07 R197). -/
def barTrap (reason : Nat) (ea : BitVec 64) : Res := .trap .segRights ea (info142 reason 9 false (bits ea.toNat 63 61))

/-- The checks of a block pointer: those of 06 R140, then the kind before any translation (07 R195). -/
def reachBlock (e : Env) (slot : Nat) (ea : BitVec 64) (kinds : List Nat) : Reach :=
  match ptrCheck e.s slot e.th specBar ea with
  | .error x => if x = accFault .segRights 16 specBar ea then .stop (barTrap 3 ea) else .stop (.trap x.1 x.2.1 x.2.2)
  | .ok (kind, a) =>
    if !kinds.contains kind then .stop (barTrap 3 ea)
    else
      match watchFind e.th ea.toNat 16 true true with
      | some k => .stop (watchTrap k 9 ea)
      | none => reachPlace e.s slot e.th.prog { ea := ea, kind := kind, a := a, place := placeOfKind (coreOf slot) kind a }

/-- The die of a DIE target. -/
def dieTarget (a : Nat) : Nat := bits a 29 25

/-- A block as a thread sees it. -/
def seenBlock (e : Env) (x : Target) : Nat :=
  let a := mkAccess e x (.load false) 16 0
  seenVal e.s (visibleStores e.s e.s.nextId a) x.place 16

/-- N of a block. -/
def blkN (b : Nat) : Nat := bits b 24 0
/-- SCOPE of a block. -/
def blkScope (b : Nat) : Nat := bits b 34 32
/-- VALID of a block. -/
def blkValid (b : Nat) : Bool := bitAt b 35
/-- ARRIVED of a block. -/
def blkArrived (b : Nat) : Nat := bits b 88 64
/-- GEN of a block. -/
def blkGen (b : Nat) : Nat := bits b 127 96

/-- barinit: the checks, then the request to the block's bank (07 R194). -/
def barinitBody (sc : Nat) (e : Env) : Res :=
  match e.ag with
  | .sextant _ _ => doneS e.s
  | .thread slot =>
    match e.th.prog with
    | .served _ _ => doneS e.s
    | .refused m => .trap m.cause m.tval m.tinfo
    | .asked id => .park (.answer id) (.asked id) e.s
    | _ =>
      match reachBlock e slot e.a [scopeKind sc] with
      | .stop r => r
      | .ok s x =>
        if sc = 3 ∧ dieTarget x.a ≠ e.ag.die then barTrap 5 e.a
        else if e.b = 0 ∨ e.b.toNat > largestN sc then barTrap 6 e.a
        else if e.th.cnt.s ≥ 63 then .park (.counterFull 1) e.th.prog s
        else
          let s := countS s e.ag (touchBit e.ag.die x.place)
          .park (.answer s.nextId) (.asked s.nextId)
            (({ s with reqs := tset s.reqs s.nextId (.barinit slot e.th.tag e.a x.place e.b.toNat sc) }.fresh).due (.barinitAtBank s.nextId))

/-- barinit (07 R194). -/
def execBarinit (a b : BitVec 5) (scope : BitVec 3) (st : State) : Outc :=
  runIns st (.barinit a b scope) { srcs := [(1, a), (2, b)] } (barinitBody scope.toNat)

/-- Whether an earlier access of a request's thread to 16 bytes is still on its way (06 R146), or an acquire of it still to
deliver (07 R170). -/
def blockBusy (s : State) (id tag addr : Nat) : Bool :=
  s.net.any (fun p => p.1 < id && p.2.tag == tag && (p.2.acq || (!p.2.done && overlaps p.2.addr p.2.size addr 16)))

/-- The answer of a request to a thread: what its reissue finds (06 R151). -/
def answerProg (s : State) (a : Agent) (tag id : Nat) (g : Prog) : State :=
  s.modTag a tag (fun t => { t with prog := if t.prog = Prog.asked id then g else t.prog, late := match t.late with | some (p, k) => some (p, if k = Prog.asked id then g else k) | none => none })

/-- The writer record of a slot's barrier update. -/
def slotWriter (s : State) (slot tag : Nat) : Writer :=
  { cls := 0, owner := s.ownerOf (coreOf slot), ident := coordOf slot, tag := tag, core := coreOf slot }

/-- BARINIT_AT_BANK: performed or refused at the block's bank (07 R194). -/
def doBarinit (s : State) (id : Nat) : State :=
  match tfind s.reqs id with
  | some (.barinit slot tag ea addr n sc) =>
    if blockBusy s id tag addr then again s (.barinitAtBank id)
    else
      let b := s.rd addr 16
      let s := { s with reqs := terase s.reqs id }
      let s := s.modTag (.thread slot) tag (fun t => t.uncount false)
      if blkValid b ∧ blkArrived b ≠ 0 then
        answerProg s (.thread slot) tag id (.refused { cause := .segRights, tval := ea, tinfo := info142 7 9 false (bits ea.toNat 63 61) })
      else
        let gen := if blkValid b then blkGen b else 0
        let s := s.perfWrite (slotWriter s slot tag) addr (n + sc * 2 ^ 32 + 2 ^ 35 + gen * 2 ^ 96) 16
        answerProg s (.thread slot) tag id (.served 0 none)
  | _ => s

/-- BARINIT_AT_BANK (07 R194). -/
def execBarinitAtBank (s : State) : Outc :=
  match s.ev with
  | some (.barinitAtBank id) => evDo (.barinitAtBank id) (doBarinit s id)
  | _ => .fault .noSuchUnit

/-- Whether a read at issue must wait for an earlier access of the thread (06 R146, 07 R170). -/
def imageWaits (s : State) (x : Access) : Bool :=
  s.net.any (fun p => sameThread p.2 x &&
    (p.2.acq || (!p.2.done && overlaps p.2.addr p.2.size x.addr x.size && (!p.2.isStore || p.2.sent))))

/-- An arrival at a checked block: its release, then the request (07 R195). -/
def barArrive (e : Env) (slot : Nat) (s : State) (x : Target) (sc : Nat) : Res :=
  match orderWait { e with s := s } true (clamped s e.ag sc) with
  | some r => r
  | none =>
    let s := (countClamp s e.ag sc).modTh e.ag (fun t => t.touch (touchBit e.ag.die x.place))
    .park (.answer s.nextId) (.asked s.nextId)
      (({ s with reqs := tset s.reqs s.nextId (.bar slot e.th.tag e.a x.place (clamped s e.ag sc)) }.fresh).due (.barrierArrival s.nextId))

/-- bar: a release before the arrival, an acquire at the leave (07 R183, R195); its read of the block waits for an earlier acquire
(07 R170). -/
def barBody (e : Env) : Res :=
  match e.ag with
  | .sextant _ _ => doneS e.s
  | .thread slot =>
    match reachBlock e slot e.a [0, 1, 2] with
    | .stop r => r
    | .ok s x =>
      let b := seenBlock e x
      match e.th.prog with
      | .served _ _ => acquired e s (doneS s)
      | .asked id => .park (.answer id) (.asked id) s
      | _ =>
        if imageWaits s (mkAccess e x (.load false) 16 0) then .park .fence e.th.prog s
        else match e.th.bar with
        | some r =>
          if r.ptr = e.a then
            (if BitVec.ofNat 32 (blkGen b) ≠ r.gen then acquired e s (doneS (s.modTh e.ag (fun t => { t with bar := none })))
             else .park (.barrier x.place (blkGen b)) .none s)
          else fresh e slot s x b
        | none => fresh e slot s x b
where
  fresh (e : Env) (slot : Nat) (s : State) (x : Target) (b : Nat) : Res :=
    if !blkValid b then barTrap 8 e.a
    else if scopeKind (blkScope b) ≠ x.kind then barTrap 3 e.a
    else if blkScope b = 3 ∧ dieTarget x.a ≠ e.ag.die then barTrap 5 e.a
    else barArrive e slot s x (blkScope b)

/-- bar (07 R195). -/
def execBar (a : BitVec 5) (st : State) : Outc :=
  runIns st (.bar a) { srcs := [(1, a)] } barBody

/-- The cores that hold a thread parked on a block. -/
def barrierCores (s : State) (addr : Nat) : List Nat :=
  ((s.threads.filter (fun p => match p.2.park with | some (.barrier a _) => a == addr | _ => false)).map (fun p => coreOf p.1)).eraseDups

/-- BARRIER_ARRIVAL: counted at the block's bank; the last one releases the generation (07 R195). -/
def doBarrierArrival (s : State) (id : Nat) : State :=
  match tfind s.reqs id with
  | some (.bar slot tag ea addr sc) =>
    if blockBusy s id tag addr then again s (.barrierArrival id)
    else
      let b := s.rd addr 16
      let s := { s with reqs := terase s.reqs id }
      let n := (blkArrived b + 1) % 2 ^ 25
      let last := n ≥ blkN b
      let b' := if last then setBits (setBits b 88 64 0) 127 96 (blkGen b + 1) else setBits b 88 64 n
      let s := s.perfWrite (slotWriter s slot tag) addr b' 16
      if last then
        (answerProg s (.thread slot) tag id (.served 1 none)).dues ((barrierCores s addr).map (fun c => Event.barrierReleaseDelivery c addr))
      else
        let r : BarRec := { ptr := ea, gen := BitVec.ofNat 32 (blkGen b), scope := sc }
        s.modTag (.thread slot) tag (fun t =>
          { t with bar := some r, park := if t.prog = Prog.asked id then some (.barrier addr (blkGen b)) else t.park, prog := if t.prog = Prog.asked id then .none else t.prog, late := match t.late with | some (p, k) => if k = Prog.asked id then none else some (p, k) | none => none })
  | _ => s

/-- BARRIER_ARRIVAL (07 R195). -/
def execBarrierArrival (s : State) : Outc :=
  match s.ev with
  | some (.barrierArrival id) => evDo (.barrierArrival id) (doBarrierArrival s id)
  | _ => .fault .noSuchUnit

/-- Whether a thread's barrier generation has been released. -/
def barrierOver (s : State) (addr gen : Nat) : Bool := blkGen (s.rd addr 16) != gen

/-- BARRIER_RELEASE_DELIVERY: the members parked on the block at a core become eligible (07 R196). -/
def doBarrierRelease (s : State) (core addr : Nat) : State :=
  (s.slotsOn core).foldl (fun s k => match (s.getTh (.thread k)).bind (fun t => t.park) with
    | some (.barrier a g) => if a = addr ∧ barrierOver s addr g then s.wake (.thread k) else s
    | _ => s) s

/-- BARRIER_RELEASE_DELIVERY (07 R196). -/
def execBarrierReleaseDelivery (s : State) : Outc :=
  match s.ev with
  | some (.barrierReleaseDelivery core addr) => evDo (.barrierReleaseDelivery core addr) (doBarrierRelease s core addr)
  | _ => .fault .noSuchUnit

end Sys2Proof.Machine
end

