-- ==== Sys2Proof/Machine/Image.lean ====
section
/-!
DEFINITION. Image: the read of a record or image that an instruction makes at its issue (10 R257, 13 R336, 14 R353, 15 R372).
-/
namespace Sys2Proof.Machine

/-- n bytes of an image as the thread sees them: a park behind an earlier access, or the trap of a bad word. -/
def readImage (e : Env) (s : State) (x : Target) (n : Nat) : Except Res Nat :=
  let a := mkAccess e x (.load false) n 0
  let vs := visibleStores s s.nextId a
  if imageWaits s a then .error (.park .fence e.th.prog s)
  else match readError s vs x.place n with
    | some c => .error (.trap c x.ea (info142 0 0 false (bits x.ea.toNat 63 61)))
    | none => .ok (seenVal s vs x.place n)

/-- A read that an instruction makes at its issue leaves the points of its way, none of which it waits at, and uses the lines
there (06 R148; 17 R428). -/
def readCost (s : State) (x : Access) : State :=
  unitLine ((x.points s ++ (missAt s x.addr x.size).map Prod.fst).foldl (fun s p => s.leavePoint p.2.1 x.owner p.1 0) s)
    x.owner x.agent.die x.addr x.size x.shared

/-- The machine after the read of n bytes of an image: its way is counted and its bank touched (07 R185). -/
def imageDone (e : Env) (s : State) (x : Target) (n : Nat) : State :=
  (readCost s (mkAccess e x (.load false) n 0)).modTh e.ag (fun t => t.touch (touchBit e.ag.die x.place))

/-- The needs of an image of n bytes in the thread's local store. -/
def specImage (n align : Nat) : AccSpec := { size := n, align := align, r := true, late := [0], acc := 0, rd := true, need := { r := true } }

/-- Read an image in local store through a pointer and continue. -/
def withImage (e : Env) (ea : BitVec 64) (n align : Nat) (k : State → Nat → Res) : Res :=
  match reach e (specImage n align) ea with
  | .stop r => r
  | .ok s x =>
    match readImage e s x n with
    | .error r => r
    | .ok v => k (s.modTh e.ag (fun t => t.touch (touchBit e.ag.die x.place))) v

/-! ### Images of any kind (15 R372, R373) -/

/-- The needs of 16 bytes of a record or image of any kind. -/
def specPiece : AccSpec := { size := 16, align := 16, r := true, acc := 0, rd := true, need := { r := true } }

/-- Words read so far through FABRIC segments, and the one on its way. -/
def wordsOut (g : Prog) : Tbl (BitVec 64 × Option Cause) × Option Nat :=
  match g with
  | .words l o => (l, o)
  | _ => ([], none)

/-- The words of a FABRIC image at a place: one request a word, the thread parked until all are there (DESIGN CHOICE,
log 17). -/
def readFabric (e : Env) (s : State) (x : Target) (n : Nat) : Except Res Nat :=
  let (l, out) := wordsOut e.th.prog
  match out with
  | some id => .error (.park (.answer id) (.words l (some id)) s)
  | none =>
    match (wordsOf x.place n).find? (fun w => (tfind l w).isNone) with
    | some w =>
      .error (.park (.answer s.nextId) (.words l (some s.nextId)) (sendAccess s (mkAccess e { x with place := w } .image 8 0)))
    | none =>
      match (wordsOf x.place n).findSome? (fun w => (tget l w (0, none)).2) with
      | some c => .error (.trap c x.ea (info142 0 0 false (bits x.ea.toNat 63 61)))
      | none => .ok ((wordsOf x.place n).zipIdx.foldl (fun v p => v + (tget l p.1 (0, none)).1.toNat * 2 ^ (64 * p.2)) 0)

/-- The pieces of an image of 16 k bytes from a pointer, each translated for itself. -/
def readPieces (e : Env) (s : State) (ea : BitVec 64) : Nat → Except Res (State × List Nat)
  | 0 => .ok (s, [])
  | k + 1 =>
    match readPieces e s ea k with
    | .error r => .error r
    | .ok (s, l) =>
      match reach { e with s := s, th := { e.th with watches := [] } } specPiece (ea + BitVec.ofNat 64 (16 * k)) with
      | .stop r => .error r
      | .ok s x =>
        match (if x.kind = 5 then readFabric e s x 16 else readImage e s x 16) with
        | .error r => .error r
        | .ok v => .ok (if x.kind = 5 then s.modTh e.ag (fun t => t.touch (touchBit e.ag.die x.place)) else imageDone e s x 16, l ++ [v % 2 ^ 64, v / 2 ^ 64])

/-- A trap of an image read names the pointer given (06 R142, R164). -/
def named (ea : BitVec 64) : Res → Res
  | .trap c _ i => .trap c ea (BitVec.ofNat 64 (bits i.toNat 63 3 * 8 + bits ea.toNat 63 61))
  | r => r

/-- Read the dwords of an image of any kind in 16 k bytes through a slot's pointer: checked whole (06 R140), watched whole
(14 R362); `given` is the pointer that an error of its bytes names (06 R164). -/
def readAny (e : Env) (slot : Nat) (s : State) (ea given : BitVec 64) (k : Nat) : Except Res (State × List Nat) :=
  match ptrCheck s slot e.th { specPiece with size := 16 * k } ea with
  | .error (c, v, i) => .error (.trap c v i)
  | .ok _ =>
    match watchFind e.th ea.toNat (16 * k) true false with
    | some w => .error (watchTrap w 0 ea)
    | none =>
      match readPieces e s ea k with
      | .error (.trap .poison v i) => .error (named given (.trap .poison v i))
      | .error (.trap .eccUncorr v i) => .error (named given (.trap .eccUncorr v i))
      | .error r => .error (named ea r)
      | .ok p => .ok p

end Sys2Proof.Machine
end

