-- ==== Sys2Proof/Machine/Trans.lean ====
section
/-!
DEFINITION. Trans: rounding table edition 1 (04 R98-R100).  A function that has no exact dyadic result is enclosed between
neighbouring integers at growing precision until both neighbours are delivered alike (04 R99: each argument has a finite
precision that decides its rounding).
-/
namespace Sys2Proof.Machine

/-! ### Delivery -/

/-- A value of magnitude m × 2^e, or strictly between m and m + 1 times 2^e. -/
structure Mag where
  neg : Bool
  m : Nat
  e : Int
  /-- The value lies strictly above m. -/
  more : Bool

/-- TruncSig to 66 bits (04 R100): the mantissa and exponent, and whether the value differs. -/
def truncSig (x : Mag) : Nat × Int × Bool :=
  let k := x.m.log2 + 1 - 66
  (x.m / 2 ^ k, x.e + k, x.more || x.m % 2 ^ k != 0)

/-- Faith (04 R100): NX and UF are judged against the exact value, tininess on the rounded 66-bit one. -/
def faith (rm : Rm) (x : Mag) : Nat × FlagSet :=
  match fpOf 0 with
  | none => (0, 0)
  | some f =>
    if x.m = 0 then (f.enc x.neg 0, 0)
    else
      let (m, e, d) := truncSig x
      let (c, fl) := f.roundFin rm x.neg m e
      let qn := e + m.log2 - f.fb
      let (u, _) := roundAt rm x.neg m e qn
      let tiny := (u.log2 : Int) + qn < 1 - (f.bias : Int)
      let inexact := d || fl &&& fNX != 0
      (c, (fl &&& fOF) ||| fIf inexact fNX ||| fIf (tiny && inexact) fUF)

/-- A value delivered to a format: rounded once, or Faith for FP64 results marked faithful (04 R98-R100). -/
def deliverMag (c : Nat) (rm : Rm) (x : Mag) : Nat × FlagSet :=
  if c = 0 then faith rm x
  else if x.more then roundTo c rm (.fin x.neg (2 * x.m + 1) (x.e - 1))
  else roundTo c rm (.fin x.neg x.m x.e)

/-- An enclosure: the magnitude lies strictly between lo and hi times 2^e. -/
structure Encl where
  neg : Bool
  lo : Nat
  hi : Nat
  e : Int

/-- Deliver a value that no dyadic number equals, at precisions p, 2p, … until it is decided (04 R99). -/
def settle (c : Nat) (rm : Rm) (ev : Nat → Encl) : Nat → Nat → Nat × FlagSet
  | 0, p => let x := ev p; deliverMag c rm ⟨x.neg, x.lo, x.e, true⟩
  | n + 1, p =>
    let x := ev p
    let a := deliverMag c rm ⟨x.neg, x.lo, x.e, true⟩
    if x.lo.log2 ≥ 70 ∧ a = deliverMag c rm ⟨x.neg, x.hi - 1, x.e, true⟩ then a else settle c rm ev n (2 * p)

/-- The doublings of precision that settle may make: more than the deciding precision of any argument of the source formats
can ask for (04 R99; log 55). -/
def doublings : Nat := 2 ^ 64

/-! ### Fixed point: a value v stands for v / 2^p, with an error of a few units -/

/-- Sum of the odd powers z^(2k+1) / (2k+1) of a fixed-point z, signs alternating or not: n terms from k. -/
def atanSum (p : Nat) (alt : Bool) (z2 : Int) : Nat → Nat → Int → Int
  | 0, _, _ => 0
  | n + 1, k, t =>
    let rest := atanSum p alt z2 n (k + 1) (t * z2 / 2 ^ p)
    t / (2 * k + 1) + (if alt then -rest else rest)

/-- Terms enough for p bits when each gains at least one bit. -/
def terms (p : Nat) : Nat := p + 8

/-- π at p bits, within 2^10 × p units (Machin). -/
def piFix (p : Nat) : Int :=
  let a := fun (d : Int) => atanSum p true ((2 ^ p : Int) / (d * d)) (terms p / 2) 0 ((2 ^ p : Int) / d)
  16 * a 5 - 4 * a 239

/-- ln 2 at p bits: 2 atanh(1/3), within 2^4 × p units. -/
def ln2Fix (p : Nat) : Int := 2 * atanSum p false ((2 ^ p : Int) / 9) (terms p / 2) 0 ((2 ^ p : Int) / 3)

/-- Sum of t × y^j / (k+1)…(k+j): n terms of the exponential series from t. -/
def expSum (p : Nat) (y : Int) : Nat → Nat → Int → Int
  | 0, _, t => t
  | n + 1, k, t => t + expSum p y n (k + 1) (t * y / 2 ^ p / (k + 1))

/-- e^y of a fixed-point y in [−1, 1], within 4 × p units. -/
def expFix (p : Nat) (y : Int) : Int := expSum p y (terms p) 0 (2 ^ p)

/-- Sum of the terms t, t × z / ((k+1)(k+2)), …: n of them, for sine and cosine. -/
def trigSum (p : Nat) (z : Int) : Nat → Nat → Int → Int
  | 0, _, t => t
  | n + 1, k, t => t + trigSum p z n (k + 2) (t * z / 2 ^ p / ((k + 1) * (k + 2)))

/-- sin y of a fixed-point y in [−1, 1]. -/
def sinFix (p : Nat) (y : Int) : Int := trigSum p (-(y * y / 2 ^ p)) (terms p / 2) 1 y
/-- cos y of a fixed-point y in [−1, 1]. -/
def cosFix (p : Nat) (y : Int) : Int := trigSum p (-(y * y / 2 ^ p)) (terms p / 2) 0 (2 ^ p)

/-- A dyadic number in fixed point, toward −∞. -/
def toFix (p : Nat) (neg : Bool) (m : Nat) (e : Int) : Int :=
  let k := e + p
  let v : Int := if neg then -(m : Int) else m
  if k ≥ 0 then v * 2 ^ k.toNat else v / 2 ^ (-k).toNat

/-- Working precision for p bits: the errors of the series stay below 2^(w − p − 8) units. -/
def guard (p : Nat) : Nat := p + 4 * p.log2 + 40

/-- An enclosure of v / 2^w within a given number of units. -/
def enclOf (v : Int) (err : Nat) (e : Int) : Encl := ⟨v < 0, v.natAbs - err, v.natAbs + err, e⟩

/-- The error allowed at working precision w: 2^(2 log2 w + 16) units. -/
def slack (w : Nat) : Nat := 2 ^ (2 * w.log2 + 16)

/-! ### The functions (04 R99) -/

/-- e^x, or 2^x with two: n and the fraction r with the result 2^n × e^r. -/
def expEncl (two neg : Bool) (m : Nat) (e : Int) (p : Nat) : Encl :=
  let w := guard p
  let x := toFix w neg m e
  let l := ln2Fix w
  let n := if two then x / 2 ^ w else x / l
  let r := if two then (x - n * 2 ^ w) * l / 2 ^ w else x - n * l
  enclOf (expFix w r) (slack w * 2 ^ 14) (n - w)

/-- ln x of a positive m × 2^e at working precision w: e' ln 2 + 2 atanh((y − 1)/(y + 1)) for x = y × 2^e', 1 ≤ y < 2. -/
def lnFix (w : Nat) (m : Nat) (e : Int) : Int :=
  let k := m.log2
  let y := toFix w false m (-(k : Int))
  let z := (y - 2 ^ w) * 2 ^ w / (y + 2 ^ w)
  (e + k) * ln2Fix w + 2 * atanSum w false (z * z / 2 ^ w) (terms w) 0 z

/-- ln x. -/
def lnEncl (m : Nat) (e : Int) (p : Nat) : Encl :=
  let w := guard p
  enclOf (lnFix w m e) (slack w * 2 ^ 12) (-(w : Int))

/-- log2 x. -/
def log2Encl (m : Nat) (e : Int) (p : Nat) : Encl :=
  let w := guard p
  enclOf (lnFix w m e * 2 ^ w / ln2Fix w) (slack w * 2 ^ 24) (-(w : Int))

/-- The quarter turn and remainder of x: k and r with x = k π/2 + r, |r| ≤ π/4, at working precision w. -/
def reduce (w : Nat) (neg : Bool) (m : Nat) (e : Int) : Int × Int :=
  let big := w + (m.log2 + 1 + e).toNat
  let half := piFix (big + 16) / 2
  let x := toFix (big + 16) neg m e
  let k := (2 * x + half) / (2 * half)
  (k, (x - k * half) / 2 ^ (big + 16 - w))

/-- sin x, or cos x with one quarter turn more. -/
def trigEncl (cosine neg : Bool) (m : Nat) (e : Int) (p : Nat) : Encl :=
  let w := guard p
  let (k, r) := reduce w neg m e
  let q := (k + (if cosine then 1 else 0)) % 4
  let v := if q % 2 = 0 then sinFix w r else cosFix w r
  enclOf (if q ≥ 2 then -v else v) (slack w) (-(w : Int))

/-- tanh x = (e^2x − 1) / (e^2x + 1) of a positive x below 2^9. -/
def tanhEncl (m : Nat) (e : Int) (p : Nat) : Encl :=
  let w := guard p + 1024
  let x := toFix w false m (e + 1)
  let l := ln2Fix w
  let n := x / l
  let t := expFix w (x - n * l) * 2 ^ n.toNat
  enclOf ((t - 2 ^ w) * 2 ^ w / (t + 2 ^ w)) (slack w * 2 ^ 12) (-(w : Int))

/-- A value just above (or below) m × 2^e in magnitude, nearer than any rounding can tell (tiny and huge arguments). -/
def near (c : Nat) (rm : Rm) (neg : Bool) (m : Nat) (e : Int) (above : Bool) : Nat × FlagSet :=
  deliverMag c rm ⟨neg, if above then m * 2 ^ 200 else m * 2 ^ 200 - 1, e - 200, true⟩

/-- An exact value. -/
def exactMag (c : Nat) (rm : Rm) (neg : Bool) (m : Nat) (e : Int) : Nat × FlagSet := deliverMag c rm ⟨neg, m, e, false⟩

/-- Whether m × 2^e is an integer. -/
def isWhole (m : Nat) (e : Int) : Bool := e ≥ 0 || m % 2 ^ (-e).toNat == 0

/-- The exponent of the leading bit of m × 2^e. -/
def lead (m : Nat) (e : Int) : Int := e + m.log2

/-- texp and texp2 of a finite nonzero value. -/
def fExp (two : Bool) (c : Nat) (rm : Rm) (neg : Bool) (m : Nat) (e : Int) : Nat × FlagSet :=
  if lead m e < -200 then near c rm false 1 0 (!neg)
  else if lead m e > 12 then (if neg then near c rm false 1 (-8192) true else near c rm false 1 8192 true)
  else if two ∧ isWhole m e then exactMag c rm false 1 (toFix 0 neg m e)
  else settle c rm (expEncl two neg m e) doublings 192

/-- tlog and tlog2 of a positive finite value. -/
def fLog (two : Bool) (c : Nat) (rm : Rm) (m : Nat) (e : Int) : Nat × FlagSet :=
  if m = 2 ^ m.log2 ∧ lead m e = 0 then exactMag c rm false 0 0
  else if two ∧ m = 2 ^ m.log2 then exactMag c rm (lead m e < 0) (lead m e).natAbs 0
  else settle c rm (if two then log2Encl m e else lnEncl m e) doublings 192

/-- tsin and tcos of a finite nonzero value. -/
def fTrig (cosine : Bool) (c : Nat) (rm : Rm) (neg : Bool) (m : Nat) (e : Int) : Nat × FlagSet :=
  if lead m e < -200 then (if cosine then near c rm false 1 0 false else near c rm neg m e false)
  else settle c rm (trigEncl cosine neg m e) doublings 512

/-- ttanh of a finite nonzero value. -/
def fTanh (c : Nat) (rm : Rm) (neg : Bool) (m : Nat) (e : Int) : Nat × FlagSet :=
  if lead m e < -200 then near c rm neg m e false
  else if lead m e ≥ 8 then near c rm neg 1 0 false
  else settle c rm (fun p => { tanhEncl m e p with neg := neg }) doublings 512

/-- The bits of a whole square root from bit k - 1 down, over r. -/
def isqrtFrom (v : Nat) : Nat → Nat → Nat
  | 0, r => r
  | k + 1, r => isqrtFrom v k (if (r + 2 ^ k) * (r + 2 ^ k) ≤ v then r + 2 ^ k else r)

/-- The whole part of a square root. -/
def isqrt (v : Nat) : Nat := isqrtFrom v (v.log2 / 2 + 1) 0

/-- The square root of m × 2^e to at least 80 bits. -/
def sqrtMag (m : Nat) (e : Int) : Mag :=
  let k := 2 * (100 + m.log2) + (if (e % 2 = 0) then 0 else 1)
  let v := m * 2 ^ k
  let r := isqrt v
  ⟨false, r, (e - k) / 2, r * r != v⟩

/-- 1 / √(m × 2^e) to at least 80 bits. -/
def rsqrtMag (m : Nat) (e : Int) : Mag :=
  let k := 2 * (100 + m.log2) + (if (e % 2 = 0) then 0 else 1)
  let v := 2 ^ k / m
  let r := isqrt v
  ⟨false, r, -(k + e) / 2, r * r * m != 2 ^ k⟩

/-- 1 / (m × 2^e) to at least 80 bits. -/
def rcpMag (neg : Bool) (m : Nat) (e : Int) : Mag :=
  let k := 100 + m.log2
  ⟨neg, 2 ^ k / m, -(k : Int) - e, 2 ^ k % m != 0⟩

/-- tsqrt is correctly rounded in every format (04 R99). -/
def fSqrt (c : Nat) (rm : Rm) (m : Nat) (e : Int) : Nat × FlagSet :=
  let x := sqrtMag m e
  roundTo c rm (if x.more then .fin false (2 * x.m + 1) (x.e - 1) else .fin false x.m x.e)

/-- The transcendental functions. -/
inductive Fn where
  | exp
  | exp2
  | log
  | log2
  | sqrt
  | rsqrt
  | rcp
  | sin
  | cos
  | tanh
  deriving DecidableEq, Repr

/-- A result that is an exact value with flags. -/
def special (c : Nat) (rm : Rm) (v : Val) (f : FlagSet) : Nat × FlagSet :=
  let (r, g) := roundTo c rm v
  (r, f ||| g)

/-- The value one. -/
def Val.one : Val := .fin false 1 0

/-- A function of an infinity (04 R99). -/
def fnInf (fn : Fn) (c : Nat) (rm : Rm) (neg : Bool) : Nat × FlagSet :=
  match fn with
  | .exp | .exp2 => special c rm (if neg then Val.zero else .inf false) 0
  | .log | .log2 | .sqrt => if neg then special c rm (.nan false) fNV else special c rm (.inf false) 0
  | .rsqrt => if neg then special c rm (.nan false) fNV else special c rm Val.zero 0
  | .rcp => special c rm (.fin neg 0 0) 0
  | .sin | .cos => special c rm (.nan false) fNV
  | .tanh => special c rm (.fin neg 1 0) 0

/-- A function of a zero (04 R99). -/
def fnZero (fn : Fn) (c : Nat) (rm : Rm) (neg : Bool) : Nat × FlagSet :=
  match fn with
  | .exp | .exp2 | .cos => special c rm Val.one 0
  | .log | .log2 => special c rm (.inf true) fDZ
  | .sqrt | .sin | .tanh => special c rm (.fin neg 0 0) 0
  | .rsqrt | .rcp => special c rm (.inf neg) fDZ

/-- A function of a finite nonzero value (04 R99). -/
def fnFin (fn : Fn) (c : Nat) (rm : Rm) (neg : Bool) (m : Nat) (e : Int) : Nat × FlagSet :=
  match fn with
  | .exp => fExp false c rm neg m e
  | .exp2 => fExp true c rm neg m e
  | .log => if neg then special c rm (.nan false) fNV else fLog false c rm m e
  | .log2 => if neg then special c rm (.nan false) fNV else fLog true c rm m e
  | .sqrt => if neg then special c rm (.nan false) fNV else fSqrt c rm m e
  | .rsqrt => if neg then special c rm (.nan false) fNV else deliverMag c rm (rsqrtMag m e)
  | .rcp => deliverMag c rm (rcpMag neg m e)
  | .sin => fTrig false c rm neg m e
  | .cos => fTrig true c rm neg m e
  | .tanh => fTanh c rm neg m e

/-- A function of a value, delivered to a format (04 R98, R99). -/
def transc (fn : Fn) (c : Nat) (rm : Rm) (v : Val) : Nat × FlagSet :=
  match v with
  | .nan sig => special c rm (.nan false) (fIf sig fNV)
  | .inf neg => fnInf fn c rm neg
  | .fin neg m e => if m = 0 then fnZero fn c rm neg else fnFin fn c rm neg m e

end Sys2Proof.Machine
end

