-- ==== Sys2Proof/Machine/Tiles.lean ====
section
/-!
DEFINITION. Tiles: descriptors (10 R239-R241), bank formats (10 R242, R243), tile operands and their elements (10 R244,
R245; 04 R84-R86), the checks at issue (10 R252, R253), the two queues (10 R254, 12 R310), and the stop and the resume
of an operation (10 R248, R249; 12 R318).
-/
namespace Sys2Proof.Machine

/-! ### Descriptors (10 R239, R240) -/

/-- A tile descriptor. -/
abbrev Desc := BitVec 128

/-- BASE. -/
def dBase (d : Desc) : Nat := bits d.toNat 15 0
/-- PITCH. -/
def dPitch (d : Desc) : Nat := bits d.toNat 31 16
/-- ROWS. -/
def dRows (d : Desc) : Nat := bits d.toNat 39 32
/-- COLS. -/
def dCols (d : Desc) : Nat := bits d.toNat 47 40
/-- VROWS. -/
def dVrows (d : Desc) : Nat := bits d.toNat 55 48
/-- VCOLS. -/
def dVcols (d : Desc) : Nat := bits d.toNat 63 56
/-- SCALE. -/
def dScale (d : Desc) : Nat := bits d.toNat 79 64
/-- RDONLY. -/
def dRdonly (d : Desc) : Bool := bitAt d.toNat 96
/-- A null descriptor. -/
def dNull (d : Desc) : Bool := dRows d == 0

/-- Whether a descriptor that is not null is well formed (10 R240). -/
def descOk (d : Desc) : Bool :=
  bits d.toNat 4 0 == 0 && bits d.toNat 20 16 == 0 && 1 ≤ dCols d && dCols d ≤ 128 && 1 ≤ dRows d && dRows d ≤ 128 &&
    dVrows d ≤ dRows d && dVcols d ≤ dCols d && bits d.toNat 127 97 == 0 && bits d.toNat 95 80 == 0

/-- A thread's descriptor of a tile name. -/
def Thread.desc (t : Thread) (n : Nat) : Desc := tget t.descs n 0
/-- The thread with a descriptor replaced; its storage is written whole. -/
def Thread.setDesc (t : Thread) (n : Nat) (d : Desc) : Thread :=
  ({ t with descs := if d = 0 then terase t.descs n else tset t.descs n d } : Thread).wrote (0x100 + n)

/-- A descriptor's field with a new value. -/
def dSet (d : Desc) (hi lo v : Nat) : Desc := BitVec.ofNat 128 (setBits d.toNat hi lo v)

/-- The format code of the bank that holds a local-store byte (10 R242). -/
def bankCode (bfmt : BitVec 64) (off : Nat) : Nat := bits bfmt.toNat (off / 4096 % 16 * 4 + 3) (off / 4096 % 16 * 4)

/-! ### Operands -/

/-- A tile operand of an operation: its OPND code (10 R253), descriptor, format, view, whether it is a destination, and
columns to a scale byte and scale bytes to a stored row (04 R85, 12 R315). -/
structure Opnd where
  opnd : Nat
  d : Desc
  fmt : Nat
  view : Bool := false
  dest : Bool := false
  grp : Nat := 32
  per : Nat

/-- An operand from a descriptor and its bank's code. -/
def mkOpnd (opnd : Nat) (d : Desc) (fmt : Nat) (view dest : Bool) : Opnd :=
  { opnd := opnd, d := d, fmt := fmt, view := view, dest := dest, per := ceilDiv (dCols d) 32 }

/-- Width of an element in bits; a reserved format counts as bytes (DEDUCED). -/
def Opnd.w (o : Opnd) : Nat := if fmtBits o.fmt = 0 then 8 else fmtBits o.fmt
/-- Rows of the view (10 R244). -/
def Opnd.rows (o : Opnd) : Nat := if o.view then dCols o.d else dRows o.d
/-- Columns of the view. -/
def Opnd.cols (o : Opnd) : Nat := if o.view then dRows o.d else dCols o.d
/-- Valid rows of the view. -/
def Opnd.vr (o : Opnd) : Nat := if o.view then dVcols o.d else dVrows o.d
/-- Valid columns of the view. -/
def Opnd.vc (o : Opnd) : Nat := if o.view then dVrows o.d else dVcols o.d
/-- Whether the operand is block-scaled (04 R85). -/
def Opnd.scaled (o : Opnd) : Bool := fmtScaled o.fmt
/-- Row bytes (10 R241). -/
def Opnd.rowBytes (o : Opnd) : Nat := ceilDiv (dCols o.d * o.w) 8

/-- Byte ranges as offset and length. -/
abbrev Ranges := List (Nat × Nat)

/-- The stored rows of an operand (10 R241). -/
def Opnd.dataRanges (o : Opnd) : Ranges :=
  (List.range (dRows o.d)).map (fun i => (dBase o.d + i * dPitch o.d, o.rowBytes))
/-- The scale range of a block-scaled operand (10 R241). -/
def Opnd.scaleRanges (o : Opnd) : Ranges := if o.scaled then [(dScale o.d, dRows o.d * o.per)] else []
/-- The footprint (10 R241). -/
def Opnd.foot (o : Opnd) : Ranges := o.dataRanges ++ o.scaleRanges

/-- Whether two footprints overlap. -/
def rangesMeet (a b : Ranges) : Bool := a.any (fun p => b.any (fun q => overlaps p.1 p.2 q.1 q.2))

/-! ### Checks (10 R252) -/

/-- A failed check: cause, REASON and OPND. -/
abbrev TileBad := Cause × Nat × Nat

/-- The trap of a failed check at issue (10 R253). -/
def tileTrap (i : Instr) (b : TileBad) : Res := .trap b.1 (wordVal i) (info253 b.2.1 b.2.2)

/-- Check 1: the tile is not null. -/
def chkNull (o : Opnd) : Option TileBad := if dNull o.d then some (.tileShape, 1, o.opnd) else none

/-- A range beyond the local store. -/
def chkPast (opnd : Nat) (rs : Ranges) : Option TileBad :=
  if rs.any (fun p => p.1 + p.2 > 65536) then some (.tileShape, 2, opnd) else none

/-- A range below the execute boundary. -/
def chkBelow (exb opnd : Nat) (rs : Ranges) : Option TileBad :=
  if rs.any (fun p => p.1 < exb * 256) then some (.segRights, 2, opnd) else none

/-- A range that check 2 refuses. -/
def chkRanges (exb opnd : Nat) (rs : Ranges) : Option TileBad := (chkPast opnd rs).or (chkBelow exb opnd rs)

/-- Check 2: the whole footprint ends in the local store, then it begins above the execute boundary (05 R123, R124; 10 R241); a
scale range is named by OPND 4 (10 R253). -/
def chkPlace (exb : Nat) (o : Opnd) : Option TileBad :=
  (chkPast o.opnd o.dataRanges).or ((chkPast 4 o.scaleRanges).or ((chkBelow exb o.opnd o.dataRanges).or (chkBelow exb 4 o.scaleRanges)))

/-- Whether a range reaches a bank of another code. -/
def spansCode (bfmt : BitVec 64) (f : Nat) (p : Nat × Nat) : Bool :=
  (List.range ((p.1 + p.2 - 1) / 4096 - p.1 / 4096 + 1)).any (fun k => bankCode bfmt (p.1 + 4096 * k) != f)

/-- Check 3: the format. -/
def chkFmt (bfmt : BitVec 64) (ok : Bool) (o : Opnd) : Option TileBad :=
  if fmtBits o.fmt = 0 then some (.tileFormat, 1, o.opnd)
  else if o.dataRanges.any (spansCode bfmt o.fmt) then some (.tileFormat, 2, o.opnd)
  else if ok then none else some (.tileFormat, 3, o.opnd)

/-- Check 4: the shape, and what a destination must have. -/
def chkShape (ok : Bool) (o : Opnd) : Option TileBad :=
  if !ok then some (.tileShape, 3, o.opnd)
  else if o.dest && dRows o.d > 1 && dPitch o.d < o.rowBytes then some (.tileShape, 4, o.opnd)
  else if o.dest && dRdonly o.d then some (.tileShape, 7, o.opnd)
  else none

/-- An exact alias of a destination (10 R251). -/
def exactAlias (d o : Opnd) : Bool :=
  !o.view && dBase d.d == dBase o.d && dPitch d.d == dPitch o.d && dRows d.d == dRows o.d && dCols d.d == dCols o.d &&
    dScale d.d == dScale o.d

/-- Check 5: an overlap of the destination with another operand; OPND is 4 where only its scale range meets the destination
(10 R253, 12 R317). -/
def chkAlias (exact : Bool) (d o : Opnd) : Option TileBad :=
  if !rangesMeet d.foot o.foot || (exact && exactAlias d o) then none
  else some (.tileAlias, if exact then 1 else 2, if rangesMeet d.foot o.dataRanges then o.opnd else 4)

/-- What an instruction accepts, beyond R252: formats and shapes, operand by operand, and exact aliases. -/
structure TileRule where
  fmtOk : Opnd → Bool
  shapeOk : Opnd → Bool
  exact : Bool := false

/-- The first failure of a list. -/
def firstBad {α : Type} (l : List α) (f : α → Option TileBad) : Option TileBad := l.findSome? f

/-- Checks 1 to 5 (10 R252); the first operand is the destination. -/
def tileChecks (c : Core) (r : TileRule) (ops : List Opnd) : Option TileBad :=
  (firstBad ops chkNull).or ((firstBad ops (chkPlace c.exb)).or ((firstBad ops (fun o => chkFmt c.bfmt (r.fmtOk o) o)).or
    ((firstBad ops (fun o => chkShape (r.shapeOk o) o)).or
      (match ops with
       | [] => none
       | d :: l => (firstBad l (chkAlias r.exact d)).or
          (match l with
           | a :: b :: _ => if b.dest then chkAlias r.exact b a else none
           | _ => none)))))

/-! ### Names under the repetition buffer (12 R320) -/

/-- How an issue turns names into descriptors: reissue number and stagger word; q = 0 is the thread's own issue. -/
structure Stag where
  q : Nat := 0
  w : Nat := 0

/-- A tile name at a reissue; field 0 d or C, 1 a or A, 2 b or B. -/
def Stag.name (g : Stag) (field : Nat) (n : BitVec 4) : BitVec 4 :=
  n + BitVec.ofNat 4 (g.q * bits g.w (4 * field + 3) (4 * field))

/-- A source field with its view bit at a reissue. -/
def Stag.view (g : Stag) (field : Nat) (a : BitVec 5) : BitVec 5 :=
  BitVec.ofNat 5 (bits a.toNat 4 4 * 16 + (g.name field (a.setWidth 4)).toNat)

/-- What the stride slots add to the BASE of a name, none where no slot is active for it. -/
def Stag.stride (g : Stag) (n : Nat) : Option Int :=
  let slot := fun (en tn lo : Nat) => if bitAt g.w en ∧ bits g.w (tn + 3) tn = n then some (g.q * (BitVec.ofNat 16 (bits g.w (lo + 15) lo)).toInt) else none
  if g.q = 0 then none
  else match slot 20 16 24, slot 44 40 48 with
    | none, none => none
    | x, y => some (x.getD 0 + y.getD 0)

/-- The operand of a tile name: TILE_NAME beyond the limit, the strides of a reissue (12 R320, R322). -/
def opndOf (s : State) (core : Nat) (t : Thread) (g : Stag) (n opnd : Nat) (view dest : Bool) : Except TileBad Opnd :=
  let c := s.core core
  let d := t.desc n
  if n ≥ t.tlim then .error (.tileName, 0, opnd)
  else match (if dNull d then none else g.stride n) with
    | none => .ok (mkOpnd opnd d (bankCode c.bfmt (dBase d)) view dest)
    | some k =>
      let b : Int := dBase d + k
      if b < 0 ∨ b > 65504 then .error (.tileShape, 2, opnd)
      else
        let f := bankCode c.bfmt b.toNat
        if fmtScaled f then .error (.tileFormat, 5, opnd)
        else .ok (mkOpnd opnd (dSet d 15 0 b.toNat) f view dest)

/-! ### Elements (04 R84, R85; 10 R245) -/

/-- n bytes of a core's local store. -/
def localRd (s : State) (core off n : Nat) : Nat := s.rd (aLocal core off) n

/-- The stored place of an element of the view. -/
def Opnd.stored (o : Opnd) (i j : Nat) : Nat × Nat := if o.view then (j, i) else (i, j)

/-- Whether an element of the view is valid. -/
def Opnd.valid (o : Opnd) (i j : Nat) : Bool := i < o.vr && j < o.vc

/-- The encoding of a stored element (04 R84). -/
def Opnd.codeAt (o : Opnd) (s : State) (core i j : Nat) : Nat :=
  let p := o.stored i j
  let a := dBase o.d + p.1 * dPitch o.d
  if o.w = 4 then bits (localRd s core (a + p.2 / 2) 1) (p.2 % 2 * 4 + 3) (p.2 % 2 * 4)
  else localRd s core (a + p.2 * (o.w / 8)) (o.w / 8)

/-- The scale byte of an element, 127 for a format that is not block-scaled (04 R85). -/
def Opnd.scaleAt (o : Opnd) (s : State) (core i j : Nat) : Nat :=
  let p := o.stored i j
  if o.scaled then localRd s core (dScale o.d + p.1 * o.per + p.2 / o.grp) 1 else 127

/-- The encoding of an element, or the fill outside the valid extent. -/
def Opnd.enc (o : Opnd) (s : State) (core : Nat) (fill i j : Nat) : Nat :=
  if o.valid i j then o.codeAt s core i j else fill

/-- The exact value of an element, or the fill outside the valid extent (04 R85, 10 R245). -/
def Opnd.val (o : Opnd) (s : State) (core : Nat) (fill : Val) (i j : Nat) : Val :=
  if !o.valid i j then fill
  else if o.scaled then scaledValue o.fmt (o.codeAt s core i j) (o.scaleAt s core i j)
  else fmtValue o.fmt (o.codeAt s core i j)

/-- WriteElem to an element of a destination (10 R246). -/
def writeElem (o : Opnd) (s : State) (core : Nat) (rm : Rm) (v : Val) (i j : Nat) : Nat × FlagSet :=
  if o.scaled then roundScaled o.fmt rm v (o.scaleAt s core i j) else roundTo o.fmt rm v

/-- CopyElem of a source element to a destination's element (10 R246); outside the extent the source is +0. -/
def copyElem (o a : Opnd) (s : State) (core : Nat) (ai aj i j : Nat) : Nat × FlagSet :=
  if a.fmt = o.fmt ∧ !o.scaled then (a.enc s core 0 ai aj, 0)
  else writeElem o s core .rne (a.val s core .zero ai aj) i j

/-- The bytes that the elements of a rectangle of the view occupy, with their scale bytes and OPND: rows r to r + nr,
columns c to c + nc, clipped to the valid extent. -/
def Opnd.rect (o : Opnd) (r nr c nc : Nat) : List (Nat × Nat × Nat) :=
  let nr := min nr (o.vr - r)
  let nc := min nc (o.vc - c)
  let (r, nr, c, nc) := if o.view then (c, nc, r, nr) else (r, nr, c, nc)
  if nr = 0 ∨ nc = 0 then []
  else
    let data := (List.range nr).map (fun k =>
      let lo := c * o.w / 8
      (dBase o.d + (r + k) * dPitch o.d + lo, ceilDiv ((c + nc) * o.w) 8 - lo, o.opnd))
    let scales := (List.range nr).map (fun k =>
      (dScale o.d + (r + k) * o.per + c / o.grp, (c + nc - 1) / o.grp - c / o.grp + 1, 4))
    if o.scaled then data ++ scales else data

/-- The scale bytes of a rectangle alone, which a write to a block-scaled destination reads (04 R86). -/
def Opnd.rectScales (o : Opnd) (r nr c nc : Nat) : List (Nat × Nat × Nat) := (o.rect r nr c nc).filter (fun p => p.2.2 == 4)

/-- The first byte among ranges that meets an error or a poison mark: cause, granule and OPND (10 R248). -/
def firstFault (s : State) (core : Nat) (l : List (Nat × Nat × Nat)) : Option (Cause × Nat × Nat) :=
  l.findSome? (fun p => (wordsOf (aLocal core p.1) p.2.1).findSome? (fun w =>
    if setHas s.eccBad w then some (Cause.eccUncorr, (w - aLocal core 0) / 32 * 32, p.2.2)
    else if setHas s.poison w then some (.poison, (w - aLocal core 0) / 32 * 32, p.2.2)
    else none))

/-- Codes packed from element 0 up. -/
def packCodes (w : Nat) (l : List Nat) : Nat := l.foldr (fun c v => c % 2 ^ w + 2 ^ w * v) 0

/-- Write consecutive elements of a stored row, from column c: the other nibble of a shared byte stays (04 R84). -/
def putRow (s : State) (wr : Writer) (core : Nat) (o : Opnd) (i c : Nat) (codes : List Nat) : State :=
  let nb := codes.length * o.w
  let a := aLocal core (dBase o.d + i * dPitch o.d + c * o.w / 8)
  let n := ceilDiv nb 8
  let v := packCodes o.w codes + (if nb % 8 = 0 then 0 else s.rd a n / 2 ^ nb * 2 ^ nb)
  if codes.isEmpty then s else s.perfWrite wr a v n

/-! ### Queues (10 R254, 12 R310) -/

/-- Whether an instruction runs through the matrix queue (12 R310). -/
def matrixWord (w : BitVec 32) : Bool := fld w 0 7 == 0x2B

/-- The queue of an operation. -/
def TileOp.mat (op : TileOp) : Bool := matrixWord op.word

/-- T up by one. -/
def countT (s : State) (a : Agent) : State := s.modTh a (fun t => { t with cnt := { t.cnt with t := t.cnt.t + 1 } })

/-- Whether a core's queue has room for an operation. -/
def queueRoom (c : Core) (mat : Bool) : Bool := if mat then c.matQ.length < 4 else c.tileQ.length < 32

/-- The step that runs a queue: a strip of the datapath, or the octet's next served entry. -/
def queueStep (core : Nat) (mat : Bool) : Event := if mat then .vernierEntry (octetOf core) else .tileStrip core

/-- An operation enters its queue. -/
def enterQueue (s : State) (core : Nat) (op : TileOp) : State :=
  let op := { op with id := s.nextId }
  ((s.modCore core (fun c => if op.mat then { c with matQ := c.matQ ++ [op] } else { c with tileQ := c.tileQ ++ [op] })).fresh).dueOnce
    (queueStep core op.mat)

/-- Issue an operation: T and the extra counts that come with the last captured word, the queue, or the park (10 R254,
07 R192, 12 R322). -/
def issueOp (e : Env) (op : TileOp) : Res :=
  let x := seqExtra e.th e.i
  if e.th.cnt.t + x.1 ≥ 63 then .park (.counterFull 3) e.th.prog e.s
  else if e.th.cnt.c + x.2 > 63 then .park (.counterFull 2) e.th.prog e.s
  else if !queueRoom (e.s.core e.ag.core) op.mat then .park (if op.mat then .matQueue else .tileQueue) e.th.prog e.s
  else doneS (enterQueue (countT e.s e.ag) e.ag.core op)

/-! ### Operands of a queued operation -/

/-- The descriptors and codes of operands. -/
def capture (ops : List Opnd) : List Desc × List (BitVec 4) := (ops.map (fun o => o.d), ops.map (fun o => BitVec.ofNat 4 o.fmt))

/-- Operand n of a captured operation. -/
def TileOp.opnd (op : TileOp) (n opnd : Nat) (view dest : Bool) : Opnd :=
  mkOpnd opnd (op.descs.getD n 0) (op.codes.getD n 0).toNat view dest

/-! ### What an operation must wait for (07 R175, R176, R180; 14 R357) -/

/-- The queued operations of a core. -/
def Core.ops (c : Core) : List TileOp := c.tileQ ++ c.matQ

/-- Whether an earlier scalar access of the operation's thread to its bytes is still to be performed (07 R175). -/
def scalarAhead (s : State) (core : Nat) (op : TileOp) (foot : Ranges) : Bool :=
  s.net.any (fun p => p.1 < op.id && p.2.tag == op.tag && !p.2.done && spaceOf p.2.addr == 1 && p.2.core == core &&
    foot.any (fun r => overlaps (aLocal core r.1) r.2 p.2.addr p.2.size))

/-- Whether a bank of a step's bytes is held: by a scalar access that goes first (06 R143), or by a sibling's lock
(14 R357). -/
def bankHeld (s : State) (core slot : Nat) (l : List (Nat × Nat)) : Bool :=
  l.any (fun p => scalarFirst s core p.1 p.2 || (List.range ((p.1 + p.2 - 1) / 4096 - p.1 / 4096 + 1)).any (fun k =>
    match (tget (s.core core).locks ((p.1 / 4096 + k) % 16) {}).holder with
    | some h => h != slot
    | none => false))

/-! ### Stop and resume (10 R248, R249; 12 R318) -/

/-- The thread with operations held at the front of its list: T falls by them, TPROG names the new head. -/
def holdOps (t : Thread) (new : List TileOp) : Thread :=
  let old := match t.held with | [] => [] | h :: r => { h with next := t.csr.tprog.toNat } :: r
  match new with
  | [] => t
  | h :: _ => { t with held := new ++ old, cnt := { t.cnt with t := t.cnt.t - new.length }, csr := { t.csr with tprog := BitVec.ofNat 16 h.next } }

/-- Whether an operation has started: the head of its queue with steps done. -/
def opStarted (s : State) (core : Nat) (op : TileOp) : Bool :=
  let c := s.core core
  let q := if op.mat then c.matQ else c.tileQ
  (match q.head? with | some h => h.id == op.id | none => false) &&
    (op.next != 0 || (op.mat && (tget (s.octet (octetOf core)).partialWork (placeOf core) 0 != 0)))

/-- Operations leave the queues of a core. -/
def dropOps (s : State) (core : Nat) (ids : List Nat) : State :=
  s.modCore core (fun c => { c with tileQ := c.tileQ.filter (fun o => !ids.contains o.id), matQ := c.matQ.filter (fun o => !ids.contains o.id) })

/-- Stop an operation and hold it, with every later operation of its thread that has not started, in issue order. -/
def stopOps (s : State) (core : Nat) (op : TileOp) : State :=
  let later := sortBy (fun a b => a.id ≤ b.id) ((s.core core).ops.filter (fun o => o.tag == op.tag && op.id < o.id && !opStarted s core o))
  let l := op :: later
  (dropOps s core (l.map (fun o => o.id))).modTag (.thread op.slot) op.tag (fun t => holdOps t l)

/-- The mark of a fault stop (10 R253). -/
def stopMark (op : TileOp) (c : Cause) (tval opnd : Nat) : Mark :=
  { cause := c, tval := BitVec.ofNat 64 tval,
    tinfo := BitVec.ofNat 64 (op.word.toNat * 2 ^ 32 + op.pc.toNat * 2 ^ 16 + 2 ^ 7 + opnd * 2 ^ 4) }

/-- A fault stop: the held list, and the asynchronous trap (10 R248). -/
def faultStop (s : State) (core : Nat) (op : TileOp) (c : Cause) (tval opnd : Nat) : State :=
  (stopOps s core op).raise (.thread op.slot) op.tag (asyncOf (stopMark op c tval opnd))

/-- An operation is over: T falls and it leaves its queue. -/
def finishOp (s : State) (core : Nat) (op : TileOp) : State :=
  (dropOps s core [op.id]).modTag (.thread op.slot) op.tag (fun t => { t with cnt := { t.cnt with t := t.cnt.t - 1 } })

/-- The state with a queued operation's next step set. -/
def setNext (s : State) (core id n : Nat) : State :=
  let f := fun (o : TileOp) => if o.id = id then { o with next := n } else o
  s.modCore core (fun c => { c with tileQ := c.tileQ.map f, matQ := c.matQ.map f })

end Sys2Proof.Machine
end

