-- ==== Sys2Proof/Machine/Copy.lean ====
section
/-!
DEFINITION. Copy: copy transfers (11 R277-R290, R296-R298; 08 R206-R209; 09 R237): the checks at issue, what an engine
reads and writes, its end, `cstat` and `ccancel`.
A transfer is an ordered list of cells of its destination: elements, scale bytes, or bytes of a stream.  Each step of its
engine reads the source words that the next unit needs, a granule at a time, or writes that unit whole.
-/
namespace Sys2Proof.Machine

/-! ### Status (11 R278, R289) -/

/-- A status word. -/
def statusBits (seq code sub row col n : Nat) : BitVec 64 :=
  BitVec.ofNat 64 (seq % 2 ^ 16 * 2 ^ 48 + code % 16 * 2 ^ 44 + sub % 16 * 2 ^ 40 + row % 256 * 2 ^ 32 + col % 256 * 2 ^ 24 + min n 0xFFFFFF)

/-- The ring entry of a sequence. -/
def Thread.ringEnt (t : Thread) (seq : Nat) : BitVec 64 := tget t.ring (seq % 16) 0

/-- cstat (11 R289). -/
def execCstat (d a : BitVec 5) (st : State) : Outc :=
  runIns st (.cstat d a) { dst := some d, srcs := [(1, a)] } (fun e =>
    if bitAt e.a.toNat 63 then done e (e.th.xseq.setWidth 64)
    else
      let n := bits e.a.toNat 15 0
      let w := e.th.ringEnt n
      done e (if bits w.toNat 63 48 = n then w else statusBits n 15 0 0 0 0))

/-! ### Engines and their queues (11 R279) -/

/-- Whether a transfer is among the 8 that its engine works on. -/
def running (s : State) (id : Nat) (t : Transfer) : Bool := s.active (clusterOf t.core) t.engine id

/-- The state with a transfer replaced. -/
def putTransfer (s : State) (id : Nat) (t : Transfer) : State := { s with transfers := tset s.transfers id t }

/-- The event that drives a transfer. -/
def Transfer.event (t : Transfer) (id : Nat) : Event :=
  match t.ins with
  | .sbind _ _ => .sbindStreamPush id
  | .red _ _ _ => .redContributionArrival id
  | _ => .copyUnitWrite id

/-- A transfer begins: its sequence, its ring entry, C, its engine (11 R277, R278). -/
def startTransfer (s : State) (slot : Nat) (t : Transfer) (k : Nat) : State :=
  let id := s.nextId
  match tfind s.threads slot with
  | none => s
  | some th =>
    let seq := th.xseq
    let th := { th with xseq := seq + 1, ring := tset th.ring (seq.toNat % 16) (statusBits seq.toNat 0 0 0 0 0), cnt := { th.cnt with c := th.cnt.c + 1 } }
    let t := { t with seq := seq, engine := k }
    let s := (putTransfer { s with threads := tset s.threads slot th } id t).fresh
    (s.modCluster (clusterOf t.core) (fun c => { c with engines := tset c.engines k (c.queue k ++ [id]) })).due (t.event id)

/-- A transfer leaves what it waits at: the page that parked it (09 R236) and the contended points of its way. -/
def leaveWaits (s : State) (id : Nat) (t : Transfer) : State :=
  dropClaim (match t.fault with | some (d, _) => s.leavePages d (2 ^ 32 + id) | none => s) id

/-- The end of a transfer is decided: CODE, SUB, ROW and COL; its status is then written (11 R278). -/
def endTransfer (s : State) (id : Nat) (t : Transfer) (code sub row col : Nat) : State :=
  if t.ended.isSome then s
  else (putTransfer (leaveWaits s id t) id { t with fault := none, ended := some (code, sub, row, col) }).due (.copyCompletion id)

/-- What a codec writes into its parameter block (11 R296): BLOCK and WRITTEN. -/
def codecDone (s : State) (t : Transfer) (code row col : Nat) : State :=
  let put := fun (s : State) =>
    s.perfWrite { cls := 1, owner := t.owner, ident := 0, tag := 0, core := t.core } (aLocal t.core (t.xs.toNat + 32))
      ((if code = 1 then 0 else (row * 256 + col) % 2 ^ 32) + t.bytes * 2 ^ 64) 16
  match t.ins with
  | .czip _ _ => put s
  | .cunzip _ _ => put s
  | _ => s

/-- COPY_COMPLETION: the final status, the flags, C (11 R278, R282; 04 R93). -/
def doCopyCompletion (s : State) (id : Nat) : State :=
  match tfind s.transfers id with
  | none => s
  | some t =>
    match t.ended with
    | none => s
    | some (code, sub, row, col) =>
      if t.wait.isSome then again s (.copyCompletion id) else
      let s := codecDone s t code row col
      let w := statusBits t.seq.toNat code sub row col t.bytes
      let set := fun (h : Thread) =>
        ({ h with ring := tset h.ring (t.seq.toNat % 16) w, cnt := { h.cnt with c := h.cnt.c - 1 } } : Thread).joinFlags t.flags
      ({ s with transfers := terase s.transfers id }.modTag (.thread t.slot) t.tag set).modCluster (clusterOf t.core)
        (fun c => { c with engines := tset c.engines t.engine ((c.queue t.engine).filter (fun k => k != id)) })

/-- COPY_COMPLETION (11 R278). -/
def execCopyCompletion (s : State) : Outc :=
  match s.ev with
  | some (.copyCompletion id) => evDo (.copyCompletion id) (doCopyCompletion s id)
  | _ => .fault .noSuchUnit

/-! ### Layouts (11 R280, R281) -/

/-- Where the elements of an array stand: its format, the address of row 0, bytes from row to row, and for a tile its
scale bytes and their number to a row; memory rows of a block-scaled format carry their scale bytes. -/
structure Lay where
  fmt : Nat
  base : Nat
  pitch : Nat
  scale : Option (Nat × Nat)

/-- Bytes of a memory block of a block-scaled format (11 R281). -/
def blkBytes (f : Nat) : Nat := if f = 6 then 17 else 33

/-- Bytes of a memory row of n columns (11 R281). -/
def rowSize (f n : Nat) : Nat := if fmtScaled f then ceilDiv n 32 * blkBytes f else n * (fmtBits f / 8)

/-- Byte of an element. -/
def Lay.elem (l : Lay) (i j : Nat) : Nat :=
  l.base + i * l.pitch + (if fmtScaled l.fmt ∧ l.scale.isNone then j / 32 * blkBytes l.fmt + 1 + j % 32 * fmtBits l.fmt / 8 else j * fmtBits l.fmt / 8)

/-- Byte of a block's scale. -/
def Lay.sc (l : Lay) (i b : Nat) : Nat :=
  match l.scale with
  | some (k, per) => k + i * per + b
  | none => l.base + i * l.pitch + b * blkBytes l.fmt

/-- The layout of a tile. -/
def tileLay (d : Desc) (code : BitVec 4) : Lay :=
  { fmt := code.toNat, base := dBase d, pitch := dPitch d, scale := some (dScale d, ceilDiv (dCols d) 32) }

/-- Bytes from one memory row to the next (11 R280). -/
def swPitch (w : BitVec 64) : Nat := bits w.toNat 31 0
/-- The memory format of a stride word beside a tile's format (11 R280). -/
def swFmt (w : BitVec 64) (tile : Nat) : Nat := if bitAt w.toNat 40 then bits w.toNat 39 36 else tile

/-- The layout of a transfer's memory rows. -/
def Transfer.rows (t : Transfer) : Lay := { fmt := swFmt t.xs t.code.toNat, base := t.at_, pitch := swPitch t.xs, scale := none }

/-! ### What has been read (08 R208) -/

/-- Why a cell cannot be written yet, or never: a byte of the source or of the destination to read, or a malformed PX8
block at an address, of a row and block. -/
inductive Want where
  | src (a : Nat)
  | dst (a : Nat)
  | px (a row blk : Nat)
  deriving DecidableEq, Repr

/-- The key of a destination byte, of which a nibble stays. -/
def dstKey (a : Nat) : Nat := 2 ^ 62 + a

/-- A byte read from the source with its mark. -/
def Transfer.byte (t : Transfer) (a : Nat) : Except Want (Nat × Bool) :=
  match tfind t.seen (a / 8 * 8) with
  | some (v, m) => .ok (bits v.toNat (a % 8 * 8 + 7) (a % 8 * 8), m)
  | none => .error (.src a)

/-- n bytes read from the source, with the mark of any. -/
def Transfer.num (t : Transfer) (a : Nat) : Nat → Except Want (Nat × Bool)
  | 0 => .ok (0, false)
  | n + 1 => do
    let (b, m) ← t.byte a
    let (v, k) ← t.num (a + 1) n
    return (b + 256 * v, m || k)

/-- The code of an element of a layout. -/
def Transfer.elem (t : Transfer) (l : Lay) (i j : Nat) : Except Want (Nat × Bool) :=
  if fmtBits l.fmt = 4 then do
    let (b, m) ← t.byte (l.elem i j)
    return (bits b (j % 2 * 4 + 3) (j % 2 * 4), m)
  else t.num (l.elem i j) (fmtBits l.fmt / 8)

/-- The exact value of an element, under its block's scale (11 R282, 04 R85). -/
def Transfer.value (t : Transfer) (l : Lay) (i j : Nat) : Except Want (Val × Bool) := do
  let (c, m) ← t.elem l i j
  if fmtScaled l.fmt then
    let (k, n) ← t.byte (l.sc i (j / 32))
    return (scaledValue l.fmt c k, m || n)
  else return (fmtValue l.fmt c, m)

/-! ### Cells -/

/-- A cell of a destination: address, width in bits and whether a nibble is the high one; the row and column (or block)
that its status would name; and its code, flags and mark. -/
structure Cell where
  at_ : Nat
  w : Nat
  hi : Bool
  row : Nat
  col : Nat
  ev : Except Want (Nat × FlagSet × Bool)

/-- The cells of a transfer, in the order in which they are written, and how it ends after the last: CODE, ROW, COL. -/
structure Plan where
  cells : List Cell
  code : Nat := 1
  row : Nat := 0
  col : Nat := 0

/-- The elements and scale bytes of a rectangle in ascending order of address (08 R206). -/
def rectCells (l : Lay) (vr vc : Nat) (px : Bool) (elem : Nat → Nat → Except Want (Nat × FlagSet × Bool))
    (scale : Nat → Nat → Except Want (Nat × FlagSet × Bool)) : List Cell :=
  let el := (List.range vr).flatMap (fun i => (List.range vc).map (fun j =>
    (Cell.mk (l.elem i j) (fmtBits l.fmt) (fmtBits l.fmt == 4 && j % 2 == 1) i (if px then j / 32 else j) (elem i j))))
  let sc := (List.range vr).flatMap (fun i => (List.range (ceilDiv vc 32)).map (fun b =>
    (Cell.mk (l.sc i b) 8 false i (if px then b else 32 * b) (scale i b))))
  sortBy (fun a b => a.at_ < b.at_ || (a.at_ == b.at_ && (!a.hi || b.hi))) (if fmtScaled l.fmt then el ++ sc else el)

/-- The valid values of a block of a row. -/
def Transfer.block (t : Transfer) (src : Lay) (vc i b : Nat) : Except Want (List Val × Bool) := do
  let l ← (List.range (min 32 (vc - 32 * b))).mapM (fun k => t.value src i (32 * b + k))
  return (l.map Prod.fst, l.any Prod.snd)

/-- What a copy writes for an element (11 R282). -/
def Transfer.convElem (t : Transfer) (src dst : Lay) (vc i j : Nat) : Except Want (Nat × FlagSet × Bool) := do
  if src.fmt = dst.fmt then
    let (c, m) ← t.elem src i j
    return (c, 0, m)
  else if fmtScaled dst.fmt then
    let (l, m) ← t.block src vc i (j / 32)
    let (c, f) := quantise dst.fmt (blockScale dst.fmt l) true (l.getD (j % 32) Val.zero)
    return (c, f, m)
  else
    let (v, m) ← t.value src i j
    let (c, f) := roundTo dst.fmt .rne v
    return (c, f, m)

/-- What a copy writes for a scale byte (11 R282, R283). -/
def Transfer.convScale (t : Transfer) (src dst : Lay) (vc i b : Nat) : Except Want (Nat × FlagSet × Bool) := do
  if src.fmt = dst.fmt then
    let (c, m) ← t.byte (src.sc i b)
    return (c, 0, m)
  else
    let (l, m) ← t.block src vc i b
    return (blockScale dst.fmt l, 0, m)

/-- The plan of a converting copy. -/
def Transfer.convert (t : Transfer) (src dst : Lay) (vr vc : Nat) : Plan :=
  { cells := rectCells dst vr vc false (t.convElem src dst vc) (t.convScale src dst vc) }

/-! ### PX8 (11 R286) -/

/-- Block b of row i, read from its place in the row's range: scale, elements and mark; k blocks still come before it,
at offset p, which derives from words of which one is marked if bad. -/
def Transfer.pxBlock (t : Transfer) (i b : Nat) : Nat → Nat → Bool → Except Want (Nat × List Nat × Bool)
  | k, p, bad_ => do
    let a := t.at_ + i * swPitch t.xs + p
    let bad := Want.px a i (b - k)
    if p + 3 > swPitch t.xs then throw bad
    let (h, _) ← t.num a 3
    let n := pxLen h
    if n < 23 ∨ n > 51 ∨ p + n > swPitch t.xs then throw bad
    let (v, m) ← t.num a n
    match pxDecode v with
    | none => throw bad
    | some (sc, l) =>
      match k with
      | 0 => return (sc, l, bad_ || m)
      | k + 1 => t.pxBlock i b k (p + n) (bad_ || m)

/-- The plan of `cpy.ld.px8`. -/
def Transfer.pxLoad (t : Transfer) : Plan :=
  let el := fun (i j : Nat) => do
    let (_, l, m) ← t.pxBlock i (j / 32) (j / 32) 0 false
    return (l.getD (j % 32) 0, 0, m)
  let sc := fun (i b : Nat) => do
    let (k, _, m) ← t.pxBlock i b b 0 false
    return (k, 0, m)
  { cells := rectCells (tileLay t.desc t.code) (dVrows t.desc) (dVcols t.desc) true el sc }

/-- The encoded blocks of a row of `cpy.st.px8`: bytes with their block and mark (04 R97). -/
def Transfer.pxRow (t : Transfer) (i : Nat) : Except Want (List (Nat × Nat × Bool)) := do
  let src := tileLay t.desc t.code
  let vc := dVcols t.desc
  let bs ← (List.range (ceilDiv vc 32)).mapM (fun b => do
    let l ← (List.range (min 32 (vc - 32 * b))).mapM (fun k => t.elem src i (32 * b + k))
    let (k, m) ← t.byte (src.sc i b)
    let (v, n) := pxEncode k (l.map Prod.fst ++ List.replicate (32 - l.length) 0)
    return (List.range n).map (fun q => (bits v (8 * q + 7) (8 * q), b, m || l.any Prod.snd)))
  return markOn false bs.flatten
where
  /-- A byte stands where the blocks before it end, and so derives from their words as well. -/
  markOn : Bool → List (Nat × Nat × Bool) → List (Nat × Nat × Bool)
    | _, [] => []
    | m, (v, b, k) :: r => (v, b, m || k) :: markOn (m || k) r

/-- The plan of `cpy.st.px8`. -/
def Transfer.pxStore (t : Transfer) : Except Want Plan := do
  let rows ← (List.range (dVrows t.desc)).mapM t.pxRow
  return { cells := (rows.zipIdx).flatMap (fun r => (r.1.zipIdx).map (fun x =>
    (Cell.mk (t.at_ + r.2 * swPitch t.xs + x.2) 8 false r.2 x.1.2.1 (.ok (x.1.1, 0, x.1.2.2))))) }

/-! ### The error-bounded codec (11 R296-R298) -/

/-- Bytes at an address as cells of a block. -/
def byteCells (a blk : Nat) (m : Bool) (l : List Nat) : List Cell :=
  (l.zipIdx).map (fun p => Cell.mk (a + p.2) 8 false (blk / 256) (blk % 256) (.ok (p.1, 0, m)))

/-- Dword n of a codec's parameter block. -/
def Transfer.arg (t : Transfer) (n : Nat) : Nat := (t.args.getD n 0).toNat

/-- The blocks of `czip` that fit, from block b at offset p, which derives from a marked word where m says so: cells, the
length, the block that does not fit, and whether a word of any block is marked. -/
def Transfer.zipBlocks (t : Transfer) (e : Int) (count : Nat) : Nat → Nat → Nat → Bool → Except Want (List Cell × Nat × Option Nat × Bool)
  | 0, _, p, m => .ok ([], p, none, m)
  | k + 1, b, p, m => do
    let xs ← (List.range (min 64 (count - 64 * b))).mapM (fun i => t.num (t.at_ + 4 * (64 * b + i)) 4)
    let l := zipBlock e (xs.map Prod.fst)
    let m := m || xs.any Prod.snd
    if p + l.length > t.arg 3 then return ([], p, some b, m)
    let (r, n, x, w) ← t.zipBlocks e count k (b + 1) (p + l.length) m
    return (byteCells (t.at2 + p) b m l ++ r, n, x, w)

/-- The plan of `czip`.  A CAP in which not even the header fits names block 0, and a marked word of any block names block 0
with the header, which takes the mark: DESIGN CHOICE (log 116). -/
def Transfer.zip (t : Transfer) : Except Want Plan := do
  let count := bits (t.arg 2) 31 0
  let e := (zipExp (bits (t.arg 2) 47 32)).getD 0
  if t.arg 3 < 16 then return { cells := [], code := 7 }
  let (l, n, x, m) ← t.zipBlocks e count (ceilDiv count 64) 0 16 false
  match x with
  | some b => return { cells := l, code := 7, row := b / 256, col := b % 256 }
  | none => return { cells := l ++ byteCells t.at2 0 m (zipHeader count e n) }

/-- A stream being decoded: bit position, and marks met. -/
structure ZPos where
  n : Nat
  bad : Bool

/-- One bit of a stream of a given length in bytes; none past its end (11 R298). -/
def Transfer.zbit (t : Transfer) (len : Nat) (p : ZPos) : Except Want (Option (Bool × ZPos)) :=
  if p.n ≥ 8 * len then .ok none
  else do
    let (b, m) ← t.byte (t.at_ + p.n / 8)
    return some (bitAt b (p.n % 8), { n := p.n + 1, bad := p.bad || m })

/-- k bits, highest first. -/
def Transfer.zbits (t : Transfer) (len : Nat) : Nat → Nat → ZPos → Except Want (Option (Nat × ZPos))
  | 0, v, p => .ok (some (v, p))
  | k + 1, v, p => do
    match ← t.zbit len p with
    | none => return none
    | some (b, p) => t.zbits len k (2 * v + b.toNat) p

/-- The ones before a zero, with fuel for the bits left. -/
def Transfer.zones (t : Transfer) (len : Nat) : Nat → Nat → ZPos → Except Want (Option (Nat × ZPos))
  | 0, _, _ => .ok none
  | f + 1, v, p => do
    match ← t.zbit len p with
    | none => return none
    | some (false, p) => return some (v, p)
    | some (true, p) => t.zones len f (v + 1) p

/-- The values of a block: n escape bits given, the quotient before; none where malformed. -/
def Transfer.zvals (t : Transfer) (len k : Nat) (e : Int) : List Bool → Int → Nat → ZPos → Except Want (Option (List Nat × ZPos))
  | [], _, _, p => .ok (some ([], p))
  | true :: r, _, idx, p => do
    match ← t.zbits len 32 0 p with
    | none => return none
    | some (c, p) =>
      match ← t.zvals len k e r 0 (idx + 1) p with
      | none => return none
      | some (l, p) => return some (c :: l, p)
  | false :: r, pred, idx, p => do
    match ← t.zones len (8 * len - p.n) 0 p with
    | none => return none
    | some (u, p) =>
      match ← t.zbits len k u p with
      | none => return none
      | some (z, p) =>
        let q := pred + unzig z
        if q.natAbs ≥ 2 ^ 40 then return none
        let c := (unzipVal e q).getD (bits (Config.freeWord (t.seq.toNat * 2 ^ 32 + idx)).toNat 31 0)
        match ← t.zvals len k e r q (idx + 1) p with
        | none => return none
        | some (l, p) => return some (c :: l, p)

/-- One block of n values from value number idx: none where malformed (11 R298). -/
def Transfer.zblock (t : Transfer) (len n idx : Nat) (e : Int) (p : ZPos) : Except Want (Option (List Nat × ZPos)) := do
  match ← t.zbits len 6 0 p with
  | none => return none
  | some (k, p) =>
    if k > 41 then return none
    match ← t.zbit len p with
    | none => return none
    | some (anyEsc, p) =>
      match ← t.zbits len (if anyEsc then n else 0) 0 p with
      | none => return none
      | some (esc, p) =>
        match ← t.zvals len k e (if anyEsc then bitsHigh esc n else List.replicate n false) 0 idx p with
        | none => return none
        | some (l, p) =>
          let pad := (8 - p.n % 8) % 8
          match ← t.zbits len pad 0 p with
          | none => return none
          | some (z, p) => return if z = 0 then some (l, p) else none

/-- The cells of a block of values. -/
def valueCells (a blk : Nat) (m : Bool) (l : List Nat) : List Cell :=
  (l.zipIdx).map (fun p => Cell.mk (a + 4 * p.2) 32 false (blk / 256) (blk % 256) (.ok (p.1, 0, m)))

/-- The blocks of `cunzip` from block b: each stands where those before it end, and takes their marks (11 R288). -/
def Transfer.zblocks (t : Transfer) (len count : Nat) (e : Int) : Nat → Nat → ZPos → Except Want Plan
  | 0, b, p => .ok (if p.n = 8 * len then { cells := [] } else { cells := [], code := 8, row := (b - 1) / 256, col := (b - 1) % 256 })
  | k + 1, b, p => do
    match ← t.zblock len (min 64 (count - 64 * b)) (64 * b) e p with
    | none => return { cells := [], code := 8, row := b / 256, col := b % 256 }
    | some (l, p) =>
      let r ← t.zblocks len count e k (b + 1) p
      return { r with cells := valueCells (t.at2 + 256 * b) b p.bad l ++ r.cells }

/-! ### Sides -/

/-- One side of a transfer: kind, core of a local target, pointer and target address it starts at, ACC codes. -/
structure Side where
  kind : Nat
  core : Nat
  ea : BitVec 64
  base : Nat
  acc : Nat
  xacc : Nat

/-- Whether a transfer writes memory from a tile. -/
def Transfer.stores (t : Transfer) : Bool := match t.ins with | .cpySt _ _ _ | .cpyStPx8 _ _ _ => true | _ => false
/-- Whether a transfer goes from tile to tile. -/
def Transfer.isTt (t : Transfer) : Bool := match t.ins with | .cpyTt _ _ _ => true | _ => false
/-- Whether a transfer has two pointers. -/
def Transfer.isCodec (t : Transfer) : Bool := match t.ins with | .czip _ _ | .cunzip _ _ => true | _ => false

/-- The source. -/
def Transfer.source (t : Transfer) : Side :=
  if t.stores || t.isTt then { kind := 0, core := t.core, ea := 0, base := 0, acc := 10, xacc := 5 }
  else { kind := t.kind, core := t.core, ea := t.ea, base := t.at_, acc := 10, xacc := 5 }

/-- The destination. -/
def Transfer.target (t : Transfer) : Side :=
  if t.stores then { kind := t.kind, core := t.core, ea := t.ea, base := t.at_, acc := 11, xacc := 6 }
  else if t.isCodec then { kind := t.kind2, core := t.core, ea := t.ea2, base := t.at2, acc := 11, xacc := 6 }
  else { kind := 0, core := if t.isTt then t.core2 else t.core, ea := 0, base := 0, acc := 11, xacc := 6 }

/-- The pointer of a target address of a side. -/
def Side.ptr (d : Side) (a : Nat) : BitVec 64 := d.ea + BitVec.ofNat 64 (a - d.base)

/-- The requester record of a transfer (09 R228). -/
def transferAsker (id : Nat) (t : Transfer) : Asker :=
  { num := 2 ^ 32 + id, cls := 1, first := clusterOf t.core % 200 * 2 ^ 16 + t.engine, cluster := clusterOf t.core, die := dieOf t.core, owner := t.owner }

/-- Whether a requester still waits on the translation that parked it (09 R233, R237): entry 257 stands for a request
that a full table dropped. -/
def faultHolds (s : State) (num : Nat) (f : Option (Nat × Nat)) : Bool :=
  match f with
  | none => false
  | some (d, n) => if n < 256 then waitsOn s d n num else n == 257 && (s.die d).xlat.dropped.contains num

/-- Whether a transfer still waits on the translation that parked it. -/
def faultWaits (s : State) (id : Nat) (t : Transfer) : Bool := faultHolds s (2 ^ 32 + id) t.fault

/-- Where a target address of a side stands. -/
inductive Loc where
  | place (p : Nat) (shared : Bool) (s : State)
  | wait (s : State)
  | denied (reason : Nat)

/-- Reach a target address for the engine (08 R206, 09 R237). -/
def locate (s : State) (id : Nat) (t : Transfer) (d : Side) (w : Bool) (a : Nat) : Loc :=
  if t.deny ≠ 0 then .denied t.deny
  else if d.kind ≠ 3 then .place (placeOfKind d.core d.kind a) false s
  else match translate s (transferAsker id t) a d.xacc with
  | .park (.page die n) s => .wait (putTransfer s id { t with fault := some (die, n) })
  | .park _ s => .wait (putTransfer s id { t with fault := some (dieOf t.core, 257) })
  | .denied r => .denied r
  | .leaf e s =>
    match leafCheck e.leaf.toNat { r := !w, w := w } with
    | some (_, r) => .denied r
    | none => .place (aDev (leafPa e.big e.leaf.toNat a)) (bitAt e.leaf.toNat 6) s

/-- The engine as an access, for what it sees of stores on their way: those visible at its die (08 R206, R208). -/
def engineAccess (id : Nat) (t : Transfer) (a n : Nat) : Access :=
  { agent := .sextant (dieOf t.core) 63, tag := 2 ^ 60 + id, core := dieOf t.core * 12800, owner := t.owner, kind := .load false, ea := 0, seg := 0, addr := a, size := n }

/-- Whether an engine must wait before it reads or writes n bytes: an earlier scalar access of its thread to local store
(07 R177), a scalar access at the bank (06 R143), a migration (08 R213), host memory that is held (18 R452). -/
def engineBlocked (s : State) (id : Nat) (t : Transfer) (a n : Nat) : Bool :=
  recalled s a || hostHeld s { engineAccess id t a n with agent := .sextant (dieOf t.core) 63 } ||
    (spaceOf a == 1 && (scalarFirst s (offOf a / 65536) (offOf a % 65536) n ||
      s.net.any (fun p => p.1 < id && p.2.tag == t.tag && !p.2.done && overlaps p.2.addr p.2.size a n)))

/-- The writer record of a copy engine (08 R216). -/
def Transfer.writer (t : Transfer) : Writer :=
  { cls := 1, owner := t.owner, ident := clusterOf t.core % 200 * 2 ^ 16 + t.engine, tag := 0, core := 409600 }

/-- A copy engine's use of die-cache lines. -/
def engineLine (s : State) (t : Transfer) (a n : Nat) (shared : Bool) : State := unitLine s t.owner (dieOf t.core) a n shared

/-- The way of an engine's read or write of n bytes: its cluster's memory port, then as any unit's; or a port's egress
(17 R422). -/
def engineWay (s : State) (t : Transfer) (w : Bool) (a n : Nat) : List Stop :=
  let c := clusterOf t.core
  match spaceOf a with
  | 7 => plain (toPort c (fabricPort s (s.partOf (dieOf t.core)) a))
  | 0 | 4 => ((2, dieOf t.core, c % 200), 0) :: (if w then unitWrite s c a n else unitRead s c a n)
  | _ => if w then unitWrite s c a n else unitRead s c a n

/-- An engine's read or write of n bytes on its way: it goes on when it has passed its points (17 R424). -/
def onWay (s : State) (id : Nat) (t : Transfer) (w : Bool) (a n : Nat) (go : State → State) : State :=
  match claimStep s id t.owner (engineWay s t w a n) with
  | .thru s => go s
  | .wait s => again s (t.event id)

/-! ### Stopping early -/

/-- The least row and column among cells. -/
def firstCell (l : List Cell) : Nat × Nat :=
  match l with
  | [] => (0, 0)
  | c :: r => r.foldl (fun m x => if x.row < m.1 ∨ (x.row = m.1 ∧ x.col < m.2) then (x.row, x.col) else m) (c.row, c.col)

/-- A transfer stops: CODE, the first element that is not written, and the asynchronous trap of its thread (11 R285); no codec
traps after its issue (11 R298; DEDUCED, log 120). -/
def stopTransfer (s : State) (id : Nat) (t : Transfer) (code : Nat) (m : Option Mark) (rest : List Cell) : State :=
  let s := match (if t.isCodec then none else m) with | some k => s.raise (.thread t.slot) t.tag (asyncOf k) | none => s
  endTransfer s id t code 0 (firstCell rest).1 (firstCell rest).2

/-- The mark of a stopped transfer. -/
def copyMark (c : Cause) (reason acc : Nat) (ea : BitVec 64) : Mark :=
  { cause := c, tval := ea, tinfo := info142 reason acc true (bits ea.toNat 63 61) }

/-! ### FABRIC (11 R285; 16 R405) -/

/-- Send a FABRIC request of an engine: a READ of n bytes for a key, or a WRITE of n bytes that covers cells; a WRITE of a
marked value carries the mark (11 R288; log 11). -/
def engineSend (s : State) (id : Nat) (t : Transfer) (d : Side) (w : Bool) (a n data key cells : Nat) (bad : Bool) (rest : List Cell) : State :=
  let x : Access := { agent := .thread t.slot, tag := t.tag, core := t.core, owner := t.owner, kind := if w then .store else .load false, ea := d.ptr a, seg := 5, addr := aFabric a, size := n, data := data }
  let q := s.nextId
  let (port, h0, bs) := fabricPacket s q x
  let h := if bad then h0 ||| 2 else h0
  let die := dieOf t.core
  let own := hDmod h == s.modnum die
  let no := fun (r : Nat) => stopTransfer s id t 5 (some (copyMark .postedRefused r d.acc (d.ptr a))) rest
  if own && hDdie h == s.frontDie (s.partOf die) && (exportDie s (s.partOf die) (hExp h) (bKey bs)).isNone then no 21
  else if !own && s.fenced (s.partOf (portDie port)) then no 20
  else
    let s := putTransfer { s with reqs := tset s.reqs q (.engine id key (d.ptr a) cells n die port h bs 0 s.now) } id { t with wait := some q }
    ((s.fresh.route die port h bs).due (.requestReplayTimeout q)).due (t.event id)

/-! ### Reading (08 R208, R209; 11 R288) -/

/-- The words of the granule of a place, as keys beside a byte's target address: key, place. -/
def granuleWords (a p : Nat) : List (Nat × Nat) :=
  let lo := a - a % 32
  (List.range 4).map (fun k => (lo + 8 * k, p - p % 32 + 8 * k))

/-- The words read so far with those of a granule, every one at this moment, as an access of the reader sees them: no word is
read twice (08 R208). -/
def granuleSeen (s : State) (x : Access) (a p : Nat) (seen : Tbl (BitVec 64 × Bool)) : Tbl (BitVec 64 × Bool) :=
  let vs := visibleStores s s.nextId x
  let put := fun (k : Tbl (BitVec 64 × Bool)) (w : Nat × Nat) =>
    if (tfind k w.1).isSome then k else tset k w.1 (BitVec.ofNat 64 (seenVal s vs w.2 8), (readError s vs w.2 8).isSome)
  (granuleWords a p).foldl put seen

/-- Read a granule of the source; a destination byte of which a nibble stays is read likewise under a key of its own. -/
def readGranule (s : State) (id : Nat) (t : Transfer) (a p : Nat) : Transfer :=
  { t with seen := granuleSeen s (engineAccess id t (p - p % 32) 32) a p t.seen }

/-- Read n bytes over the fabric for a key: from the stores that a point of the engine's die holds (07 R182), after those that
give only a part, or from the peer. -/
def engineFabric (s : State) (id : Nat) (t : Transfer) (d : Side) (a n key : Nat) (rest : List Cell) : State :=
  let x := engineAccess id t (aFabric a) n
  let vs := visibleStores s s.nextId x
  if vs.isEmpty then onWay s id t false (aFabric a) n (fun s => engineSend s id t d false a n 0 key 0 false rest)
  else if (List.range n).all (fun k => (seenByte s vs (aFabric a + k)).2.isSome) then
    again (putTransfer s id { t with seen := tset t.seen key (BitVec.ofNat 64 (seenVal s vs (aFabric a) n), false), fault := none }) (t.event id)
  else again s (t.event id)

/-- Read what the next cells need: from the source, or from a FABRIC destination. -/
def readWant (s : State) (id : Nat) (t : Transfer) (d : Side) (isDst : Bool) (a : Nat) (rest : List Cell) : State :=
  let e := t.event id
  match locate s id t d false a with
  | .wait s => again s e
  | .denied r => stopTransfer s id t 3 (some (copyMark .addrDenied r d.acc (d.ptr a))) rest
  | .place p sh s =>
    if spaceOf p = 7 then
      if isDst then engineFabric s id t d a 1 (dstKey a) rest else engineFabric s id t d (a / 8 * 8) 8 (a / 8 * 8) rest
    else if engineBlocked s id t (p - p % 32) 32 then again s e
    else onWay s id t false (p - p % 32) 32 (fun s =>
      let s := engineLine s t (p - p % 32) 32 sh
      again (putTransfer s id { readGranule s id t a p with fault := none }) e)

/-! ### Plans (11 R282, R286, R297, R298) -/

/-- Whether a range passes the pointer checks through the segments as they stood at issue (11 R296). -/
def rangeOk (s : State) (t : Transfer) (ea : BitVec 64) (n align : Nat) (w : Bool) (kinds : List Nat) : Option (Nat × Nat) :=
  let sp : AccSpec := { size := n, align := align, r := !w, w := w, kinds := kinds, acc := 10 }
  match ptrCheck s t.slot { pc := 0, sgs := t.segs } sp ea with
  | .ok x => some x
  | .error _ => none

/-- The plan of `cunzip`: the header, its checks, the blocks. -/
def Transfer.unzip (t : Transfer) (s : State) : Except Want Plan := do
  let (h, m) ← t.num t.at_ 16
  let count := bits h 31 0
  let len := bits h 127 64
  match zipExp (bits h 47 32) with
  | none => return { cells := [], code := 8 }
  | some e =>
    if count = 0 ∨ bits h 63 48 ≠ 0 ∨ len < 16 ∨ (rangeOk s t t.ea len 1 false [0, 1, 2, 3, 4, 5]).isNone then return { cells := [], code := 8 }
    else if 4 * count > t.arg 3 then
      let b := t.arg 3 / 256
      return { cells := [], code := 7, row := b / 256, col := b % 256 }
    else
      let p ← t.zblocks len count e (ceilDiv count 64) 0 { n := 128, bad := false }
      return if m then { p with cells := p.cells.map (fun c => { c with ev := c.ev.map (fun x => (x.1, x.2.1, true)) }) } else p

/-- The plan of a transfer. -/
def Transfer.plan (t : Transfer) (s : State) : Except Want Plan :=
  let tile := tileLay t.desc t.code
  match t.ins with
  | .cpyLd _ _ _ => .ok (t.convert t.rows tile (dVrows t.desc) (dVcols t.desc))
  | .cpyLdPx8 _ _ _ => .ok t.pxLoad
  | .cpySt _ _ _ => .ok (t.convert tile t.rows (dVrows t.desc) (dVcols t.desc))
  | .cpyStPx8 _ _ _ => t.pxStore
  | .cpyTt _ _ _ => .ok (t.convert tile (tileLay t.desc2 t.code2) (min (dVrows t.desc) (dVrows t.desc2)) (min (dVcols t.desc) (dVcols t.desc2)))
  | .czip _ _ => t.zip
  | .cunzip _ _ => t.unzip s
  | _ => .ok { cells := [] }

/-! ### Writing (08 R206; 11 R282, R288) -/

/-- Bytes of a unit of a kind; 08 R206 names none for a FABRIC destination, of which 32 bytes are one: DESIGN CHOICE (log 115). -/
def unitSize (kind : Nat) : Nat := if kind = 3 ∨ kind = 4 then 256 else 32

/-- Cells evaluated until one is not ready: cell, code, flags, mark; and why the next is not. -/
def evalCells : List Cell → List (Cell × Nat × FlagSet × Bool) × Option Want
  | [] => ([], none)
  | c :: r =>
    match c.ev with
    | .error w => ([], some w)
    | .ok v => let (l, w) := evalCells r; ((c, v) :: l, w)

/-- The bytes of evaluated cells over what stands there: a nibble leaves the other one. -/
def cellBytes (old : Nat → Nat) (l : List (Cell × Nat × FlagSet × Bool)) : Tbl Nat :=
  l.foldl (fun m x =>
    let a := x.1.at_
    if x.1.w = 4 then
      let b := tget m a (old a)
      tset m a (if x.1.hi then b % 16 + x.2.1 % 16 * 16 else b / 16 * 16 + x.2.1 % 16)
    else (List.range (x.1.w / 8)).foldl (fun m k => tset m (a + k) (bits x.2.1 (8 * k + 7) (8 * k))) m) []

/-- Runs of consecutive addresses: start, number of bytes, bytes as a number. -/
def byteRuns : Tbl Nat → List (Nat × Nat × Nat)
  | [] => []
  | (a, b) :: r =>
    match byteRuns r with
    | (s, n, v) :: q => if s = a + 1 then (a, n + 1, b + 256 * v) :: q else (a, 1, b) :: (s, n, v) :: q
    | [] => [(a, 1, b)]

/-- The bytes of a table granule by granule. -/
def granules : Tbl Nat → List (Tbl Nat)
  | [] => []
  | (a, b) :: r =>
    match granules r with
    | ((c, v) :: g) :: q => if a / 32 = c / 32 then ((a, b) :: (c, v) :: g) :: q else [(a, b)] :: ((c, v) :: g) :: q
    | q => [(a, b)] :: q

/-- Write bytes at their places for a writer, each granule in one indivisible step, after the use of its line (08 R206,
R216). -/
def writeBytes (s : State) (w : Writer) (use : State → Nat → Nat → State) (m : Tbl Nat) : State :=
  (granules m).foldl (fun s g =>
    let r := byteRuns g
    match g.head?, g.getLast? with
    | some x, some y => (use s x.1 (y.1 + 1 - x.1)).perfRuns w r
    | _, _ => s) s

/-- Mark the granules of places as poisoned (11 R288). -/
def markGranules (s : State) (l : List Nat) : State :=
  l.foldl (fun s a => (List.range 4).foldl (fun s k => s.markPoison (a - a % 32 + 8 * k)) s) s

/-- The transfer after cells are written: n bytes, flags, the first poisoned element. -/
def Transfer.wrote (t : Transfer) (l : List (Cell × Nat × FlagSet × Bool)) (n : Nat) : Transfer :=
  let bad := (l.filter (fun x => x.2.2.2)).map Prod.fst
  let f := firstCell bad
  { t with
    unit := t.unit + l.length
    bytes := t.bytes + n
    flags := l.foldl (fun g x => g ||| x.2.2.1) t.flags
    first := if bad.isEmpty then t.first
      else match t.first with
        | none => some f
        | some o => if f.1 < o.1 ∨ (f.1 = o.1 ∧ f.2 < o.2) then some f else some o
    fault := none }

/-- The lowest address among cells. -/
def lowCell (l : List Cell) : Nat := match l with | [] => 0 | c :: r => r.foldl (fun m x => min m x.at_) c.at_

/-- The bytes from the first to the last of evaluated cells. -/
def cellSpan (l : List (Cell × Nat × FlagSet × Bool)) : Nat :=
  (l.map (fun y => y.1.at_ + (y.1.w + 7) / 8)).foldl max 0 - lowCell (l.map Prod.fst)

/-- Write evaluated cells of one unit, at a place that stands for the lowest address, under an identifier of the engine's
(08 R214). -/
def writeCells (s : State) (id : Nat) (t : Transfer) (p : Nat) (sh : Bool) (l : List (Cell × Nat × FlagSet × Bool)) : Transfer × State :=
  match l with
  | [] => (t, s)
  | _ :: _ =>
    let place := fun (a : Nat) => p + (a - lowCell (l.map Prod.fst))
    let m := cellBytes (fun a => s.rd (place a) 1) l
    let s := writeBytes s t.writer (fun s a n => engineLine s t a n sh) (m.map (fun x => (place x.1, x.2)))
    let s := (enterFilter s p (identCls 1 (clusterOf t.core * 4 + t.engine) s.nextId)).fresh
    let s := markGranules s ((l.filter (fun y => y.2.2.2)).map (fun y => place y.1.at_))
    let t' := t.wrote l m.length
    (t', (putTransfer s id t').monEv (.thread t.slot) 7 (t'.bytes / 32 - t.bytes / 32))

/-- The largest aligned power-of-two part, of at most 32 bytes, at the start of a run. -/
def fabricChunk (a n : Nat) : Nat := ([32, 16, 8, 4, 2].find? (fun k => k ≤ n && a % k == 0)).getD 1

/-- Whether a value of a transfer's cells in a 32-byte granule derives from a marked word: every WRITE of that granule then
carries the mark (11 R288). -/
def granuleBad (s : State) (t : Transfer) (a : Nat) : Bool :=
  match t.plan s with
  | .ok p => p.cells.any (fun c => c.at_ / 32 == a / 32 && (match c.ev with | .ok v => v.2.2 | .error _ => false))
  | .error _ => false

/-- Write the first part of evaluated cells to a FABRIC target. -/
def fabricCells (s : State) (id : Nat) (t : Transfer) (l : List (Cell × Nat × FlagSet × Bool)) (rest : List Cell) : State :=
  let old := fun (a : Nat) => match tfind t.seen (dstKey a) with | some (v, _) => v.toNat % 256 | none => 0
  match byteRuns (cellBytes old l) with
  | [] => s
  | (a, n, v) :: _ =>
    let k := fabricChunk a n
    let part := l.takeWhile (fun x => x.1.at_ < a + k)
    let t' := { t.wrote part 0 with unit := t.unit }
    engineSend s id t' t.target true a k (v % 2 ^ (8 * k)) 0 part.length (granuleBad s t a) rest

/-- Whether a nibble cell's other half is among cells. -/
def pairIn (l : List Cell) (c : Cell) : Bool := l.any (fun x => x.at_ == c.at_ && x.hi != c.hi)

/-- The destination byte that a FABRIC write must read first: that of a nibble written alone. -/
def loneNibble (t : Transfer) (l : List Cell) : Option Nat :=
  (l.find? (fun c => c.w == 4 && !pairIn l c && (tfind t.seen (dstKey c.at_)).isNone)).map (fun c => c.at_)

/-- One step of an engine on the cells that are left. -/
def writeUnit (s : State) (id : Nat) (t : Transfer) (cells : List Cell) : State :=
  let e := t.event id
  match cells with
  | [] => s
  | c :: _ =>
    let d := t.target
    let u := unitSize d.kind
    let unit := cells.takeWhile (fun x => x.at_ / u == c.at_ / u && (d.kind ≠ 5 || c.at_ ≤ x.at_))
    let (ready, w) := evalCells unit
    match w with
    | some (.src a) => readWant s id t t.source false a cells
    | some (.dst a) => readWant s id t d true a cells
    | w =>
      if ready.isEmpty then
        match w with
        | some (.px a i b) => endTransfer (s.raise (.thread t.slot) t.tag (asyncOf (copyMark .pxFormat 0 10 (t.source.ptr a)))) id t 4 0 i b
        | _ => s
      else
        match (if d.kind = 5 then loneNibble t unit else none) with
        | some a => readWant s id t d true a cells
        | none =>
          match locate s id t d true (lowCell (ready.map Prod.fst)) with
          | .wait s => again s e
          | .denied r => stopTransfer s id t 3 (some (copyMark .addrDenied r 11 (d.ptr c.at_))) cells
          | .place p sh s =>
            if spaceOf p = 7 then onWay s id t true p u (fun s => fabricCells s id t ready cells)
            else if engineBlocked s id t p u then again s e
            else onWay s id t true p (cellSpan ready) (fun s => again (writeCells s id t p sh ready).2 e)

/-! ### The engine -/

/-- The end of a transfer whose cells are all written (11 R278, R288). -/
def planEnd (s : State) (id : Nat) (t : Transfer) (p : Plan) : State :=
  if p.code ≠ 1 then endTransfer s id t p.code 0 p.row p.col
  else match t.first with
    | some (i, j) => endTransfer s id t 2 0 i j
    | none => endTransfer s id t 1 0 0 0

/-- An engine serves a transfer only under its die's number (18 R441): that of another partition discards it, an unrecoverable
fault of the partition that it names (18 R448). -/
def misnumbered (s : State) (t : Transfer) : Option Nat := t.part.filter (fun p => p != s.partOf (dieOf t.core))

/-- A transfer that is discarded leaves its engine. -/
def discardTransfer (s : State) (id : Nat) (t : Transfer) (p : Nat) : State :=
  let s := (leaveWaits s id t).leaveQueue (clusterOf t.core) t.engine id
  unrecoverable { s with transfers := terase s.transfers id } p

/-- COPY_UNIT_WRITE: one step of a transfer (08 R206). -/
def doCopyUnit (s : State) (id : Nat) : State :=
  match tfind s.transfers id with
  | none => s
  | some t =>
    if t.ended.isSome then s
    else match misnumbered s t with
    | some p => discardTransfer s id t p
    | none =>
    if !running s id t || t.wait.isSome || faultWaits s id t then again s (t.event id)
    else match t.plan s with
    | .error (.src a) => readWant s id t t.source false a []
    | .error _ => s
    | .ok p =>
      match p.cells.drop t.unit with
      | [] => planEnd s id t p
      | rest => writeUnit s id t rest

/-- COPY_UNIT_WRITE (08 R206). -/
def execCopyUnitWrite (s : State) : Outc :=
  match s.ev with
  | some (.copyUnitWrite id) => evDo (.copyUnitWrite id) (doCopyUnit s id)
  | _ => .fault .noSuchUnit

/-- The transfer of an engine's FABRIC request, the request over. -/
def engineDone (s : State) (q : Nat) (f : Transfer → Transfer) : State :=
  match tfind s.reqs q with
  | some (.engine id ..) =>
    let s := { s with reqs := terase s.reqs q }
    match tfind s.transfers id with
    | some t => putTransfer s id (f { t with wait := none })
    | none => s
  | _ => s

/-- The answer of a peer to an engine's request: the word read with its error, or a write performed, whose bytes count
(20 R487). -/
def engineAnswer (s : State) (q : Nat) (v : BitVec 64) (bad : Option Cause) : State :=
  match tfind s.reqs q with
  | some (.engine id key _ cells n ..) =>
    let s' := engineDone s q (fun t => if cells = 0 then { t with seen := tset t.seen key (v, bad.isSome), err := bad } else { t with unit := t.unit + cells, bytes := t.bytes + n })
    (match tfind s.transfers id with
     | some t => if cells = 0 then s' else s'.monEv (.thread t.slot) 7 ((t.bytes + n) / 32 - t.bytes / 32)
     | none => s')
  | _ => s

/-- A refusal of an engine's request: the transfer stops (11 R285, 08 R490). -/
def engineRefused (s : State) (q reason : Nat) : State :=
  match tfind s.reqs q with
  | some (.engine id _ ea cells ..) =>
    let s := engineDone s q (fun t => t)
    match tfind s.transfers id with
    | none => s
    | some t =>
      let rest := match t.plan s with | .ok p => p.cells.drop t.unit | .error _ => []
      stopTransfer s id t 5 (some (copyMark .postedRefused reason (if cells = 0 then 10 else 11) ea)) rest
  | _ => s

/-! ### Issue (11 R283, R286, R287) -/

/-- Bits of a stride word that must be 0, and a reserved MFMT (11 R280). -/
def swBad (w : BitVec 64) : Bool := bits w.toNat 63 41 != 0 || bits w.toNat 35 32 != 0 || bits w.toNat 39 36 ≥ 10

/-- A memory copy as its word gives it: to a tile or from one, PX8. -/
structure CopyWord where
  load : Bool
  px : Bool
  tile : BitVec 4

/-- The memory copies. -/
def copyWord (i : Instr) : Option CopyWord :=
  match i with
  | .cpyLd d _ _ => some ⟨true, false, d⟩
  | .cpyLdPx8 d _ _ => some ⟨true, true, d⟩
  | .cpySt t _ _ => some ⟨false, false, t⟩
  | .cpyStPx8 t _ _ => some ⟨false, true, t⟩
  | _ => none

/-- The bytes that a memory row must have between rows (11 R283, R286). -/
def rowNeed (w : CopyWord) (d : Desc) (m : Nat) : Nat :=
  let nb := ceilDiv (dCols d) 32
  if w.px then nb * (if w.load then 23 else 51) else rowSize m (dCols d)

/-- The transfer of a memory copy, or the trap of the first check that fails (the pitch of a px8 row: DEDUCED, log 87); watchpoints match at the issue of the
thread itself (14 R361). -/
def memCopy (s : State) (slot : Nat) (t : Thread) (g : Stag) (i : Instr) (w : CopyWord) (xa xb : BitVec 64) : Except Res Transfer :=
  let core := coreOf slot
  let c := s.core core
  let k := t.mode == .k
  let bad := fun (b : TileBad) => (Except.error (tileTrap i b) : Except Res Transfer)
  match opndOf s core t g w.tile.toNat 0 false w.load with
  | .error b => bad b
  | .ok o =>
    match tileChecks { c with exb := if k then 0 else c.exb } { fmtOk := fun o => !w.px || o.fmt == 4, shapeOk := fun _ => true } [o] with
    | some b => bad b
    | none =>
      let m := swFmt xb o.fmt
      let pitch := swPitch xb
      let vr := dVrows o.d
      let need := rowNeed w o.d m
      let base : Transfer := { slot := slot, tag := t.tag, core := core, ins := i, owner := c.owner, desc := o.d, code := BitVec.ofNat 4 o.fmt, ea := xa, xs := xb, segs := t.sgs }
      if swBad xb then bad (.tileShape, 9, 0)
      else if w.px ∧ bitAt xb.toNat 40 then bad (.tileFormat, 3, 0)
      else if (if w.px then vr ≥ 1 else vr > 1) ∧ pitch < need ∧ !(w.load && !w.px && pitch == 0) then bad (.tileShape, 10, 0)
      else if vr = 0 ∨ dVcols o.d = 0 then .ok base
      else
        let align := if w.px || fmtScaled m then 1 else fmtBits m / 8
        let size := if w.px then vr * pitch else (vr - 1) * pitch + rowSize m (dCols o.d)
        let sp : AccSpec := { size := size, align := align, r := w.load, w := !w.load, acc := if w.load then 10 else 11, noExb := k, skew := pitch % align != 0 }
        match ptrCheck s slot t sp xa with
        | .error (x, v, inf) => .error (.trap x v inf)
        | .ok (kind, a) =>
          match (if g.q = 0 then watchFind t xa.toNat size w.load (!w.load) else none) with
          | some n => .error (watchTrap n sp.acc xa)
          | none => .ok { base with kind := kind, at_ := a, len := size }

/-- The core that `cpy.tt` names (11 R287): in the issuer's cluster, of its owner, not in reset. -/
def ttCore (xs : BitVec 64) : Option Nat :=
  if bits xs.toNat 63 29 ≠ 0 then none else coreOfCoord (bits xs.toNat 28 0)

/-- The transfer of `cpy.tt`, or the trap of the first check that fails (11 R287). -/
def tileCopy (s : State) (slot : Nat) (t : Thread) (g : Stag) (i : Instr) (d a : BitVec 4) (xb : BitVec 64) : Except Res Transfer :=
  let core := coreOf slot
  let k := t.mode == .k
  let free := fun (c : Core) => { c with exb := if k then 0 else c.exb }
  let rule : TileRule := { fmtOk := fun _ => true, shapeOk := fun _ => true }
  let bad := fun (b : TileBad) => (Except.error (tileTrap i b) : Except Res Transfer)
  match opndOf s core t g a.toNat 1 false false with
  | .error b => bad b
  | .ok o =>
    match tileChecks (free (s.core core)) rule [o] with
    | some b => bad b
    | none =>
      let far := ttCore xb
      match opndOf s (far.getD core) t g d.toNat 0 false true with
      | .error b => bad b
      | .ok p =>
        match (match far with | some c => tileChecks (free (s.core c)) rule [p] | none => none) with
        | some b => bad b
        | none =>
          match far with
          | none => bad (.tileShape, 11, 0)
          | some c =>
            if clusterOf c ≠ clusterOf core ∨ !targetCore s c (s.ownerOf core) then bad (.tileShape, 11, 0)
            else if dRows p.d ≠ dRows o.d ∨ dCols p.d ≠ dCols o.d then bad (.tileShape, 3, 1)
            else if c = core ∧ rangesMeet p.foot o.foot then bad (.tileAlias, 2, 1)
            else .ok { slot := slot, tag := t.tag, core := core, ins := i, owner := s.ownerOf core, desc := o.d, code := BitVec.ofNat 4 o.fmt, desc2 := p.d, code2 := BitVec.ofNat 4 p.fmt, core2 := c, xs := xb, segs := t.sgs }
where
  targetCore (s : State) (c owner : Nat) : Bool := s.ownerOf c == owner && !s.fenced (s.partOf (dieOf c))

/-- The transfer of a tile copy at an issue or a reissue. -/
def copyOp (s : State) (slot : Nat) (t : Thread) (g : Stag) (i : Instr) (xa xb : BitVec 64) : Except Res Transfer :=
  match i with
  | .cpyTt d a _ => tileCopy s slot t g i d a xb
  | _ =>
    match copyWord i with
    | some w => memCopy s slot t g i w xa xb
    | none => .error (illegal i 0 0)

/-- The issue of a transfer to an engine: C and the extra counts that come with the last captured word, an engine with room,
or the park (07 R192, 11 R279, 12 R322); the issue leaves the admission of its cluster (17 R422, R428). -/
def issueTransfer (e : Env) (t : Transfer) (dst : DstW) : Res :=
  let x := seqExtra e.th e.i
  if e.th.cnt.c + x.2 ≥ 63 then .park (.counterFull 2) e.th.prog e.s
  else if e.th.cnt.t + x.1 > 63 then .park (.counterFull 3) e.th.prog e.s
  else match freeEngine (e.s.cluster (clusterOf t.core)) with
    | none => .park .copyQueue e.th.prog e.s
    | some k =>
      let lost := match e.th.prog with | .retried k => k | _ => 0
      .ok { s := startTransfer (e.s.leavePoint (dieOf t.core) t.owner 6 lost) t.slot t k, dst := dst }

/-- The issue of a tile copy. -/
def copyBody (e : Env) : Res :=
  match copyOp e.s e.ag.num e.th {} e.i e.a e.b with
  | .error r => r
  | .ok t => issueTransfer e t .none

/-- cpy.ld (11 R283). -/
def execCpyLd (d : BitVec 4) (a b : BitVec 5) (st : State) : Outc :=
  runIns st (.cpyLd d a b) { srcs := [(1, a), (2, b)], tiles := [(0, d)], items := [0x100 + d.toNat] } copyBody

/-- cpy.ld.px8 (11 R286). -/
def execCpyLdPx8 (d : BitVec 4) (a b : BitVec 5) (st : State) : Outc :=
  runIns st (.cpyLdPx8 d a b) { srcs := [(1, a), (2, b)], tiles := [(0, d)], items := [0x100 + d.toNat] } copyBody

/-- cpy.st (11 R283). -/
def execCpySt (t : BitVec 4) (a b : BitVec 5) (st : State) : Outc :=
  runIns st (.cpySt t a b) { srcs := [(1, a), (2, b)], tiles := [(0, t)], items := [0x100 + t.toNat] } copyBody

/-- cpy.st.px8 (11 R286). -/
def execCpyStPx8 (t : BitVec 4) (a b : BitVec 5) (st : State) : Outc :=
  runIns st (.cpyStPx8 t a b) { srcs := [(1, a), (2, b)], tiles := [(0, t)], items := [0x100 + t.toNat] } copyBody

/-- cpy.tt (11 R287). -/
def execCpyTt (d a : BitVec 4) (b : BitVec 5) (st : State) : Outc :=
  runIns st (.cpyTt d a b) { srcs := [(2, b)], tiles := [(0, d), (1, a)], items := [0x100 + d.toNat, 0x100 + a.toNat] } copyBody

/-! ### The issue of a codec (11 R296) -/

/-- A pointer range of a codec at issue. -/
def codecPtr (e : Env) (slot : Nat) (ea : BitVec 64) (n align : Nat) (w : Bool) : Except Res (Nat × Nat) :=
  let sp : AccSpec := { size := n, align := align, r := !w, w := w, acc := if w then 11 else 10 }
  match ptrCheck e.s slot e.th sp ea with
  | .error (c, v, i) => .error (.trap c v i)
  | .ok x =>
    match watchFind e.th ea.toNat n (!w) w with
    | some k => .error (watchTrap k sp.acc ea)
    | none => .ok x

/-- The parameter block of a codec, read at issue: its place and dwords. -/
def codecBlock (e : Env) (slot : Nat) : Except Res (Nat × List (BitVec 64)) :=
  let sp : AccSpec := { size := 64, align := 32, r := true, w := true, kinds := [0], acc := 10 }
  match ptrCheck e.s slot e.th sp e.a with
  | .error (c, v, i) => .error (.trap c v i)
  | .ok (kind, a) =>
    let x := mkAccess e { ea := e.a, kind := kind, a := a, place := aLocal (coreOf slot) a } (.load false) 64 0
    let vs := visibleStores e.s e.s.nextId x
    if lockedOut e.s slot x.addr then .error (.park (.bank (bankOf x.addr)) e.th.prog e.s)
    else if imageWaits e.s x then .error (.park .fence .none e.s)
    else match readError e.s vs x.addr 64 with
      | some c => .error (.trap c e.a (info142 0 10 false (bits e.a.toNat 63 61)))
      | none =>
        let v := seenVal e.s vs x.addr 64
        .ok (a, (List.range 8).map (fun k => BitVec.ofNat 64 (v / 2 ^ (64 * k))))

/-- czip and cunzip (11 R296). -/
def codecBody (zip : Bool) (e : Env) : Res :=
  match e.ag with
  | .sextant _ _ => doneS e.s
  | .thread slot =>
    match codecBlock e slot with
    | .error r => r
    | .ok (a, dw) =>
      let d := fun (n : Nat) => (dw.getD n 0)
      let count := bits (d 2).toNat 31 0
      if zip ∧ (count = 0 ∨ (zipExp (bits (d 2).toNat 47 32)).isNone) then tileTrap e.i (.tileShape, 9, 0)
      else
        let size := if zip then 4 * count else 16
        match codecPtr e slot (d 0) size (if zip then 4 else 1) false with
        | .error r => r
        | .ok (k1, a1) =>
          match codecPtr e slot (d 1) (d 3).toNat (if zip then 1 else 4) true with
          | .error r => r
          | .ok (k2, a2) =>
            let t : Transfer := { slot := slot, tag := e.th.tag, core := coreOf slot, ins := e.i, owner := e.s.ownerOf (coreOf slot), ea := d 0, kind := k1, at_ := a1, len := size, ea2 := d 1, kind2 := k2, at2 := a2, xs := BitVec.ofNat 64 a, args := dw, segs := e.th.sgs }
            issueTransfer e t (.val (e.th.xseq.setWidth 64))

/-- czip (11 R296, R297). -/
def execCzip (d a : BitVec 5) (st : State) : Outc := runIns st (.czip d a) { dst := some d, srcs := [(1, a)] } (codecBody true)

/-- cunzip (11 R296, R298). -/
def execCunzip (d a : BitVec 5) (st : State) : Outc := runIns st (.cunzip d a) { dst := some d, srcs := [(1, a)] } (codecBody false)

/-! ### ccancel (11 R290) -/

/-- Whether a `red` contribution has been accepted: it waits for its round's delivery only. -/
def Transfer.accepted (t : Transfer) : Bool := match t.ins with | .red _ _ _ => t.unit != 0 | _ => false

/-- Stop a transfer where it stands. -/
def cancelTransfer (s : State) (id : Nat) : State :=
  match tfind s.transfers id with
  | none => s
  | some t =>
    if t.ended.isSome || t.accepted then s
    else
      let rest := match t.plan s with | .ok p => p.cells.drop t.unit | .error _ => []
      endTransfer s id t 6 0 (firstCell rest).1 (firstCell rest).2

/-- Whether the ring of a thread still holds a sequence (11 R290). -/
def ringHolds (t : Thread) (seq : Nat) : Bool := bits (t.ringEnt seq).toNat 63 48 == seq

/-- ccancel (11 R290). -/
def execCcancel (a : BitVec 5) (st : State) : Outc :=
  runIns st (.ccancel a) { srcs := [(1, a)] } (fun e =>
    let n := bits e.a.toNat 15 0
    let mine := e.s.transfers.filter (fun p => p.2.slot == e.ag.num && p.2.tag == e.th.tag)
    let l := mine.filter (fun p => (bitAt e.a.toNat 63 || p.2.seq.toNat == n) && ringHolds e.th p.2.seq.toNat)
    doneS ((l.map Prod.fst).foldl cancelTransfer e.s))

end Sys2Proof.Machine
end

