-- ==== Sys2Proof/Machine/Gens.lean ====
section
/-!
DEFINITION. Gens: generator registers (13 R324-R339): their fields, the hash, the values, and gset, gget, gseed and the issue of
gfill.
-/
namespace Sys2Proof.Machine

/-! ### Fields (13 R324) -/

/-- A generator image. -/
abbrev Gen := BitVec 256

/-- KIND. -/
def gKind (g : Gen) : Nat := bits g.toNat 130 128
/-- ORIENT. -/
def gOrient (g : Gen) : Bool := bitAt g.toNat 132
/-- SCOPE. -/
def gScope (g : Gen) : Nat := bits g.toNat 137 136
/-- FMT. -/
def gFmt (g : Gen) : Nat := bits g.toNat 147 144
/-- SCALE. -/
def gScale (g : Gen) : Nat := bits g.toNat 159 152
/-- Q. -/
def gQ (g : Gen) : Nat := bits g.toNat 168 160
/-- TBASE. -/
def gTbase (g : Gen) : Nat := bits g.toNat 191 176
/-- ROW0. -/
def gRow0 (g : Gen) : Nat := bits g.toNat 127 96
/-- COL0. -/
def gCol0 (g : Gen) : Nat := bits g.toNat 95 64
/-- SEED. -/
def gSeed (g : Gen) : BitVec 64 := g.setWidth 64

/-- A thread's generator register. -/
def Thread.gen (t : Thread) (n : Nat) : Gen := tget t.gens n 0
/-- The thread with a generator register replaced. -/
def Thread.setGen (t : Thread) (n : Nat) (g : Gen) : Thread := { t with gens := if g = 0 then terase t.gens n else tset t.gens n g }

/-! ### The hash (13 R327, R328) -/

/-- Key of a scope from a thread's numbering. -/
def genKey (num : Numbering) (scope : Nat) : BitVec 64 :=
  match scope with
  | 1 => num.lindex - num.grank
  | 2 => num.lindex
  | _ => 0

/-- The effective seed. -/
def genSeff (num : Numbering) (g : Gen) : BitVec 64 :=
  gSeed g ^^^ BitVec.ofNat 64 (gKind g * 2 ^ 61) ^^^ BitVec.ofNat 64 (gScope g * 2 ^ 59) ^^^ mix64 (genKey num (gScope g))

/-- A register captured at issue (13 R334). -/
def genCap (t : Thread) (n : Nat) : GenCap := { img := t.gen n, seff := genSeff t.num (t.gen n) }

/-- H(I, J). -/
def genHash (c : GenCap) (i j : Nat) : BitVec 64 := mix64 (mix64 c.seff ^^^ BitVec.ofNat 64 (i * 2 ^ 32 + j))

/-- Logical coordinates of position (r, c); flip for `.tb` (13 R329). -/
def genIJ (g : Gen) (flip : Bool) (r c : Nat) : Nat × Nat :=
  if gOrient g != flip then ((gRow0 g + c) % 2 ^ 32, (gCol0 g + r) % 2 ^ 32)
  else ((gRow0 g + r) % 2 ^ 32, (gCol0 g + c) % 2 ^ 32)

/-! ### Values (13 R331, R332) -/

/-- ROPE at (I, J) from an FP32 frequency: cosine or sine of the FP32 angle. -/
def ropeVal (w i j : Nat) : Val :=
  match fmtValue 1 w with
  | .fin n m e =>
    let th := (roundTo 1 .rne (vMul (Val.ofInt i) (.fin n m e)).1).1
    fmtValue 1 (transc (if j % 2 = 0 then .cos else .sin) 1 .rne (fmtValue 1 th)).1
  | _ => .nan false

/-- The number of ones of a word. -/
def popcount (h : BitVec 64) : Nat := (List.range 64).foldl (fun n k => n + (bitAt h.toNat k).toNat) 0

/-- The exact value v at (I, J); w is the frequency of ROPE. -/
def genExact (c : GenCap) (w i j : Nat) : Val :=
  let h := (genHash c i j).toNat
  match gKind c.img with
  | 1 => Val.ofInt (if bitAt h 63 then -1 else 1)
  | 2 => (Val.ofInt ((popcount (genHash c i j) : Int) - 32)).scale (-2)
  | 3 => (Val.ofInt (BitVec.ofNat 24 (bits h 63 40)).toInt).scale (-23)
  | 4 => Val.ofInt (if bits h 7 0 < gQ c.img then 1 else 0)
  | 5 => Val.ofInt (if j ≤ i then 1 else 0)
  | 6 => if j ≤ i then .zero else .inf true
  | 7 => ropeVal w i j
  | _ => .zero

/-- A value rounded to the output format with overflow brought back to the largest magnitude (13 R332). -/
def genRound (f : Nat) (v : Val) : Val :=
  match fpOf f, v with
  | some p, .fin n m e =>
    if m = 0 then v
    else
      let c := (p.roundFin .rne n m e).1
      p.value (if p.inf = some (c % 2 ^ (p.eb + p.fb)) then p.enc n p.top else c)
  | some p, .nan _ => (match p.nan with | some n => p.value n | none => .zero)
  | _, v => v

/-- The frequency that ROPE reads for column coordinate J (13 R331). -/
def ropeWord (s : State) (core : Nat) (g : Gen) (j : Nat) : Nat := localRd s core (gTbase g + j / 2 % 64 * 4) 4

/-- The value of a generator element at position (r, c) (13 R329-R332). -/
def genVal (s : State) (core : Nat) (c : GenCap) (flip : Bool) (r k : Nat) : Val :=
  let p := genIJ c.img flip r k
  let w := if gKind c.img = 7 then ropeWord s core c.img p.2 else 0
  (genRound (gFmt c.img) (genExact c w p.1 p.2)).scale ((gScale c.img : Int) - 127)

/-- The ROPE table that a generator reads (13 R334). -/
def ropeRange (g : Gen) : Ranges := if gKind g = 7 then [(gTbase g, 256)] else []

/-! ### gset, gget, gseed (13 R336-R338) -/

/-- Whether a field that R325 marks unused for the kind is nonzero; R337 notwithstanding, SEED is one (DEDUCED, log 98). -/
def genUnused (g : Gen) : Bool :=
  let k := gKind g
  let f := gFmt g != 0
  let sc := gScale g != 0
  let sd := gSeed g != 0
  let so := gScope g != 0
  let q := gQ g != 0
  let tb := gTbase g != 0
  match k with
  | 0 => f || sc || q || tb
  | 4 => tb
  | 5 | 6 => sd || so || q || tb
  | 7 => sd || so || q
  | _ => q || tb

/-- Whether an image is malformed (13 R336). -/
def genMalformed (g : Gen) : Bool :=
  let v := g.toNat
  bits v 255 192 != 0 || bits v 175 169 != 0 || bits v 151 148 != 0 || bits v 143 138 != 0 || bits v 135 133 != 0 || bitAt v 131 ||
    gScope g == 3 || gQ g > 256 || gScale g == 255 || gTbase g % 32 != 0 || gTbase g > 65280 || genUnused g

/-- The formats that a kind accepts (13 R325). -/
def genFmts (k : Nat) : List Nat :=
  match k with
  | 0 => [0]
  | 1 => [1, 2, 3, 4, 5, 6, 7, 9]
  | 4 | 5 => [1, 2, 3, 4, 5, 6, 7, 8, 9]
  | 6 => [1, 2, 3, 5]
  | _ => [1, 2, 3, 4, 5, 6]

/-- Whether FMT and SCALE are allowed for the kind (13 R325). -/
def genFmtOk (g : Gen) : Bool := (genFmts (gKind g)).contains (gFmt g) && (!fmtInt (gFmt g) || gScale g == 127)

/-- gset (13 R336). -/
def execGset (g : BitVec 3) (a : BitVec 5) (st : State) : Outc :=
  runIns st (.gset g a) { srcs := [(1, a)] } (fun e => withImage e e.a 32 32 (fun s v =>
    let img := BitVec.ofNat 256 v
    if genMalformed img then tileTrap e.i (.tileShape, 14, 0)
    else if !genFmtOk img then tileTrap e.i (.tileFormat, 6, 0)
    else doneS (s.modTh e.ag (fun t => (t.setGen g.toNat img).wrote (0x200 + g.toNat)))))

/-- The needs of gget's store. -/
def specGget : AccSpec := { size := 32, align := 32, w := true, late := [0], acc := 1, wr := true, need := { w := true }, xacc := 1 }

/-- gget: a scalar LOCAL store of the image (13 R337). -/
def execGget (g : BitVec 3) (a : BitVec 5) (st : State) : Outc :=
  runIns st (.gget g a) { srcs := [(1, a)], items := [0x200 + g.toNat] } (fun e =>
    match reach e specGget e.a with
    | .stop r => r
    | .ok s x => issueStore e s x (mkAccess e x .store 32 (e.th.gen g.toNat).toNat))

/-- gseed (13 R338). -/
def execGseed (g : BitVec 3) (a : BitVec 5) (st : State) : Outc :=
  runIns st (.gseed g a) { srcs := [(1, a)], items := [0x200 + g.toNat] } (fun e =>
    doneS (e.s.modTh e.ag (fun t => t.setGen g.toNat (BitVec.ofNat 256 (setBits (t.gen g.toNat).toNat 63 0 e.a.toNat)))))

/-! ### gfill (13 R339) -/

/-- The checks of a ROPE table: its place, then its overlap with the destination (13 R334). -/
def ropeChecks (exb opnd : Nat) (g : Gen) (d : Opnd) : Option TileBad :=
  (chkRanges exb opnd (ropeRange g)).or (if rangesMeet d.foot (ropeRange g) then some (.tileAlias, 2, opnd) else none)

/-- gfill's checks and its operation. -/
def gfillBody (d : BitVec 4) (g : BitVec 3) (e : Env) : Res :=
  let core := e.ag.core
  let cap := genCap e.th g.toNat
  match opndOf e.s core e.th {} d.toNat 0 false true with
  | .error b => tileTrap e.i b
  | .ok o =>
    let bad := (tileChecks (e.s.core core) { fmtOk := fun _ => true, shapeOk := fun _ => true } [o]).or
      (if gKind cap.img = 0 then some (.tileFormat, 4, 1) else ropeChecks (e.s.core core).exb 1 cap.img o)
    match bad with
    | some b => tileTrap e.i b
    | none =>
      issueOp e { id := 0, slot := e.ag.num, tag := e.th.tag, ins := e.i, word := e.i.word, pc := e.th.pc.setWidth 16, descs := [o.d], codes := [BitVec.ofNat 4 o.fmt], xs := 0, gA := some cap, gB := none, next := 0, q := 0, zonce := false, moff := 0 }

/-- gfill (13 R339). -/
def execGfill (d : BitVec 4) (g : BitVec 3) (st : State) : Outc :=
  runIns st (.gfill d g) { tiles := [(0, d)], items := [0x100 + d.toNat, 0x200 + g.toNat] } (gfillBody d g)

end Sys2Proof.Machine
end

