-- ==== Sys2Proof/Machine/Tile.lean ====
section
/-!
DEFINITION. Tile: the tile class (10 R257-R276): the checks and the issue of each instruction, the effect of one strip
(10 R247).
-/
namespace Sys2Proof.Machine

/-! ### What a strip-running word does -/

/-- The operation of a strip-running word. -/
inductive TileKind where
  | fill
  /-- 0 add, 1 subtract, 2 multiply, 3 fused multiply-add, 4 divide. -/
  | arith (op : Nat) (rm : Rm)
  | minmax (max : Bool)
  | sign (neg : Bool)
  /-- 0 and, 1 or, 2 exclusive or. -/
  | bitop (op : Nat)
  | sel
  | cmp (cond : Nat)
  | fn (f : Fn) (rm : Rm)
  | cvt (rm : Rm)
  | cvtSr
  | quant (ns : Bool)
  /-- 0 sum, 1 maximum, 2 position of the maximum; axis 0 row, 1 column, 2 all. -/
  | red (op axis : Nat)
  | bcast (axis : Nat)
  | trans
  | sparse
  deriving DecidableEq, Repr

/-- A strip-running word: its operation and its tile fields. -/
structure TileWord where
  k : TileKind
  d : BitVec 4
  a : Option (BitVec 5) := none
  b : Option (BitVec 5) := none

/-- The rounding mode of a code (03 R66). -/
def rmOf (c : BitVec 2) : Rm :=
  match c.toNat with
  | 0 => .rne
  | 1 => .rtz
  | 2 => .rdn
  | _ => .rup

/-- The strip-running words (03 R67). -/
def tileWord : Instr → Option TileWord
  | .tfill d _ => some { k := .fill, d := d }
  | .tadd d a b rm => some { k := .arith 0 (rmOf rm), d := d, a := some a, b := some b }
  | .tsub d a b rm => some { k := .arith 1 (rmOf rm), d := d, a := some a, b := some b }
  | .tmul d a b rm => some { k := .arith 2 (rmOf rm), d := d, a := some a, b := some b }
  | .tfma d a b rm => some { k := .arith 3 (rmOf rm), d := d, a := some a, b := some b }
  | .tdiv d a b rm => some { k := .arith 4 (rmOf rm), d := d, a := some a, b := some b }
  | .tmin d a b _ => some { k := .minmax false, d := d, a := some a, b := some b }
  | .tmax d a b _ => some { k := .minmax true, d := d, a := some a, b := some b }
  | .tabs d a => some { k := .sign false, d := d, a := some a }
  | .tneg d a => some { k := .sign true, d := d, a := some a }
  | .tand d a b => some { k := .bitop 0, d := d, a := some a, b := some b }
  | .tor d a b => some { k := .bitop 1, d := d, a := some a, b := some b }
  | .txor d a b => some { k := .bitop 2, d := d, a := some a, b := some b }
  | .tsel d a b => some { k := .sel, d := d, a := some a, b := some b }
  | .tcmp d a b c => some { k := .cmp c.toNat, d := d, a := some a, b := some b }
  | .texp d a rm => some { k := .fn .exp (rmOf rm), d := d, a := some a }
  | .texp2 d a rm => some { k := .fn .exp2 (rmOf rm), d := d, a := some a }
  | .tlog d a rm => some { k := .fn .log (rmOf rm), d := d, a := some a }
  | .tlog2 d a rm => some { k := .fn .log2 (rmOf rm), d := d, a := some a }
  | .tsqrt d a rm => some { k := .fn .sqrt (rmOf rm), d := d, a := some a }
  | .trsqrt d a rm => some { k := .fn .rsqrt (rmOf rm), d := d, a := some a }
  | .trcp d a rm => some { k := .fn .rcp (rmOf rm), d := d, a := some a }
  | .tsin d a rm => some { k := .fn .sin (rmOf rm), d := d, a := some a }
  | .tcos d a rm => some { k := .fn .cos (rmOf rm), d := d, a := some a }
  | .ttanh d a rm => some { k := .fn .tanh (rmOf rm), d := d, a := some a }
  | .tcvt d a rm => some { k := .cvt (rmOf rm), d := d, a := some a }
  | .tcvtSr d _ a => some { k := .cvtSr, d := d, a := some a }
  | .tqnt d a ns => some { k := .quant (ns == 1), d := d, a := some (a.setWidth 5) }
  | .tsum d a x => some { k := .red 0 x.toNat, d := d, a := some a }
  | .trmax d a x => some { k := .red 1 x.toNat, d := d, a := some a }
  | .targmax d a x => some { k := .red 2 x.toNat, d := d, a := some a }
  | .tbcast d a x => some { k := .bcast x.toNat, d := d, a := some a }
  | .ttrans d a => some { k := .trans, d := d, a := some (a.setWidth 5) }
  | .tsparse d a => some { k := .sparse, d := d, a := some (a.setWidth 5) }
  | _ => none

/-! ### Checks of each operation -/

/-- Whether every one of two tiles' shapes is equal (10 R261). -/
def sameShape (d o : Opnd) : Bool := d.rows == o.rows && d.cols == o.cols

/-- The formats an operation accepts, operand by operand (10 R261-R276). -/
def kindFmt (k : TileKind) (d o : Opnd) (a : Option Opnd) : Bool :=
  let src := o.opnd != 0
  match k with
  | .arith 4 _ | .fn _ _ => src || d.fmt ≤ 3
  | .minmax _ => if src then o.fmt == d.fmt else !fmtScaled d.fmt
  | .sign _ | .sel => !src || o.fmt == d.fmt
  | .bitop _ => !src || o.w == d.w
  | .cmp _ => src || !fmtScaled d.fmt
  | .quant _ => src || fmtScaled d.fmt
  | .red 0 _ =>
    if src then !fmtInt d.fmt || fmtInt o.fmt
    else !fmtScaled d.fmt && (!fmtInt d.fmt || d.fmt == 9)
  | .red 1 _ => src || !fmtScaled d.fmt
  | .red _ _ => src || d.fmt == 9
  | .sparse => (match a with | some _ => o.opnd != 3 || o.fmt == 8 | none => true)
  | _ => true

/-- The shapes an operation accepts (10 R261, R270, R274-R276; those of the bit operations, for which 10 R264 states none, are
10 R261's: DESIGN CHOICE, log 114): the destination is judged against the source where the
rule speaks of it, else the source against the destination. -/
def kindShape (k : TileKind) (d : Opnd) (a : Option Opnd) (o : Opnd) : Bool :=
  match k, a with
  | .fill, _ => true
  | .red _ 0, some x => o.opnd != 0 || d.rows == x.rows
  | .red _ 1, some x => o.opnd != 0 || d.cols == x.cols
  | .red _ _, _ => true
  | .bcast 0, some x => o.opnd != 0 || d.cols == x.cols
  | .bcast _, some x => o.opnd != 0 || d.rows == x.rows
  | .trans, some x => o.opnd != 0 || (d.rows == x.cols && d.cols == x.rows)
  | .sparse, some x =>
    if o.opnd = 1 then x.cols % 8 == 0
    else if o.opnd = 0 then d.rows == x.rows && d.cols * 2 == x.cols
    else o.rows == x.rows && o.cols * 8 == x.cols
  | _, _ => o.opnd == 0 || sameShape d o

/-- Whether an operation accepts an exact alias (10 R251). -/
def kindExact (k : TileKind) : Bool :=
  match k with
  | .red _ _ | .bcast _ | .trans | .sparse => false
  | _ => true

/-- The operands of a word in the order d, a, b, second destination, their checks still to be made. -/
def tileOpnds (s : State) (core : Nat) (t : Thread) (g : Stag) (w : TileWord) : Except TileBad (List Opnd) :=
  let src := fun (f : BitVec 5) (opnd : Nat) => opndOf s core t g (f.toNat % 16) opnd (bitAt f.toNat 4) false
  match opndOf s core t g w.d.toNat 0 false true with
  | .error b => .error b
  | .ok d =>
    match w.a with
    | none => .ok [d]
    | some fa =>
      match src fa 1 with
      | .error b => .error b
      | .ok a =>
        if w.k = .sparse then
          (match opndOf s core t g (w.d.toNat + 1) 3 false true with
           | .error b => .error b
           | .ok x => .ok [d, a, x])
        else match w.b with
          | none => .ok [d, a]
          | some fb => match src fb 2 with
            | .error b => .error b
            | .ok b => .ok [d, a, b]

/-- The checks of a word on its operands (10 R252). -/
def tileWordBad (c : Core) (k : TileKind) (ops : List Opnd) : Option TileBad :=
  match ops with
  | [] => none
  | d :: l =>
    tileChecks c { fmtOk := fun o => kindFmt k d o l.head?, shapeOk := fun o => kindShape k d l.head? o, exact := kindExact k } ops

/-- A queued operation of a strip-running word, checked (10 R243, R252); x is its scalar operand. -/
def tileOp (s : State) (slot : Nat) (t : Thread) (g : Stag) (i : Instr) (pc : BitVec 16) (x : BitVec 64) : Except TileBad TileOp :=
  let core := coreOf slot
  match tileWord i with
  | none => .error (.illegal, 0, 0)
  | some w =>
    match tileOpnds s core t g w with
    | .error b => .error b
    | .ok ops =>
      match tileWordBad (s.core core) w.k ops with
      | some b => .error b
      | none =>
        let gen := match i with | .tcvtSr _ n _ => some (genCap t n.toNat) | _ => none
        .ok { id := 0, slot := slot, tag := t.tag, ins := i, word := i.word, pc := pc, descs := (capture ops).1, codes := (capture ops).2, xs := x, gA := gen, gB := none, next := 0, q := g.q, zonce := false, moff := 0 }

/-- The issue of a strip-running word. -/
def tileBody (x : Env → BitVec 64) (e : Env) : Res :=
  match tileOp e.s e.ag.num e.th {} e.i (e.th.pc.setWidth 16) (x e) with
  | .error b => tileTrap e.i b
  | .ok op => issueOp e op

/-- The tile names of a word's fields. -/
def wordTiles (i : Instr) : List (Nat × BitVec 4) :=
  match tileWord i with
  | none => []
  | some w => [(0, w.d)] ++ (w.a.map (fun f => (1, f.setWidth 4))).toList ++ (w.b.map (fun f => (2, f.setWidth 4))).toList

/-- Run a strip-running word that names tiles alone. -/
def runTile (st : State) (i : Instr) : Outc :=
  let ts := wordTiles i
  let gs := match i with | .tcvtSr _ n _ => [0x200 + n.toNat] | _ => []
  runIns st i { tiles := ts, items := ts.map (fun p => 0x100 + p.2.toNat) ++ gs } (tileBody (fun _ => 0))

/-! ### The effect of one strip -/

/-- A captured operation's operands, as tileOpnds lists them. -/
def TileOp.tileOps (op : TileOp) (w : TileWord) : List Opnd :=
  let v := fun (f : Option (BitVec 5)) => match f with | some x => bitAt x.toNat 4 | none => false
  (List.range op.descs.length).map (fun n =>
    if n = 0 then op.opnd 0 0 false true
    else if n = 1 then op.opnd 1 1 (v w.a) false
    else if w.k = .sparse then op.opnd 2 3 false true
    else op.opnd 2 2 (v w.b) false)

/-- Rows of the destination that an operation writes (10 R247). -/
def tileRows (k : TileKind) (d : Opnd) : Nat :=
  match k with
  | .red _ 0 => d.rows
  | .red _ _ => 1
  | _ => d.rows

/-- Strips of an operation (10 R247). -/
def tileStrips (op : TileOp) : Nat :=
  match tileWord op.ins with
  | none => 0
  | some w => ceilDiv (tileRows w.k (op.opnd 0 0 false true)) 8

/-- Least and greatest fill of tmin and tmax (10 R245). -/
def endVal (c : Nat) (max : Bool) : Val :=
  match intRange c with
  | some (lo, hi) => Val.ofInt (if max then lo else hi)
  | none => .inf max

/-- tmin, tmax on two values (10 R262). -/
def pickVal (max : Bool) (a b : Val) : Val :=
  if a.isNan then b
  else if b.isNan then a
  else
    let less := vLt a b || (vEq a b && a.neg && !b.neg)
    if less != max then a else b

/-- A condition of tcmp (10 R266). -/
def condHolds (c : Nat) (a b : Val) : Bool :=
  if a.isNan || b.isNan then c == 1
  else match c with
    | 0 => vEq a b
    | 1 => !vEq a b
    | 2 => vLt a b
    | 3 => vLt a b || vEq a b
    | 4 => vLt b a
    | _ => vLt b a || vEq a b

/-- tabs, tneg on an encoding (10 R263). -/
def signCode (f : Nat) (neg : Bool) (c : Nat) : Nat :=
  match fpOf f with
  | some p => let m := c % 2 ^ (p.eb + p.fb); if neg then p.enc (!bitAt c (p.eb + p.fb)) m else m
  | none => if f = 8 then (if neg then (256 - c) % 256 else c)
    else intEnc f (if neg then -(intValue f c) else ((intValue f c).natAbs : Int))

/-- The bits of tand, tor, txor. -/
def bitopCode (k a b : Nat) : Nat := match k with | 0 => a &&& b | 1 => a ||| b | _ => a ^^^ b

/-- The exact result of tadd to tdiv, before its one rounding (10 R261); rdn selects the sign of an exact zero sum. -/
def arithVal (op : Nat) (rdn : Bool) (a b c : Val) : Val × FlagSet :=
  match op with
  | 0 => vAdd rdn a b
  | 1 => vAdd rdn a (vNeg b)
  | 2 => vMul a b
  | 3 => vFma rdn a b c
  | _ => vDiv a b

/-- The encoding and flags of destination element (i, j) of an elementwise operation. -/
def elemCode (op : TileOp) (k : TileKind) (s : State) (core : Nat) (d a b : Opnd) (i j : Nat) : Nat × FlagSet :=
  let one := Val.fin false 1 0
  match k with
  | .fill => (op.xs.toNat % 2 ^ d.w, 0)
  | .arith n rm =>
    let x := a.val s core (if n = 2 then one else .zero) i j
    let y := b.val s core (if n = 2 ∨ n = 4 then one else .zero) i j
    let r := arithVal n (rm == .rdn) x y (if n = 3 then d.val s core .zero i j else .zero)
    let c := writeElem d s core rm r.1 i j
    (c.1, c.2 ||| r.2)
  | .minmax m =>
    let x := a.val s core (endVal d.fmt m) i j
    let y := b.val s core (endVal d.fmt m) i j
    ((roundTo d.fmt .rne (pickVal m x y)).1, sigFlags [x, y])
  | .sign n => (signCode d.fmt n (a.enc s core 0 i j), 0)
  | .bitop n =>
    let f := if n = 0 then 2 ^ d.w - 1 else 0
    (bitopCode n (a.enc s core f i j) (b.enc s core f i j), 0)
  | .sel => (if (d.val s core .zero i j).isZero then b.enc s core 0 i j else a.enc s core 0 i j, 0)
  | .cmp c =>
    let x := a.val s core .zero i j
    let y := b.val s core .zero i j
    ((roundTo d.fmt .rne (if condHolds c x y then one else .zero)).1, sigFlags [x, y])
  | .fn f rm => transc f d.fmt rm (a.val s core .zero i j)
  | .cvt rm => writeElem d s core rm (a.val s core .zero i j) i j
  | .cvtSr =>
    let g := op.gA.getD { img := 0, seff := 0 }
    let p := genIJ g.img false i j
    writeElem d s core (.sr (bits (genHash g p.1 p.2).toNat 23 0)) (a.val s core .zero i j) i j
  | .bcast x => if x = 0 then copyElem d a s core 0 j i j else copyElem d a s core i 0 i j
  | .trans => copyElem d a s core j i i j
  | _ => (0, 0)

/-- What a strip writes: rows of elements of a destination with their flags; scale bytes are written by tqnt alone. -/
structure StripOut where
  rows : List (Opnd × Nat × Nat × List Nat) := []
  scales : List (Nat × Nat) := []
  flags : FlagSet := 0

/-- Rows of destination elements from a function of the coordinates. -/
def rowsOf (d : Opnd) (lo hi n : Nat) (f : Nat → Nat → Nat × FlagSet) : StripOut :=
  let rs := (List.range' lo (hi - lo)).map (fun i => (i, (List.range n).map (f i)))
  { rows := rs.map (fun p => (d, p.1, 0, p.2.map Prod.fst)),
    flags := rs.foldl (fun g p => p.2.foldl (fun h c => h ||| c.2) g) 0 }

/-- One row of tqnt: its blocks' scale bytes and elements (10 R269, 04 R94). -/
def quantRow (s : State) (core : Nat) (ns : Bool) (d a : Opnd) (i : Nat) : List Nat × List (Nat × FlagSet) :=
  let bs := (List.range (ceilDiv d.vc 32)).map (fun b =>
    let vs := (List.range' (32 * b) (min 32 (d.vc - 32 * b))).map (fun j => a.val s core .zero i j)
    let k := blockScale d.fmt vs
    (k, vs.map (quantise d.fmt k (!ns))))
  (bs.map Prod.fst, (bs.map Prod.snd).flatten)

/-- A strip of tqnt. -/
def quantStrip (s : State) (core : Nat) (ns : Bool) (d a : Opnd) (lo hi : Nat) : StripOut :=
  let rs := (List.range' lo (hi - lo)).map (fun i => (i, quantRow s core ns d a i))
  { rows := rs.map (fun p => (d, p.1, 0, p.2.2.map Prod.fst)),
    scales := (rs.map (fun p => (p.2.1.zipIdx).map (fun q => (dScale d.d + p.1 * d.per + q.2, q.1)))).flatten,
    flags := rs.foldl (fun g p => p.2.2.foldl (fun h c => h ||| c.2) g) 0 }

/-- The leaves of reduction result (i, j): positions and values, in order (10 R270). -/
def redLeaves (s : State) (core axis : Nat) (a : Opnd) (i j : Nat) : List (Nat × Val) :=
  let at_ := fun (r c : Nat) => a.val s core .zero r c
  match axis with
  | 0 => if i < a.vr then (List.range a.vc).map (fun c => (c, at_ i c)) else []
  | 1 => if j < a.vc then (List.range a.vr).map (fun r => (r, at_ r j)) else []
  | _ => ((List.range a.vr).map (fun r => (List.range a.vc).map (fun c => (r * a.cols + c, at_ r c)))).flatten

/-- The first leaf of the largest value that is no NaN (10 R272, R273). -/
def topLeaf (l : List (Nat × Val)) : Option (Nat × Val) :=
  l.foldl (fun (m : Option (Nat × Val)) p =>
    if p.2.isNan then m else match m with
      | none => some p
      | some q => if vLt q.2 p.2 then some p else some q) none

/-- The result of a reduction over its leaves (10 R271-R273). -/
def redCode (op f : Nat) (l : List (Nat × Val)) : Nat × FlagSet :=
  let vs := l.map Prod.snd
  match op with
  | 0 => if fmtInt f then (let r := treeVals f vs; (r.1, 0)) else treeVals f vs
  | 1 =>
    let c := match topLeaf l with
      | some p => roundTo f .rne p.2
      | none => if vs.isEmpty then (match intRange f with | some (lo, _) => (intEnc f lo, 0) | none => roundTo f .rne (.inf true))
        else roundTo f .rne (.nan false)
    (c.1, c.2 ||| sigFlags vs)
  | _ => ((match topLeaf l with | some p => p.1 | none => 2 ^ 32 - 1), sigFlags vs)

/-- A strip of a reduction. -/
def redStrip (s : State) (core op axis : Nat) (d a : Opnd) (lo hi : Nat) : StripOut :=
  let n := if axis = 1 then d.vc else min 1 d.vc
  rowsOf d lo hi n (fun i j => redCode op d.fmt (redLeaves s core axis a i j))

/-- Whether magnitude x ranks above y: a NaN above every number (10 R276). -/
def ranksAbove (x y : Val) : Bool :=
  let m := fun (v : Val) => match v with | .fin _ a e => Val.fin false a e | .inf _ => .inf false | n => n
  if x.isNan then !y.isNan else if y.isNan then false else vLt (m y) (m x)

/-- The two kept positions of a group of four (10 R276). -/
def keptPair (v : Nat → Val) : Nat × Nat :=
  let best := fun (skip : Nat) => ((List.range 4).filter (fun k => k != skip)).foldl (fun m k => if m = 4 then k else if ranksAbove (v k) (v m) then k else m) 4
  let x := best 4
  let y := best x
  (min x y, max x y)

/-- A strip of tsparse (10 R276). -/
def sparseStrip (s : State) (core : Nat) (d a m : Opnd) (lo hi : Nat) : StripOut :=
  let pair := fun (i g : Nat) => keptPair (fun k => a.val s core .zero i (4 * g + k))
  let keep := fun (i j : Nat) => let p := pair i (j / 2); 4 * (j / 2) + (if j % 2 = 0 then p.1 else p.2)
  let nib := fun (i g : Nat) => let p := pair i g; p.2 * 4 + p.1
  let x := rowsOf d lo (min hi d.vr) d.vc (fun i j => copyElem d a s core i (keep i j) i j)
  let y := rowsOf m lo (min hi m.vr) m.vc (fun i j => (nib i (2 * j) + 16 * nib i (2 * j + 1), 0))
  { rows := x.rows ++ y.rows, flags := x.flags }

/-- What strip n of an operation writes (10 R247). -/
def stripOut (op : TileOp) (w : TileWord) (s : State) (core n : Nat) : StripOut :=
  let ops := op.tileOps w
  let d := ops.getD 0 (mkOpnd 0 0 0 false true)
  let a := ops.getD 1 d
  let b := ops.getD 2 d
  let lo := 8 * n
  let hi := min (8 * n + 8) (min (tileRows w.k d) d.vr)
  match w.k with
  | .quant ns => quantStrip s core ns d a lo hi
  | .red r x => redStrip s core r x d a lo hi
  | .sparse => sparseStrip s core d a b lo (min (8 * n + 8) d.rows)
  | k => rowsOf d lo hi d.vc (elemCode op k s core d a b)

/-- The bytes that strip n reads, with their OPND (10 R248, R255). -/
def stripReads (op : TileOp) (w : TileWord) (n : Nat) : List (Nat × Nat × Nat) :=
  let ops := op.tileOps w
  let d := ops.getD 0 (mkOpnd 0 0 0 false true)
  let lo := 8 * n
  let nr := min (8 * n + 8) (min (tileRows w.k d) d.vr) - lo
  let own := match w.k with
    | .arith 3 _ | .sel => d.rect lo nr 0 d.vc
    | .fill | .sign _ | .bitop _ | .quant _ => []
    | _ => d.rectScales lo nr 0 d.vc
  let src := fun (o : Opnd) => match w.k with
    | .red _ 0 => o.rect lo nr 0 o.vc
    | .red _ 1 => o.rect 0 o.vr 0 (min d.vc o.vc)
    | .red _ _ => o.rect 0 o.vr 0 o.vc
    | .bcast 0 => o.rect 0 1 0 d.vc
    | .bcast _ => o.rect lo nr 0 1
    | .trans => ({ o with view := !o.view } : Opnd).rect lo nr 0 d.vc
    | .sparse => o.rect lo 8 0 o.vc
    | _ => o.rect lo nr 0 d.vc
  own ++ ((ops.drop 1).filter (fun o => !o.dest)).flatMap src

/-- The writer of an operation's stores. -/
def TileOp.writer (op : TileOp) (s : State) : Writer := slotWriter s op.slot op.tag

/-- Perform what a strip writes, and join its flags (04 R93); a strip reads its sources whole, at one step (10 R256). -/
def performStrip (s : State) (core : Nat) (op : TileOp) (x : StripOut) : State :=
  let s := x.rows.foldl (fun s r => putRow s (op.writer s) core r.1 r.2.1 r.2.2.1 r.2.2.2) s
  let s := x.scales.foldl (fun s p => s.perfWrite (op.writer s) (aLocal core p.1) p.2 1) s
  s.joinFlags (.thread op.slot) op.tag x.flags

/-- The footprint of an operation's operands. -/
def TileOp.foot (op : TileOp) (w : TileWord) : Ranges := (op.tileOps w).flatMap Opnd.foot

/-! ### Descriptor instructions (10 R257-R259) -/

/-- tdef (10 R257). -/
def execTdef (d : BitVec 4) (a : BitVec 5) (st : State) : Outc :=
  runIns st (.tdef d a) { srcs := [(1, a)], tiles := [(0, d)] } (fun e => withImage e e.a 16 16 (fun s v =>
    let img := BitVec.ofNat 128 v
    if !dNull img && !descOk img then tileTrap e.i (.tileShape, 5, 0)
    else doneS (s.modTh e.ag (fun t => t.setDesc d.toNat img))))

/-- tshape (10 R258). -/
def execTshape (d : BitVec 4) (a b : BitVec 5) (st : State) : Outc :=
  runIns st (.tshape d a b) { srcs := [(1, a), (2, b)], tiles := [(0, d)], items := [0x100 + d.toNat] } (fun e =>
    let x := e.th.desc d.toNat
    if dNull x then tileTrap e.i (.tileShape, 1, 0)
    else if e.a.toNat > dRows x ∨ e.b.toNat > dCols x then tileTrap e.i (.tileShape, 5, 0)
    else doneS (e.s.modTh e.ag (fun t => t.setDesc d.toNat (dSet (dSet x 55 48 e.a.toNat) 63 56 e.b.toNat))))

/-- The field of a descriptor that a selector names: its bits (10 R259). -/
def selField (n : Nat) : Option (Nat × Nat) :=
  match n with
  | 0 => some (15, 0)
  | 1 => some (31, 16)
  | 2 => some (39, 32)
  | 3 => some (47, 40)
  | 4 => some (55, 48)
  | 5 => some (63, 56)
  | 6 => some (79, 64)
  | 7 => some (127, 96)
  | 8 => some (63, 0)
  | 9 => some (127, 64)
  | _ => none

/-- txget (10 R259). -/
def execTxget (d : BitVec 5) (a : BitVec 4) (b : BitVec 5) (st : State) : Outc :=
  runIns st (.txget d a b) { dst := some d, srcs := [(2, b)], tiles := [(1, a)], items := [0x100 + a.toNat] } (fun e =>
    match selField e.b.toNat with
    | none => tileTrap e.i (.tileShape, 8, 1)
    | some (hi, lo) => done e (BitVec.ofNat 64 (bits (e.th.desc a.toNat).toNat hi lo)))

/-- The descriptor that txset leaves, none for a value the table does not accept (10 R259). -/
def txsetDesc (x : Desc) (sel v : Nat) : Option Desc :=
  let put := fun (hi lo : Nat) (ok : Bool) => if ok then some (dSet x hi lo v) else none
  match sel with
  | 0 => put 15 0 (v % 32 == 0 && v < 65536)
  | 1 => put 31 16 (v % 32 == 0 && v ≤ 65504)
  | 2 => (put 39 32 (1 ≤ v && v ≤ 128)).map (fun y => dSet y 55 48 (min (dVrows x) v))
  | 3 => (put 47 40 (1 ≤ v && v ≤ 128)).map (fun y => dSet y 63 56 (min (dVcols x) v))
  | 4 => put 55 48 (v ≤ dRows x)
  | 5 => put 63 56 (v ≤ dCols x)
  | 6 => put 79 64 (v < 65536)
  | 7 => put 127 96 (v ≤ 1)
  | 8 => let y := dSet x 63 0 v; if descOk y then some y else none
  | _ => let y := dSet x 127 64 v; if descOk y then some y else none

/-- txset (10 R259). -/
def execTxset (d : BitVec 4) (a b : BitVec 5) (st : State) : Outc :=
  runIns st (.txset d a b) { srcs := [(1, a), (2, b)], tiles := [(0, d)], items := [0x100 + d.toNat] } (fun e =>
    let x := e.th.desc d.toNat
    if dNull x then tileTrap e.i (.tileShape, 1, 0)
    else if (selField e.a.toNat).isNone then tileTrap e.i (.tileShape, 8, 0)
    else match txsetDesc x e.a.toNat e.b.toNat with
      | none => tileTrap e.i (.tileShape, 5, 0)
      | some y => doneS (e.s.modTh e.ag (fun t => t.setDesc d.toNat y)))

/-! ### Strip-running instructions -/

/-- tfill (10 R260). -/
def execTfill (d : BitVec 4) (a : BitVec 5) (st : State) : Outc :=
  runIns st (.tfill d a) { srcs := [(1, a)], tiles := [(0, d)], items := [0x100 + d.toNat] } (tileBody (fun e => e.a))

/-- tadd (10 R261). -/
def execTadd (d : BitVec 4) (a b : BitVec 5) (rm : BitVec 2) (st : State) : Outc := runTile st (.tadd d a b rm)

/-- tsub (10 R261). -/
def execTsub (d : BitVec 4) (a b : BitVec 5) (rm : BitVec 2) (st : State) : Outc := runTile st (.tsub d a b rm)

/-- tmul (10 R261). -/
def execTmul (d : BitVec 4) (a b : BitVec 5) (rm : BitVec 2) (st : State) : Outc := runTile st (.tmul d a b rm)

/-- tfma (10 R261). -/
def execTfma (d : BitVec 4) (a b : BitVec 5) (rm : BitVec 2) (st : State) : Outc := runTile st (.tfma d a b rm)

/-- tmin (10 R262). -/
def execTmin (d : BitVec 4) (a b : BitVec 5) (rm : BitVec 2) (st : State) : Outc := runTile st (.tmin d a b rm)

/-- tmax (10 R262). -/
def execTmax (d : BitVec 4) (a b : BitVec 5) (rm : BitVec 2) (st : State) : Outc := runTile st (.tmax d a b rm)

/-- tdiv (10 R261). -/
def execTdiv (d : BitVec 4) (a b : BitVec 5) (rm : BitVec 2) (st : State) : Outc := runTile st (.tdiv d a b rm)

/-- tabs (10 R263). -/
def execTabs (d : BitVec 4) (a : BitVec 5) (st : State) : Outc := runTile st (.tabs d a)

/-- tneg (10 R263). -/
def execTneg (d : BitVec 4) (a : BitVec 5) (st : State) : Outc := runTile st (.tneg d a)

/-- tand (10 R264). -/
def execTand (d : BitVec 4) (a b : BitVec 5) (st : State) : Outc := runTile st (.tand d a b)

/-- tor (10 R264). -/
def execTor (d : BitVec 4) (a b : BitVec 5) (st : State) : Outc := runTile st (.tor d a b)

/-- txor (10 R264). -/
def execTxor (d : BitVec 4) (a b : BitVec 5) (st : State) : Outc := runTile st (.txor d a b)

/-- tsel (10 R265). -/
def execTsel (d : BitVec 4) (a b : BitVec 5) (st : State) : Outc := runTile st (.tsel d a b)

/-- tcmp (10 R266). -/
def execTcmp (d : BitVec 4) (a b : BitVec 5) (cond : BitVec 3) (st : State) : Outc := runTile st (.tcmp d a b cond)

/-- texp (10 R267). -/
def execTexp (d : BitVec 4) (a : BitVec 5) (rm : BitVec 2) (st : State) : Outc := runTile st (.texp d a rm)

/-- texp2 (10 R267). -/
def execTexp2 (d : BitVec 4) (a : BitVec 5) (rm : BitVec 2) (st : State) : Outc := runTile st (.texp2 d a rm)

/-- tlog (10 R267). -/
def execTlog (d : BitVec 4) (a : BitVec 5) (rm : BitVec 2) (st : State) : Outc := runTile st (.tlog d a rm)

/-- tlog2 (10 R267). -/
def execTlog2 (d : BitVec 4) (a : BitVec 5) (rm : BitVec 2) (st : State) : Outc := runTile st (.tlog2 d a rm)

/-- tsqrt (10 R267). -/
def execTsqrt (d : BitVec 4) (a : BitVec 5) (rm : BitVec 2) (st : State) : Outc := runTile st (.tsqrt d a rm)

/-- trsqrt (10 R267). -/
def execTrsqrt (d : BitVec 4) (a : BitVec 5) (rm : BitVec 2) (st : State) : Outc := runTile st (.trsqrt d a rm)

/-- trcp (10 R267). -/
def execTrcp (d : BitVec 4) (a : BitVec 5) (rm : BitVec 2) (st : State) : Outc := runTile st (.trcp d a rm)

/-- tsin (10 R267). -/
def execTsin (d : BitVec 4) (a : BitVec 5) (rm : BitVec 2) (st : State) : Outc := runTile st (.tsin d a rm)

/-- tcos (10 R267). -/
def execTcos (d : BitVec 4) (a : BitVec 5) (rm : BitVec 2) (st : State) : Outc := runTile st (.tcos d a rm)

/-- ttanh (10 R267). -/
def execTtanh (d : BitVec 4) (a : BitVec 5) (rm : BitVec 2) (st : State) : Outc := runTile st (.ttanh d a rm)

/-- tcvt (10 R268). -/
def execTcvt (d : BitVec 4) (a : BitVec 5) (rm : BitVec 2) (st : State) : Outc := runTile st (.tcvt d a rm)

/-- tcvt.sr (10 R268). -/
def execTcvtSr (d : BitVec 4) (g : BitVec 3) (a : BitVec 5) (st : State) : Outc := runTile st (.tcvtSr d g a)

/-- tqnt (10 R269). -/
def execTqnt (d a : BitVec 4) (ns : BitVec 1) (st : State) : Outc := runTile st (.tqnt d a ns)

/-- tsum (10 R271). -/
def execTsum (d : BitVec 4) (a : BitVec 5) (axis : BitVec 3) (st : State) : Outc := runTile st (.tsum d a axis)

/-- trmax (10 R272). -/
def execTrmax (d : BitVec 4) (a : BitVec 5) (axis : BitVec 3) (st : State) : Outc := runTile st (.trmax d a axis)

/-- targmax (10 R273). -/
def execTargmax (d : BitVec 4) (a : BitVec 5) (axis : BitVec 3) (st : State) : Outc := runTile st (.targmax d a axis)

/-- tbcast (10 R274). -/
def execTbcast (d : BitVec 4) (a : BitVec 5) (axis : BitVec 1) (st : State) : Outc := runTile st (.tbcast d a axis)

/-- ttrans (10 R275). -/
def execTtrans (d a : BitVec 4) (st : State) : Outc := runTile st (.ttrans d a)

/-- tsparse (10 R276). -/
def execTsparse (d a : BitVec 4) (st : State) : Outc := runTile st (.tsparse d a)

end Sys2Proof.Machine
end

