-- ==== Sys2Proof/Machine/Matrix.lean ====
section
/-!
DEFINITION. Matrix: the matrix class (12 R302-R323): the checks and the issue of mma, mmag, mmas, mdld and mdclr, the effect
of one block (12 R305, R306; 04 R103; 13 R339), the Vernier table (12 R307, R308, R323) and the start of the repetition
buffer (12 R320, R321).
-/
namespace Sys2Proof.Machine

/-! ### Formats and chunks (12 R302) -/

/-- Kc of an A format, 0 for a format that is none. -/
def chunkOf (f : Nat) : Nat :=
  match f with
  | 6 => 192
  | 4 | 5 | 7 => 96
  | 2 | 3 => 48
  | 1 => 24
  | _ => 0

/-- Whether B's format pairs with A's. -/
def pairOk (fa fb : Nat) : Bool := fa == fb || ((fa == 4 || fa == 5) && (fb == 4 || fb == 5))

/-- Whether C's format stands in the row of an A format. -/
def accOk (fa fc : Nat) : Bool := if fa = 7 then fc == 9 else if fa = 1 then fc == 1 else fc == 1 || fc == 2 || fc == 3

/-- Whether the sum of a chunk is exact (04 R103). -/
def exactSum (fa : Nat) : Bool := fa == 4 || fa == 5 || fa == 6 || fa == 7

/-- A word of the multiply family. -/
structure MatWord where
  c : BitVec 4
  a : BitVec 4
  b : BitVec 4
  genA : Bool := false
  genB : Bool := false
  gather : Bool := false
  sparse : Bool := false
  moff : Nat := 0
  sat : Bool
  z : Bool
  tb : Bool

/-- The words of the multiply family (03 R59, R68). -/
def matWord : Instr → Option MatWord
  | .mma gA b a c gB sat z tb => some { c := c, a := a, b := b, genA := gA == 1, genB := gB == 1, sat := sat == 1, z := z == 1, tb := tb == 1 }
  | .mmas moff b a c gB sat z tb => some { c := c, a := a, b := b, genB := gB == 1, sparse := true, moff := moff.toNat, sat := sat == 1, z := z == 1, tb := tb == 1 }
  | .mmag b a c sat z tb => some { c := c, a := a, b := b, gather := true, sat := sat == 1, z := z == 1, tb := tb == 1 }
  | _ => none

/-- Logical K: that of `mmas` is twice the chunk (12 R302). -/
def MatWord.k (w : MatWord) (fa : Nat) : Nat := if w.sparse then 2 * chunkOf fa else chunkOf fa

/-- Metadata bytes per row of `mmas` (12 R302). -/
def metaRow (fa : Nat) : Nat := chunkOf fa / 4

/-! ### Operands and checks (12 R303, R317) -/

/-- The operands of a multiply word: C, A or the index, B, the table; none for a generator or an absent table. -/
structure MatOps where
  c : Opnd
  a : Option Opnd
  b : Option Opnd
  t : Option Opnd

/-- A compressed operand's scales run along its logical columns (12 R315). -/
def sparseA (w : MatWord) (o : Opnd) : Opnd := if w.sparse then { o with grp := 16, per := w.k o.fmt / 32 } else o

/-- The operands that a word names. -/
def matOps (s : State) (core : Nat) (t : Thread) (g : Stag) (w : MatWord) : Except TileBad MatOps :=
  match opndOf s core t g w.c.toNat 0 false true,
      (if w.genA then Except.ok none else (opndOf s core t g w.a.toNat 1 false false).map (fun o => some (sparseA w o))),
      (if w.genB then Except.ok none else (opndOf s core t g w.b.toNat 2 false false).map some),
      (if w.gather then (opndOf s core t g (w.a.toNat + 1) 3 false false).map some else Except.ok none) with
  | .error e, _, _, _ => .error e
  | _, .error e, _, _ => .error e
  | _, _, .error e, _ => .error e
  | _, _, _, .error e => .error e
  | .ok c, .ok a, .ok b, .ok x => .ok { c := c, a := a, b := b, t := x }

/-- The tile operands in order. -/
def MatOps.list (m : MatOps) : List Opnd := m.c :: (m.a.toList ++ m.b.toList ++ m.t.toList)

/-- The generators of a word, as captured. -/
def matGens (t : Thread) (w : MatWord) : Option GenCap × Option GenCap :=
  (if w.genA then some (genCap t (w.a.toNat % 8)) else none, if w.genB then some (genCap t (w.b.toNat % 8)) else none)

/-- The format of A: of its tile, of the table of `mmag`, or of its generator. -/
def fmtA (w : MatWord) (m : MatOps) (g : Option GenCap) : Nat :=
  match g, (if w.gather then m.t else m.a) with
  | some c, _ => gFmt c.img
  | none, some o => o.fmt
  | none, none => 0

/-- The format of B. -/
def fmtB (m : MatOps) (g : Option GenCap) : Nat :=
  match g, m.b with
  | some c, _ => gFmt c.img
  | none, some o => o.fmt
  | none, none => 0

/-- A generator that holds no kind. -/
def genNone (g : Option GenCap) : Bool := match g with | some c => gKind c.img == 0 | none => false

/-- Check 1 of 12 R317: the format rules. -/
def matFmtBad (w : MatWord) (m : MatOps) (gA gB : Option GenCap) : Option TileBad :=
  let fa := fmtA w m gA
  let fb := fmtB m gB
  let idx := match m.a with | some o => w.gather && o.fmt != 9 | none => false
  let tbs := match m.b with | some o => w.tb && o.scaled | none => false
  if idx then some (.tileFormat, 3, 1)
  else if genNone gA then some (.tileFormat, 4, 1)
  else if chunkOf fa = 0 ∨ (w.sparse ∧ fa = 1) then some (.tileFormat, 3, if w.gather then 3 else 1)
  else if genNone gB then some (.tileFormat, 4, 2)
  else if !pairOk fa fb || tbs then some (.tileFormat, 3, 2)
  else if !accOk fa m.c.fmt then some (.tileFormat, 3, 0)
  else none

/-- Check 2 of 12 R317: the shapes. -/
def matShapeBad (w : MatWord) (m : MatOps) (fa : Nat) : Option TileBad :=
  let k := w.k fa
  let aBad := match m.a with | some o => o.rows != m.c.rows || (!w.gather && o.cols > chunkOf fa) | none => false
  let bBad := match m.b with
    | some o => if w.tb then o.rows > k || o.cols != m.c.cols else o.rows != m.c.cols || o.cols > k
    | none => false
  let tBad := match m.t with | some o => decide (o.cols > chunkOf fa) | none => false
  if aBad then some (.tileShape, 3, 1) else if bBad then some (.tileShape, 3, 2) else if tBad then some (.tileShape, 3, 3) else none

/-- Check 2 of 10 R252 on an operand, or on the ROPE table in its place. -/
def placeOr (exb opnd : Nat) (o : Option Opnd) (g : Option GenCap) : Option TileBad :=
  match o, g with
  | some x, _ => chkPlace exb x
  | none, some c => chkRanges exb opnd (ropeRange c.img)
  | none, none => none

/-- Check 4 of 12 R317 on an operand, or on the ROPE table in its place. -/
def aliasOr (c : Opnd) (opnd : Nat) (o : Option Opnd) (g : Option GenCap) : Option TileBad :=
  match o, g with
  | some x, _ => chkAlias false c x
  | none, some r => if rangesMeet c.foot (ropeRange r.img) then some (.tileAlias, 2, opnd) else none
  | none, none => none

/-- The checks of a multiply word (12 R317). -/
def matBad (c : Core) (w : MatWord) (m : MatOps) (gA gB : Option GenCap) : Option TileBad :=
  let fa := fmtA w m gA
  (firstBad m.list chkNull).or ((chkPlace c.exb m.c).or ((placeOr c.exb 1 m.a gA).or ((placeOr c.exb 2 m.b gB).or ((placeOr c.exb 3 m.t none).or
    ((firstBad m.list (chkFmt c.bfmt true)).or ((firstBad m.list (chkShape true)).or ((matFmtBad w m gA gB).or ((matShapeBad w m fa).or
      ((if w.sparse ∧ w.moff * 128 + m.c.rows * metaRow fa > 2048 then some (.tileShape, 12, 1) else none).or
        ((aliasOr m.c 1 m.a gA).or ((aliasOr m.c 2 m.b gB).or (aliasOr m.c 3 m.t none))))))))))))

/-- The descriptor and code of an operand that may be absent. -/
def capOpnd (o : Option Opnd) : Desc × BitVec 4 := match o with | some x => (x.d, BitVec.ofNat 4 x.fmt) | none => (0, 0)

/-- The operation of a multiply word, checked. -/
def mulOp (s : State) (slot : Nat) (t : Thread) (g : Stag) (i : Instr) (w : MatWord) (pc : BitVec 16) : Except TileBad TileOp :=
  match matOps s (coreOf slot) t g w with
  | .error e => .error e
  | .ok m =>
    let (gA, gB) := matGens t w
    match matBad (s.core (coreOf slot)) w m gA gB with
    | some b => .error b
    | none =>
      let l := [capOpnd (some m.c), capOpnd m.a, capOpnd m.b, capOpnd m.t]
      .ok { id := 0, slot := slot, tag := t.tag, ins := i, word := i.word, pc := pc, descs := l.map Prod.fst, codes := l.map Prod.snd, xs := 0, gA := gA, gB := gB, next := 0, q := g.q, zonce := bitAt g.w 21, moff := w.moff }

/-- The operation of `mdld` (12 R316). -/
def mdldOp (s : State) (slot : Nat) (t : Thread) (g : Stag) (i : Instr) (a : BitVec 4) (pc : BitVec 16) (x : BitVec 64) : Except TileBad TileOp :=
  match opndOf s (coreOf slot) t g a.toNat 1 false false with
  | .error e => .error e
  | .ok o =>
    match tileChecks (s.core (coreOf slot)) { fmtOk := fun o => o.fmt == 8, shapeOk := fun _ => true } [o] with
    | some b => .error b
    | none =>
      if x.toNat > 2047 ∨ x.toNat + o.rows * o.cols > 2048 then .error (.tileShape, 12, 1)
      else .ok { id := 0, slot := slot, tag := t.tag, ins := i, word := i.word, pc := pc, descs := [o.d], codes := [BitVec.ofNat 4 o.fmt], xs := x, gA := none, gB := none, next := 0, q := g.q, zonce := false, moff := 0 }

/-- The operation of `mdclr` (12 R316). -/
def mdclrOp (slot : Nat) (t : Thread) (g : Stag) (i : Instr) (pc : BitVec 16) (x : BitVec 64) : Except TileBad TileOp :=
  let v := x.toNat
  let len := bits v 27 16
  if bits v 63 28 ≠ 0 ∨ bits v 15 11 ≠ 0 ∨ len = 0 ∨ bits v 10 0 + len > 2048 then .error (.tileShape, 12, 1)
  else .ok { id := 0, slot := slot, tag := t.tag, ins := i, word := i.word, pc := pc, descs := [], codes := [], xs := x, gA := none, gB := none, next := 0, q := g.q, zonce := false, moff := 0 }

/-- The operation of any word that a tile or matrix queue takes, but gfill; xa and xb are its scalar operands. -/
def queueOp (s : State) (slot : Nat) (t : Thread) (g : Stag) (i : Instr) (pc : BitVec 16) (xa xb : BitVec 64) : Except TileBad TileOp :=
  match matWord i with
  | some w => mulOp s slot t g i w pc
  | none =>
    match i with
    | .mdld a _ => mdldOp s slot t g i a pc xb
    | .mdclr _ => mdclrOp slot t g i pc xa
    | _ => tileOp s slot t g i pc xa

/-- The issue of a matrix word. -/
def matBody (e : Env) : Res :=
  match queueOp e.s e.ag.num e.th {} e.i (e.th.pc.setWidth 16) e.a e.b with
  | .error b => tileTrap e.i b
  | .ok op => issueOp e op

/-- The fields of a multiply word. -/
def matFields (i : Instr) : Fields :=
  match matWord i with
  | none => {}
  | some w =>
    let a := if w.genA then [] else [(1, w.a)]
    let b := if w.genB then [] else [(2, w.b)]
    let it := fun (g : Bool) (n : BitVec 4) => if g then 0x200 + n.toNat % 8 else 0x100 + n.toNat
    { tiles := [(0, w.c)] ++ a ++ b,
      items := [it false w.c, it w.genA w.a, it w.genB w.b] ++ (if w.gather then [0x100 + w.a.toNat + 1] else []) }

/-- mma (12 R302-R306). -/
def execMma (gA : BitVec 1) (b a c : BitVec 4) (gB sat z tb : BitVec 1) (st : State) : Outc :=
  runIns st (.mma gA b a c gB sat z tb) (matFields (.mma gA b a c gB sat z tb)) matBody

/-- mmas (12 R314, R315). -/
def execMmas (moff b a c : BitVec 4) (gB sat z tb : BitVec 1) (st : State) : Outc :=
  runIns st (.mmas moff b a c gB sat z tb) (matFields (.mmas moff b a c gB sat z tb)) matBody

/-- mmag (12 R313). -/
def execMmag (b a c : BitVec 4) (sat z tb : BitVec 1) (st : State) : Outc :=
  runIns st (.mmag b a c sat z tb) (matFields (.mmag b a c sat z tb)) matBody

/-- mdld (12 R316). -/
def execMdld (a : BitVec 4) (b : BitVec 5) (st : State) : Outc :=
  runIns st (.mdld a b) { srcs := [(2, b)], tiles := [(1, a)], items := [0x100 + a.toNat] } matBody

/-- mdclr (12 R316). -/
def execMdclr (a : BitVec 5) (st : State) : Outc := runIns st (.mdclr a) { srcs := [(1, a)] } matBody

/-! ### Accumulation (04 R103, 12 R306) -/

/-- The exact sum of signed dyadics: numerator and exponent. -/
def dySum (l : List (Bool × Nat × Int)) : Int × Int :=
  let e := l.foldl (fun m p => min m p.2.2) (match l with | [] => 0 | p :: _ => p.2.2)
  (l.foldl (fun t p => t + signed p.1 p.2.1 * (2 ^ (p.2.2 - e).toNat : Nat)) 0, e)

/-- TruncTo of a term to a multiple of 2^q, and whether it loses a nonzero part. -/
def truncTo (q : Int) (p : Bool × Nat × Int) : (Bool × Nat × Int) × Bool :=
  if q ≤ p.2.2 then (p, false)
  else let d := 2 ^ (q - p.2.2).toNat; ((p.1, p.2.1 / d, q), p.2.1 % d != 0)

/-- The nonzero finite products of a chunk. -/
def finTerms (ps : List Val) : List (Bool × Nat × Int) :=
  ps.filterMap (fun v => match v with | .fin n m e => if m = 0 then none else some (n, m, e) | _ => none)

/-- S of 04 R103: the sum and whether truncation lost something.  A sum of zeros alone is +0, whatever their signs: DESIGN
CHOICE (log 86), since the rules state no sign for it. -/
def chunkSum (exact : Bool) (ps : List Val) : (Int × Int) × Bool :=
  let ts := finTerms ps
  if exact then (dySum ts, false)
  else
    let top := ts.foldl (fun (m : Option Int) p => let x := p.2.2 + p.2.1.log2; match m with | none => some x | some y => some (max x y)) none
    let rs := ts.map (truncTo (top.getD 0 - 56))
    (dySum (rs.map Prod.fst), rs.any Prod.snd)

/-- The new encoding and flags of a floating-point C element (04 R103, 12 R306).  A term that TruncTo cuts short sets NX and not
UF where the rounding of c + S is exact, and an infinite or NaN result sets no NX for terms that were never summed: DESIGN
CHOICE (log 111). -/
def accFloat (f : Nat) (exact sat : Bool) (c : Val) (ps : List Val) : Nat × FlagSet :=
  let all := c :: ps
  if all.any Val.isNan ∨ (all.any (· == .inf false) ∧ all.any (· == .inf true)) then ((roundTo f .rne (.nan false)).1, fNV)
  else if all.any (· == .inf false) then roundTo f .rne (.inf false)
  else if all.any (· == .inf true) then roundTo f .rne (.inf true)
  else
    let (s, lost) := chunkSum exact ps
    let v := (vAdd false c (.fin (s.1 < 0) s.1.natAbs s.2)).1
    let r := roundTo f .rne v
    let code := match fpOf f with
      | some p => if sat && r.2 &&& fOF != 0 then p.enc v.neg p.top else r.1
      | none => r.1
    (code, r.2 ||| fIf lost fNX)

/-- The new encoding and flags of an INT32 C element. -/
def accInt (sat : Bool) (c : Int) (ps : List Val) : Nat × FlagSet :=
  let s := (chunkSum true ps).1
  let t := c + s.1 * (2 ^ s.2.toNat : Nat)
  if sat then
    let v := max (-2147483648) (min 2147483647 t)
    (intEnc 9 v, fIf (v != t) fNV)
  else (intEnc 9 t, 0)

/-! ### Blocks (12 R304, R305) -/

/-- Rows of blocks. -/
def blockRows (c : Opnd) : Nat := ceilDiv c.rows 8

/-- The steps of a queued operation: blocks of C, or 128-byte units of mdld and mdclr. -/
def matSteps (op : TileOp) : Nat :=
  match op.ins with
  | .mdld _ _ => let o := op.opnd 0 1 false false; ceilDiv (o.rows * o.cols) 128
  | .mdclr _ => ceilDiv (bits op.xs.toNat 27 16) 128
  | _ => let c := op.opnd 0 0 false true; blockRows c * ceilDiv c.cols 8

/-- Whether a block holds no element of C's valid extent. -/
def blockEmpty (op : TileOp) (n : Nat) : Bool :=
  match op.ins with
  | .mdld _ _ | .mdclr _ => false
  | _ => let c := op.opnd 0 0 false true; c.vr ≤ 8 * (n % blockRows c) || c.vc ≤ 8 * (n / blockRows c)

/-- The operands of a captured multiply operation. -/
def TileOp.matOps (op : TileOp) (w : MatWord) : MatOps :=
  { c := op.opnd 0 0 false true,
    a := if w.genA then none else some (sparseA w (op.opnd 1 1 false false)),
    b := if w.genB then none else some (op.opnd 2 2 false false),
    t := if w.gather then some (op.opnd 3 3 false false) else none }

/-- The index value of row i of `mmag`, none where it is not read (12 R313). -/
def rowIndex (s : State) (core : Nat) (x : Opnd) (i : Nat) : Option Int :=
  if x.valid i 0 then some (intValue 9 (x.codeAt s core i 0)) else none

/-- The metadata nibble of group g of row i (12 R315). -/
def nibble (s : State) (core moff bpr i g : Nat) : Nat :=
  bits (s.rd (aSide (octetOf core) (placeOf core * 2048 + moff * 128 + i * bpr + g / 2)) 1) (g % 2 * 4 + 3) (g % 2 * 4)

/-- An element of an operand of a chunk, none outside its extent (12 R303). -/
def Opnd.elem (o : Opnd) (s : State) (core i j : Nat) : Option Val :=
  if o.valid i j then some (o.val s core .zero i j) else none

/-- The element that a nibble leaves at position p of a group of four (12 R315): a position that no kept value takes is 0
where the group has one, and outside the extent where it has none. -/
def sparseAt (n : Nat) (x y : Option Val) (p : Nat) : Option Val :=
  let hit := (if p = n % 4 then [x] else []) ++ (if p = n / 4 then [y] else [])
  match hit.filterMap id, hit with
  | [u, v], _ => some (vAdd false u v).1
  | u :: _, _ => some u
  | [], [] => if x.isSome || y.isSome then some .zero else none
  | [], _ => none

/-- One row of A over the K positions of the chunk (12 R303, R313, R315; 13 R329). -/
def rowA (s : State) (core : Nat) (op : TileOp) (w : MatWord) (m : MatOps) (fa i : Nat) : List (Option Val) :=
  let kc := chunkOf fa
  match op.gA, m.a, m.t with
  | some g, _, _ => (List.range kc).map (fun k => some (genVal s core g false i (k + op.q * kc)))
  | none, some x, some t =>
    (match rowIndex s core x i with
     | some v => (List.range kc).map (fun k => t.elem s core v.toNat k)
     | none => List.replicate kc none)
  | none, some a, none =>
    if w.sparse then
      (List.range (kc / 2)).flatMap (fun g =>
        (List.range 4).map (sparseAt (nibble s core op.moff (metaRow fa) i g) (a.elem s core i (2 * g)) (a.elem s core i (2 * g + 1))))
    else (List.range kc).map (fun k => a.elem s core i k)
  | _, _, _ => []

/-- One column of B over the K positions of the chunk (12 R303, 13 R329). -/
def colB (s : State) (core : Nat) (op : TileOp) (w : MatWord) (m : MatOps) (fa j : Nat) : List (Option Val) :=
  let n := w.k fa
  match op.gB, m.b with
  | some g, _ => (List.range n).map (fun k => some (genVal s core g w.tb (k + op.q * n) j))
  | none, some b => (List.range n).map (fun k => if w.tb then b.elem s core k j else b.elem s core j k)
  | none, none => []

/-- One product of a chunk: an element outside its extent gives an exact zero whatever it meets (12 R303). -/
def productOf (a b : Option Val) : Val :=
  match a, b with
  | some x, some y => (vMul x y).1
  | _, _ => .zero

/-- The products of a chunk. -/
def products (a b : List (Option Val)) : List Val := (a.zip b).map (fun p => productOf p.1 p.2)

/-- What block n of a multiply operation writes (12 R305). -/
def mulBlock (s : State) (core : Nat) (op : TileOp) (w : MatWord) (n : Nat) : StripOut :=
  let m := op.matOps w
  let fa := fmtA w m op.gA
  let r0 := 8 * (n % blockRows m.c)
  let c0 := 8 * (n / blockRows m.c)
  let is := List.range' r0 (min (r0 + 8) m.c.vr - r0)
  let js := List.range' c0 (min (c0 + 8) m.c.vc - c0)
  let bs := js.map (fun j => (j, colB s core op w m fa j))
  let zero := w.z && (op.q == 0 || !op.zonce)
  let new := is.map (fun i =>
    let a := rowA s core op w m fa i
    (i, bs.map (fun b =>
      let ps := products a b.2
      if fmtInt m.c.fmt then accInt w.sat (if zero then 0 else intValue 9 (m.c.codeAt s core i b.1)) ps
      else accFloat m.c.fmt (exactSum fa) w.sat (if zero then .zero else m.c.val s core .zero i b.1) ps)))
  { rows := new.map (fun r => (m.c, r.1, c0, r.2.map Prod.fst)),
    flags := new.foldl (fun f r => r.2.foldl (fun g c => g ||| c.2) f) 0 }

/-- What block n of gfill writes (13 R339). -/
def fillBlock (s : State) (core : Nat) (op : TileOp) (n : Nat) : StripOut :=
  let d := op.opnd 0 0 false true
  let g := op.gA.getD { img := 0, seff := 0 }
  let r0 := 8 * (n % blockRows d)
  let c0 := 8 * (n / blockRows d)
  let new := (List.range' r0 (min (r0 + 8) d.vr - r0)).map (fun i =>
    (i, (List.range' c0 (min (c0 + 8) d.vc - c0)).map (fun j => writeElem d s core .rne (genVal s core g false i j) i j)))
  { rows := new.map (fun r => (d, r.1, c0, r.2.map Prod.fst)),
    flags := new.foldl (fun f r => r.2.foldl (fun h c => h ||| c.2) f) 0 }

/-- The ROPE table of a captured generator as a read. -/
def ropeRead (g : Option GenCap) (opnd : Nat) : List (Nat × Nat × Nat) :=
  match g with
  | some c => (ropeRange c.img).map (fun r => (r.1, r.2, opnd))
  | none => []

/-- The bytes that a block reads, but an index of `mmag` (12 R305). -/
def mulReads (s : State) (core : Nat) (op : TileOp) (w : MatWord) (n : Nat) : List (Nat × Nat × Nat) :=
  let m := op.matOps w
  let fa := fmtA w m op.gA
  let r0 := 8 * (n % blockRows m.c)
  let c0 := 8 * (n / blockRows m.c)
  let nr := min (r0 + 8) m.c.vr - r0
  let nc := min (c0 + 8) m.c.vc - c0
  let a := match m.a, m.t with
    | some x, some t => (List.range' r0 nr).flatMap (fun i => match rowIndex s core x i with
        | some v => t.rect v.toNat 1 0 (chunkOf fa)
        | none => [])
    | some o, none => o.rect r0 nr 0 (chunkOf fa)
    | none, _ => ropeRead op.gA 1
  let b := match m.b with
    | some o => if w.tb then o.rect 0 (w.k fa) c0 nc else o.rect c0 nc 0 (w.k fa)
    | none => ropeRead op.gB 2
  let c := if w.z && (op.q == 0 || !op.zonce) then [] else m.c.rect r0 nr c0 nc
  a ++ b ++ c

/-- The index elements that a block of `mmag` reads. -/
def indexReads (op : TileOp) (w : MatWord) (n : Nat) : List (Nat × Nat × Nat) :=
  let m := op.matOps w
  match w.gather, m.a with
  | true, some x => let r0 := 8 * (n % blockRows m.c); x.rect r0 (min (r0 + 8) m.c.vr - r0) 0 1
  | _, _ => []

/-- The first index of a block outside its table: the offset of its element (12 R313). -/
def badIndex (s : State) (core : Nat) (op : TileOp) (w : MatWord) (n : Nat) : Option Nat :=
  let m := op.matOps w
  match w.gather, m.a, m.t with
  | true, some x, some t =>
    let r0 := 8 * (n % blockRows m.c)
    (List.range' r0 (min (r0 + 8) m.c.vr - r0)).findSome? (fun i => match rowIndex s core x i with
      | some v => if v < 0 ∨ (t.vr : Int) ≤ v then some (dBase x.d + i * dPitch x.d) else none
      | none => none)
  | _, _, _ => none

/-- An uncorrectable error or a poison mark in the metadata that a block reads: the cause, and the slice offset of its word
(12 R314, R318; 18 R447). -/
def badMeta (s : State) (core : Nat) (op : TileOp) (w : MatWord) (n : Nat) : Option (Cause × Nat) :=
  let m := op.matOps w
  let bpr := metaRow (fmtA w m op.gA)
  let r0 := 8 * (n % blockRows m.c)
  let base := aSide (octetOf core) (placeOf core * 2048)
  if !w.sparse then none
  else (wordsOf (base + op.moff * 128 + r0 * bpr) ((min (r0 + 8) m.c.vr - r0) * bpr)).findSome? (fun a =>
    if setHas s.eccBad a then some (Cause.eccUncorr, a - base) else if setHas s.poison a then some (Cause.poison, a - base) else none)

/-- The source bytes of unit n of mdld: elements 128 n to 128 n + 127 in row-major order (12 R316). -/
def mdldReads (o : Opnd) (n : Nat) : List (Nat × Nat × Nat) :=
  (List.range' (128 * n / o.cols) (ceilDiv (128 * n + 128) o.cols - 128 * n / o.cols)).flatMap (fun i =>
    let lo := 128 * n - i * o.cols
    o.rect i 1 lo (min o.cols (128 * n + 128 - i * o.cols) - lo))

/-- What stops a step before it writes: cause, TVAL and OPND (12 R313, R314, R318). -/
def matFault (s : State) (core : Nat) (op : TileOp) (n : Nat) : Option (Cause × Nat × Nat) :=
  match matWord op.ins, op.ins with
  | some w, _ =>
    (firstFault s core (indexReads op w n)).or (match badIndex s core op w n with
      | some o => some (.tileIndex, o, 1)
      | none => (match badMeta s core op w n with
        | some (c, o) => some (c, 0x20000 + o, 1)
        | none => firstFault s core (mulReads s core op w n)))
  | none, .mdld _ _ =>
    firstFault s core (mdldReads (op.opnd 0 1 false false) n)
  | none, .gfill _ _ =>
    let d := op.opnd 0 0 false true
    firstFault s core (ropeRead op.gA 1 ++ d.rectScales (8 * (n % blockRows d)) 8 (8 * (n / blockRows d)) 8)
  | _, _ => none

/-- The bytes of a unit of mdld (12 R316): elements outside the valid extent are 0. -/
def mdldBytes (s : State) (core : Nat) (op : TileOp) (n : Nat) : List (BitVec 8) :=
  let o := op.opnd 0 1 false false
  (List.range' (128 * n) (min 128 (o.rows * o.cols - 128 * n))).map (fun k => BitVec.ofNat 8 (o.enc s core 0 (k / o.cols) (k % o.cols)))

/-- One step performed: its writes and flags (12 R305, R316; 13 R339). -/
def matEffect (s : State) (core : Nat) (op : TileOp) (n : Nat) : State :=
  let slice := aSide (octetOf core) (placeOf core * 2048)
  match matWord op.ins, op.ins with
  | some w, _ => (performStrip s core op (mulBlock s core op w n)).monEv (.thread op.slot) 6 1
  | none, .mdld _ _ => s.wrBytes (slice + op.xs.toNat + 128 * n) (mdldBytes s core op n)
  | none, .mdclr _ =>
    let len := bits op.xs.toNat 27 16
    s.wrBytes (slice + bits op.xs.toNat 10 0 + 128 * n) (List.replicate (min 128 (len - 128 * n)) 0)
  | none, _ => (performStrip s core op (fillBlock s core op n)).monEv (.thread op.slot) 6 1

/-- Entries that a step takes (12 R302, R311, R312; 13 R335); the latch serves a following block of the same block column, and
a generator B needs none. -/
def stepEntries (s : State) (core : Nat) (op : TileOp) (n : Nat) : Nat :=
  match matWord op.ins with
  | none => 1
  | some w =>
    let m := op.matOps w
    let base := if fmtA w m op.gA = 1 then 4 else 1
    if w.gather then base + 1
    else if w.sparse ∧ !w.genB ∧ (s.core core).bLatch ≠ some (op.id, n / blockRows m.c) then base + 1
    else base

/-! ### The Vernier table (12 R307, R308) -/

/-- Entry e of the table in force. -/
def Octet.vern (o : Octet) (e : Nat) : Nat := (tget o.vernier e (BitVec.ofNat 8 (128 + e % 8))).toNat

/-- The footprint of an operation of the matrix queue. -/
def matFoot (op : TileOp) : Ranges :=
  let tiles := match matWord op.ins with
    | some w => (op.matOps w).list.flatMap Opnd.foot
    | none => (List.range op.descs.length).flatMap (fun n => (op.opnd n 0 false false).foot)
  let rope := fun (g : Option GenCap) => match g with | some c => ropeRange c.img | none => []
  tiles ++ rope op.gA ++ rope op.gB

/-- The bytes that a step touches, for a lock on their banks. -/
def stepTouch (s : State) (core : Nat) (op : TileOp) : List (Nat × Nat) :=
  match matWord op.ins with
  | some w => ((indexReads op w op.next ++ mulReads s core op w op.next).map (fun p => (p.1, p.2.1))) ++ (op.matOps w).c.dataRanges
  | none => matFoot op

/-- Whether an earlier overlapping operation of the thread in the tile queue is unfinished (07 R176, 12 R319). -/
def tileAhead (s : State) (core : Nat) (op : TileOp) (foot : Ranges) : Bool :=
  (s.core core).tileQ.any (fun o => o.tag == op.tag && o.id < op.id &&
    (match tileWord o.ins with | some w => rangesMeet foot (o.foot w) | none => false))

/-- Skip the head's empty blocks; an operation with none left is over (12 R304). -/
def settleHead (s : State) (core : Nat) : Nat → State
  | 0 => s
  | n + 1 =>
    match (s.core core).matQ with
    | [] => s
    | op :: _ =>
      if op.next ≥ matSteps op then settleHead (finishOp s core op) core n
      else if blockEmpty op op.next then settleHead (setNext s core op.id (op.next + 1)) core n
      else s

/-- Whether core place p of an octet has work that can start or go on (12 R308). -/
def matReady (s : State) (octet p : Nat) : Bool :=
  let core := octet * 8 + p
  match (s.core core).matQ with
  | [] => false
  | op :: _ =>
    let foot := matFoot op
    !scalarAhead s core op foot && !tileAhead s core op foot && !bankHeld s core op.slot (stepTouch s core op)

/-- The place that entry e serves (12 R308). -/
def servedPlace (s : State) (octet e : Nat) : Option Nat :=
  let v := (s.octet octet).vern e
  let p := bits v 2 0
  if !bitAt v 7 then none
  else if matReady s octet p then some p
  else if bitAt v 6 then
    (List.range 7).findSome? (fun i =>
      let q := (p + i + 1) % 8
      if s.ownerOf (octet * 8 + q) = s.ownerOf (octet * 8 + p) ∧ matReady s octet q then some q else none)
  else none

/-- Set the entries spent on a place's step in progress. -/
def setPartial (s : State) (octet p n : Nat) : State :=
  s.modOctet octet (fun o => { o with partialWork := if n = 0 then terase o.partialWork p else tset o.partialWork p n })

/-- Four cycles of a core's head work: the step is performed at its last entry. -/
def runEntry (s : State) (octet p : Nat) : State :=
  let core := octet * 8 + p
  match (s.core core).matQ with
  | [] => s
  | op :: _ =>
    let spent := tget (s.octet octet).partialWork p 0 + 1
    if spent < stepEntries s core op op.next then setPartial s octet p spent
    else
      let s := setPartial s octet p 0
      match matFault s core op op.next with
      | some (c, v, o) => faultStop s core op c v o
      | none =>
        let col := match matWord op.ins with | some w => some (op.id, op.next / blockRows (op.matOps w).c) | none => (s.core core).bLatch
        let s := (matEffect s core op op.next).modCore core (fun c => { c with bLatch := col })
        if op.next + 1 ≥ matSteps op then finishOp s core op else setNext s core op.id (op.next + 1)

/-- Steps enough to skip everything that a core's matrix queue holds. -/
def settleFuel (c : Core) : Nat := c.matQ.foldl (fun n op => n + matSteps op + 1) 0

/-- Skip the empty blocks at the heads of an octet's queues. -/
def settleAll (s : State) (octet : Nat) : State :=
  (List.range 8).foldl (fun s p => settleHead s (octet * 8 + p) (settleFuel (s.core (octet * 8 + p)))) s

/-- Whether a core of an octet has queued matrix work. -/
def octetBusy (s : State) (octet : Nat) : Bool := (List.range 8).any (fun p => !(s.core (octet * 8 + p)).matQ.isEmpty)

/-- A written table comes into force at entry 0 of a table period (12 R323). -/
def switchVernier (s : State) (octet : Nat) : State :=
  let o := s.octet octet
  match o.pendingWrite with
  | some t => if o.entry = 0 then s.modOctet octet (fun o => { o with vernier := t, pendingWrite := none }) else s
  | none => s

/-- VERNIER_ENTRY: the table's next entry serves one core (12 R308). -/
def doVernier (s : State) (octet : Nat) : State :=
  let s := settleAll (switchVernier s octet) octet
  let e := (s.octet octet).entry
  let s := match servedPlace s octet e with | some p => runEntry s octet p | none => s
  let s := (settleAll s octet).modOctet octet (fun o => { o with entry := (e + 1) % 64 })
  if octetBusy s octet then again s (.vernierEntry octet) else s

/-- VERNIER_ENTRY (12 R308). -/
def execVernierEntry (s : State) : Outc :=
  match s.ev with
  | some (.vernierEntry octet) => evDo (.vernierEntry octet) (doVernier s octet)
  | _ => .fault .noSuchUnit

/-- VERNIER_TABLE_SWITCH: entry 0 of a table period, which an octet without work reaches unseen (12 R323). -/
def doVernierSwitch (s : State) (octet : Nat) : State :=
  let s := if octetBusy s octet then s else s.modOctet octet (fun o => { o with entry := 0 })
  let s := switchVernier s octet
  if (s.octet octet).pendingWrite.isSome then again s (.vernierTableSwitch octet) else s

/-- VERNIER_TABLE_SWITCH (12 R323). -/
def execVernierTableSwitch (s : State) : Outc :=
  match s.ev with
  | some (.vernierTableSwitch octet) => evDo (.vernierTableSwitch octet) (doVernierSwitch s octet)
  | _ => .fault .noSuchUnit

/-- Whether a write of entry e breaks 12 R323 for an owner: an old or a new entry that names another owner's core. -/
def vernForeign (s : State) (octet owner old new : Nat) : Bool :=
  let foreign := fun (v : Nat) => bitAt v 7 && s.ownerOf (octet * 8 + bits v 2 0) != owner
  owner != 0 && old != new && (foreign old || foreign new)

/-- mitw (12 R323). -/
def mitwBody (e : Env) : Res :=
  let octet := octetOf e.ag.core
  let o := e.s.octet octet
  let g := e.a.toNat % 8
  let old := o.pendingWrite.getD o.vernier
  let oldE := fun (k : Nat) => (tget old (8 * g + k) (BitVec.ofNat 8 (128 + k))).toNat
  let newE := fun (k : Nat) => bits e.b.toNat (8 * k + 7) (8 * k)
  if e.a.toNat ≥ 8 ∨ (List.range 8).any (fun k => bits (newE k) 5 3 != 0) then illegal e.i 6 0
  else if (List.range 8).any (fun k => vernForeign e.s octet (e.s.ownerOf e.ag.core) (oldE k) (newE k)) then illegal e.i 8 0
  else
    let t := (List.range 8).foldl (fun t k =>
      if newE k = 128 + k then terase t (8 * g + k) else tset t (8 * g + k) (BitVec.ofNat 8 (newE k))) old
    doneS ((e.s.modOctet octet (fun o => { o with pendingWrite := some t })).dueOnce (.vernierTableSwitch octet))

/-- mitw (12 R323). -/
def execMitw (a b : BitVec 5) (st : State) : Outc :=
  runIns st (.mitw a b) { srcs := [(1, a), (2, b)], kOnly := true } mitwBody

/-! ### The repetition buffer (12 R320, R321) -/

/-- Whether a stagger word is malformed (12 R320, R321). -/
def staggerBad (w : Nat) : Bool :=
  bits w 47 45 != 0 || bits w 23 22 != 0 || bits w 63 48 % 32 != 0 || bits w 39 24 % 32 != 0

/-- rpt (12 R321). -/
def execRpt (a : BitVec 5) (m : BitVec 9) (n : BitVec 3) (st : State) : Outc :=
  runIns st (.rpt a m n) { srcs := [(1, a)] } (fun e =>
    if staggerBad e.a.toNat then tileTrap e.i (.tileShape, 13, 1)
    else if e.th.seqr.busy then .park .sequencer e.th.prog e.s
    else doneS ((e.s.modTh e.ag (fun t => { t with seqr := { busy := true, n := n.toNat + 1, m := m.toNat, stagger := e.a, pc := e.th.pc } })).dueOnce (.rptReissue e.ag.num)))

/-- The word that a captured word becomes at reissue q: tile names moved on, the metadata offset added, `.z` dropped
under ZONCE (12 R320). -/
def stagInstr (g : Stag) (i : Instr) : Instr :=
  let d := g.name 0
  let n1 := g.name 1
  let n2 := g.name 2
  let v1 := g.view 1
  let v2 := g.view 2
  let zz := fun (z : BitVec 1) => if bitAt g.w 21 ∧ g.q ≠ 0 then 0 else z
  match i with
  | .tfill x a => .tfill (d x) a
  | .tadd x a b r => .tadd (d x) (v1 a) (v2 b) r
  | .tsub x a b r => .tsub (d x) (v1 a) (v2 b) r
  | .tmul x a b r => .tmul (d x) (v1 a) (v2 b) r
  | .tfma x a b r => .tfma (d x) (v1 a) (v2 b) r
  | .tmin x a b r => .tmin (d x) (v1 a) (v2 b) r
  | .tmax x a b r => .tmax (d x) (v1 a) (v2 b) r
  | .tdiv x a b r => .tdiv (d x) (v1 a) (v2 b) r
  | .tabs x a => .tabs (d x) (v1 a)
  | .tneg x a => .tneg (d x) (v1 a)
  | .tand x a b => .tand (d x) (v1 a) (v2 b)
  | .tor x a b => .tor (d x) (v1 a) (v2 b)
  | .txor x a b => .txor (d x) (v1 a) (v2 b)
  | .tsel x a b => .tsel (d x) (v1 a) (v2 b)
  | .tcmp x a b c => .tcmp (d x) (v1 a) (v2 b) c
  | .texp x a r => .texp (d x) (v1 a) r
  | .texp2 x a r => .texp2 (d x) (v1 a) r
  | .tlog x a r => .tlog (d x) (v1 a) r
  | .tlog2 x a r => .tlog2 (d x) (v1 a) r
  | .tsqrt x a r => .tsqrt (d x) (v1 a) r
  | .trsqrt x a r => .trsqrt (d x) (v1 a) r
  | .trcp x a r => .trcp (d x) (v1 a) r
  | .tsin x a r => .tsin (d x) (v1 a) r
  | .tcos x a r => .tcos (d x) (v1 a) r
  | .ttanh x a r => .ttanh (d x) (v1 a) r
  | .tcvt x a r => .tcvt (d x) (v1 a) r
  | .tcvtSr x n a => .tcvtSr (d x) n (v1 a)
  | .tqnt x a k => .tqnt (d x) (n1 a) k
  | .tsum x a k => .tsum (d x) (v1 a) k
  | .trmax x a k => .trmax (d x) (v1 a) k
  | .targmax x a k => .targmax (d x) (v1 a) k
  | .tbcast x a k => .tbcast (d x) (v1 a) k
  | .ttrans x a => .ttrans (d x) (n1 a)
  | .tsparse x a => .tsparse (d x) (n1 a)
  | .mma gA b a c gB sat z tb => .mma gA (if gB = 1 then b else n2 b) (if gA = 1 then a else n1 a) (d c) gB sat (zz z) tb
  | .mmas mo b a c gB sat z tb => .mmas (mo + BitVec.ofNat 4 (g.q * bits g.w 15 12)) (if gB = 1 then b else n2 b) (n1 a) (d c) gB sat (zz z) tb
  | .mmag b a c sat z tb => .mmag (n2 b) (n1 a) (d c) sat (zz z) tb
  | .mdld a b => .mdld (n1 a) b
  | .cpyLd x a b => .cpyLd (d x) a b
  | .cpyLdPx8 x a b => .cpyLdPx8 (d x) a b
  | .cpySt x a b => .cpySt (d x) a b
  | .cpyStPx8 x a b => .cpyStPx8 (d x) a b
  | .cpyTt x a b => .cpyTt (d x) (n1 a) b
  | i => i

end Sys2Proof.Machine
end

