-- ==== Sys2Proof/Machine/Strips.lean ====
section
/-!
DEFINITION. Strips: TILE_STRIP, the next strip of a core's tile queue (10 R247, R248; 12 R319).
-/
namespace Sys2Proof.Machine

/-- Whether an earlier overlapping operation of the thread in the matrix queue is unfinished: what that operation reads and
writes is its footprint with its ROPE tables and compressed scales (07 R176, 12 R315, R319, 13 R334). -/
def matrixAhead (s : State) (core : Nat) (op : TileOp) (foot : Ranges) : Bool :=
  (s.core core).matQ.any (fun o => o.tag == op.tag && o.id < op.id && rangesMeet foot (matFoot o))

/-- The bytes that a strip reads and writes, scale bytes of tqnt included. -/
def stripTouch (reads : List (Nat × Nat × Nat)) (out : StripOut) : List (Nat × Nat) :=
  reads.map (fun p => (p.1, p.2.1)) ++ out.rows.map (fun r => (dBase r.1.d + r.2.1 * dPitch r.1.d, r.1.rowBytes)) ++
    out.scales.map (fun p => (p.1, 1))

/-- One strip of the head operation (10 R247): its waits, its stop, or its effect. -/
def runStrip (s : State) (core : Nat) (op : TileOp) (w : TileWord) : State :=
  let foot := op.foot w
  let reads := stripReads op w op.next
  let out := stripOut op w s core op.next
  if scalarAhead s core op foot || matrixAhead s core op foot || bankHeld s core op.slot (stripTouch reads out) then again s (.tileStrip core)
  else match firstFault s core reads with
    | some (c, g, o) =>
      let s := faultStop s core op c g o
      if (s.core core).tileQ.isEmpty then s else again s (.tileStrip core)
    | none =>
      let s := (performStrip s core op out).monEv (.thread op.slot) 5 1
      let s := if op.next + 1 ≥ tileStrips op then finishOp s core op else setNext s core op.id (op.next + 1)
      if (s.core core).tileQ.isEmpty then s else again s (.tileStrip core)

/-- TILE_STRIP (10 R247). -/
def doTileStrip (s : State) (core : Nat) : State :=
  match (s.core core).tileQ with
  | [] => s
  | op :: _ =>
    match tileWord op.ins with
    | none => finishOp s core op
    | some w => runStrip s core op w

/-- TILE_STRIP (10 R247). -/
def execTileStrip (s : State) : Outc :=
  match s.ev with
  | some (.tileStrip core) => evDo (.tileStrip core) (doTileStrip s core)
  | _ => .fault .noSuchUnit

end Sys2Proof.Machine
end

