-- ==== Sys2Proof/Machine/Sequence.lean ====
section
/-!
DEFINITION. Sequence: the reissues of the repetition buffer (12 R320-R322).
-/
namespace Sys2Proof.Machine

/-- The sequencer cleared, with the extra counts that it holds (12 R322). -/
def clearSeq (t : Thread) : Thread :=
  { t with seqr := {}, cnt := { t.cnt with t := t.cnt.t - t.seqr.extraT.toNat, c := t.cnt.c - t.seqr.extraC.toNat } }

/-- The sequencer past the reissue it has made; the last one ends it (12 R321, R322). -/
def advanceSeq (t : Thread) : Thread :=
  let q := t.seqr
  if q.idx + 1 < q.words.length then { t with seqr := { q with idx := q.idx + 1 } }
  else if q.q < q.m then { t with seqr := { q with idx := 0, q := q.q + 1 } }
  else clearSeq t

/-- REASON and OPND of a failed check, from the TINFO of its trap: the layout of 10 R253 holds both, that of 06 R142 the
reason alone. -/
def failReason (c : Cause) (val info : BitVec 64) (i : Instr) : Nat × Nat :=
  let opnd := match c with
    | .tileName | .tileFormat | .tileAlias | .tileIndex | .tileShape => bits info.toNat 6 4
    | .segRights => if val = wordVal i then bits info.toNat 6 4 else 0
    | _ => 0
  (bits info.toNat 15 8, opnd)

/-- A reissue that fails its checks: the sequencer is cleared and the thread takes the cause asynchronously
(12 R322). -/
def failSeq (s : State) (slot : Nat) (t : Thread) (w : SeqWord) (i : Instr) (c : Cause) (val info : BitVec 64) : State :=
  let (reason, opnd) := failReason c val info i
  let m : Mark := { cause := c, tval := BitVec.ofNat 64 (t.seqr.idx * 2 ^ 9 + t.seqr.q),
                    tinfo := BitVec.ofNat 64 (i.word.toNat * 2 ^ 32 + w.pc.toNat * 2 ^ 16 + reason * 2 ^ 8 + opnd * 2 ^ 4) }
  (s.setTh (.thread slot) (clearSeq t)).raise (.thread slot) t.tag (asyncOf m)

/-- The tile names and items that a captured word reads at each reissue; its generators were captured with it (13 R334). -/
def reissueFields (i : Instr) : Fields :=
  match matWord i, copyWord i, i with
  | some _, _, _ => { matFields i with items := (matFields i).items.filter (fun n => n < 0x200) }
  | none, some w, _ => { tiles := [(0, w.tile)], items := [0x100 + w.tile.toNat] }
  | none, none, .cpyTt d a _ => { tiles := [(0, d), (1, a)], items := [0x100 + d.toNat, 0x100 + a.toNat] }
  | none, none, .mdld a _ => { tiles := [(1, a)], items := [0x100 + a.toNat] }
  | none, none, _ => { tiles := wordTiles i, items := (wordTiles i).map (fun p => 0x100 + p.2.toNat) }

/-- Steps 6 and 7 of 03 R75 at a reissue, which is checked as an issue (12 R321): a tile name beyond the limit, or an item with an
uncorrectable error (18 R446). -/
def reissueStop (t : Thread) (i : Instr) : Option (Cause × BitVec 64 × BitVec 64) :=
  let f := reissueFields i
  match tileBad t f with
  | some n => some (.tileName, wordVal i, info253 0 n)
  | none => (f.items.find? (fun n => t.ecc.contains n)).map (fun n => (.eccUncorr, BitVec.ofNat 64 n, info142 18 14 false 0))

/-- The number by which a slot's reissues wait at the admission of their cluster (17 R422, class 6). -/
def seqWho (slot : Nat) : Nat := 2 ^ 97 + slot

/-- The admission of a slot's cluster. -/
def admission (slot : Nat) : Point := (6, dieOf (coreOf slot), clusterOf (coreOf slot) % 200)

/-- A reissue that finds the copy queues full stands at their admission. -/
def waitCopy (s : State) (slot owner : Nat) : State :=
  if (tfind s.claims (seqWho slot)).isSome then s
  else match claimStep s (seqWho slot) owner (plain [admission slot]) with
    | .wait t => t
    | .thru t => t

/-- Whether a reissue at the admission must wait for a round: a thread of another owner is parked there, and it has won none
(17 R424). -/
def parkedRival (s : State) (slot owner : Nat) : Bool :=
  (match tfind s.claims (seqWho slot) with | some c => !c.granted | none => true) &&
    s.threads.any (fun p => p.2.park == some .copyQueue && clusterOf (coreOf p.1) == clusterOf (coreOf slot) && s.ownerOf (coreOf p.1) != owner)

/-- The reissue of a tile copy: it passes the admission of its cluster as an issue does (11 R279; 17 R422, R424). -/
def reissueCopy (s : State) (slot : Nat) (t : Thread) (g : Stag) (w : SeqWord) (i : Instr) : State :=
  match copyOp s slot t g i w.xa w.xb with
  | .error (.trap c v inf) => failSeq s slot t w i c v inf
  | .error _ => s
  | .ok x =>
    match freeEngine (s.cluster (clusterOf (coreOf slot))) with
    | none => again (waitCopy s slot x.owner) (.rptReissue slot)
    | some k =>
      if t.cnt.c ≥ 63 then again s (.rptReissue slot)
      else if parkedRival s slot x.owner then again (waitCopy s slot x.owner) (.rptReissue slot)
      else match claimStep s (seqWho slot) x.owner (plain [admission slot]) with
        | .wait s => again s (.rptReissue slot)
        | .thru s => again ((startTransfer s slot x k).modSlot slot advanceSeq) (.rptReissue slot)

/-- The reissue of a tile or matrix word: its generators are those captured at the word's issue (13 R334). -/
def reissueTile (s : State) (slot : Nat) (t : Thread) (g : Stag) (w : SeqWord) (i : Instr) : State :=
  match queueOp s slot { t with gens := w.gens, num := w.num } g i w.pc w.xa w.xb with
  | .error (c, reason, opnd) => failSeq s slot t w i c (wordVal i) (info253 reason opnd)
  | .ok op =>
    if t.cnt.t ≥ 63 || !queueRoom (s.core (coreOf slot)) op.mat then again s (.rptReissue slot)
    else again ((enterQueue (countT s (.thread slot)) (coreOf slot) op).modSlot slot advanceSeq) (.rptReissue slot)

/-- RPT_REISSUE: the next reissue of a thread's sequencer, once nothing is held and its queue has room
(12 R321, R322). -/
def doReissue (s : State) (slot : Nat) : State :=
  match tfind s.threads slot with
  | none => dropClaim s (seqWho slot)
  | some t =>
    if !t.seqr.busy || s.parkedByReset (coreOf slot) then dropClaim s (seqWho slot)
    else if t.seqr.capturing || !t.held.isEmpty then again s (.rptReissue slot)
    else match t.seqr.words[t.seqr.idx]? with
    | none => s
    | some w =>
      let g : Stag := { q := t.seqr.q, w := t.seqr.stagger.toNat }
      let i := stagInstr g w.ins
      match reissueStop t i with
      | some (c, v, inf) => failSeq s slot t w i c v inf
      | none => if fld i.word 0 7 = 0x5B then reissueCopy s slot t g w i else reissueTile s slot t g w i

/-- RPT_REISSUE (12 R321). -/
def execRptReissue (s : State) : Outc :=
  match s.ev with
  | some (.rptReissue slot) => evDo (.rptReissue slot) (doReissue s slot)
  | _ => .fault .noSuchUnit

end Sys2Proof.Machine
end

