-- ==== Sys2Proof/Machine/Create.lean ====
section
/-!
DEFINITION. Create: the creation of threads (05 R115, R116, R125, R133, R134; 06 R138), the end of a thread (05 R135),
spawn and quit, the launch record (15 R372, R373) and what a release must have behind it before another unit acts on it.
-/
namespace Sys2Proof.Machine

/-! ### Rotation table and slots (05 R107, R133) -/

/-- An entry of the rotation table in force. -/
def Core.rotEntry (c : Core) (p : Nat) : Nat := (tget c.rot (p % 64) (BitVec.ofNat 8 (128 + p % 64))).toNat

/-- Whether the table names a slot at least once. -/
def Core.names (c : Core) (k : Nat) : Bool :=
  (List.range 64).any (fun p => bitAt (c.rotEntry p) 7 && bits (c.rotEntry p) 5 0 == k)

/-- A core's positions move on to the present while no thread runs there, eight at a time (20 R484); a committed table
takes effect at the rotation that begins meanwhile (05 R107). -/
def catchUp (s : State) (core : Nat) : State :=
  let c := s.core core
  let k := (s.die (dieOf core)).plat.thK
  let turn := 16 + 2 * k
  let n := (s.now - c.nextAt) / turn
  if s.coreLive core ∨ n = 0 then s
  else
    let whole := c.commit.isSome && (c.pos + 63) / 64 ≤ (c.pos + 8 * n) / 64
    s.setCore core { c with pos := c.pos + 8 * n, nextAt := c.nextAt + n * turn, rot := if whole then c.commit.getD c.rot else c.rot, commit := if whole then none else c.commit, step := k }

/-- The empty slots of a core that a creation may take, ascending: those that the table in force by now names, or any for
an elastic thread (05 R107, R133). -/
def openSlots (s : State) (core : Nat) (elastic : Bool) : List Nat :=
  (List.range 64).filter (fun k => (tfind s.threads (core * 64 + k)).isNone && (elastic || ((catchUp s core).core core).names k))

/-- Whether a creation of an order is served now: placements have order 0, spawns 1 + the spawner's coord, and one that
comes after a later order in the same cycle reaches the core in the next one (05 R134). -/
def makeTurn (s : State) (core ord : Nat) : Bool :=
  match (s.core core).lastMake with
  | some (t, k) => t != s.now || k ≤ ord
  | none => true

/-- A creation has been served at a core (05 R134). -/
def noteMake (s : State) (core ord : Nat) : State := s.modCore core (fun c => { c with lastMake := some (s.now, ord) })

/-- The descriptor blocks that the threads of a core hold: first descriptor and size. -/
def heldBlocks (s : State) (core : Nat) : List (Nat × Nat) :=
  (s.threads.filter (fun p => coreOf p.1 == core)).map (fun p => (p.2.tb, p.2.tlim))

/-- Whether n descriptors from b are free of blocks. -/
def blockFree (used : List (Nat × Nat)) (b n : Nat) : Bool := used.all (fun u => b + n ≤ u.1 || u.1 + u.2 ≤ b)

/-- The lowest free block of n descriptors (05 R116). -/
def lowBlock (used : List (Nat × Nat)) (n : Nat) : Option Nat :=
  ((List.range (512 / n)).find? (fun i => blockFree used (i * n) n)).map (fun i => i * n)

/-- Blocks of n descriptors for k threads, lowest first (05 R116, 15 R390). -/
def lowBlocks (n : Nat) : Nat → List (Nat × Nat) → Option (List Nat)
  | 0, _ => some []
  | k + 1, used =>
    match lowBlock used n with
    | none => none
    | some b => (lowBlocks n k ((b, n) :: used)).map (fun l => b :: l)

/-! ### Creation (05 R125) -/

/-- What a creation gives a thread. -/
structure Birth where
  pc : BitVec 64
  win : Nat
  tlim : Nat
  elastic : Bool
  regs : List (Nat × BitVec 64)
  sgs : Tbl (BitVec 128)
  num : Numbering
  launch : Nat
  group : Nat
  made : Made

/-- The registers of a window that a creation sets (05 R115). -/
def birthRegs (b : Birth) : Tbl RegEnt :=
  b.regs.foldl (fun t p => if p.1 < b.win ∧ p.1 ≠ 0 ∧ p.2 ≠ 0 then tset t p.1 { val := p.2 } else t) []

/-- The new thread of a creation in a slot of a core, with its descriptor block. -/
def newThread (s : State) (core tb : Nat) (b : Birth) : Thread :=
  { pc := b.pc, regs := birthRegs b, win := b.win, tb := tb, tlim := b.tlim, sgs := b.sgs, num := b.num,
    csr := { tvec := (s.core core).trapVec }, launch := b.launch, group := b.group, made := b.made, tag := s.nextId,
    elastic := b.elastic, fenceI := s.nextId, wakePos := (s.core core).pos }

/-- Create a thread in an empty slot (05 R107, R125). -/
def createAt (s0 : State) (core k tb : Nat) (b : Birth) : State :=
  let s := catchUp s0 core
  let t := newThread s core tb b
  (({ s with threads := tset s.threads (core * 64 + k) t }.fresh).modCore core (fun c => { c with attr := terase c.attr k }))

/-- Create a group in slots with their blocks: rank r in the r-th slot. -/
def createGroup (s : State) (core : Nat) (slots blocks : List Nat) (birth : Nat → Birth) : State :=
  ((slots.zip blocks).zipIdx).foldl (fun s p => createAt s core p.1.1 p.1.2 (birth p.2)) s

/-- The number of live threads of a launch changes. -/
def launchLive (s : State) (id n : Nat) : State :=
  match tfind s.launches id with
  | none => s
  | some l => { s with launches := tset s.launches id { l with live := l.live + n } }

/-! ### The launch record (15 R372, R373) -/

/-- Dword n of a record. -/
def LRec.d (r : LRec) (n : Nat) : Nat := (r.dw.getD n 0).toNat
/-- Slots per core S. -/
def LRec.slots (r : LRec) : Nat := bits (r.d 0) 29 24 + 1
/-- Pipeline depth P. -/
def LRec.depth (r : LRec) : Nat := bits (r.d 0) 37 32 + 1
/-- Cores C. -/
def LRec.cores (r : LRec) : Nat := bits (r.d 1) 45 32 + 1
/-- PRIO. -/
def LRec.prio (r : LRec) : Nat := bits (r.d 0) 23 22
/-- STRICT. -/
def LRec.strict (r : LRec) : Bool := bitAt (r.d 0) 21
/-- MODE: elastic. -/
def LRec.elastic (r : LRec) : Bool := bitAt (r.d 0) 20
/-- LCOUNT. -/
def LRec.lcount (r : LRec) : Nat := bits (r.d 3) 31 0
/-- DONE. -/
def LRec.done (r : LRec) : BitVec 64 := r.dw.getD 4 0
/-- The linear number of the core that ORIGIN names. -/
def LRec.origin (r : LRec) : Option Nat := coreOfCoord (bits (r.d 1) 28 0)

/-- Window size of a WS code (05 R132). -/
def winOf (ws : Nat) : Nat := 8 * (ws + 1)
/-- Tile-name limit of a TL code (05 R132). -/
def limOf (tl : Nat) : Nat := 4 * 2 ^ tl

/-- Whether a record with its segment images is malformed (15 R373). -/
def LRec.malformed (r : LRec) : Bool :=
  bits (r.d 0) 63 61 != 0 || bits (r.d 0) 47 38 != 0 || bits (r.d 0) 31 30 != 0 || bits (r.d 1) 63 46 != 0 ||
    bits (r.d 1) 31 29 != 0 || bits (r.d 1) 15 14 != 0 || bits (r.d 3) 63 32 != 0 || bits (r.d 0) 17 16 == 0 || bits (r.d 0) 19 18 == 3 ||
    bits (r.d 0) 1 0 != 0 || bits (r.d 0) 60 48 > 4096 || r.lcount == 0 || bits (r.d 1) 7 0 != 0 ||
    r.cores % r.depth != 0 || r.segs.any sgMalformed

/-- Whether two cores are mesh neighbours (01 R16). -/
def meshNext (a b : Nat) : Bool := (List.range 4).any (fun d => neighbour a d == some b)

/-- Whether a deterministic launch's cores satisfy 15 R374; an elastic one has no such condition (15 R376). -/
def coresOk (s : State) (r : LRec) (part : Nat) : Bool :=
  r.elastic ||
    match r.origin with
    | none => false
    | some o =>
      (List.range r.cores).all (fun n =>
        let c := o + n
        c < 409600 && s.ownerOf c == r.owner && s.partOf (dieOf c) == part &&
          (r.depth ≤ 1 || (n + 1) % r.depth == 0 || meshNext c (c + 1)))

/-- The segment table of a launched thread (06 R138). -/
def LRec.segTable (r : LRec) : Tbl (BitVec 128) :=
  (r.segs.zipIdx).foldl (fun t p => if p.1 = 0 then t else tset t (p.2 + 1) p.1) ({ pc := 0 } : Thread).sgs

/-- What the record gives a launched thread (02 R51, 15 R370). -/
def LRec.birth (r : LRec) (id index rank size stage : Nat) : Birth :=
  { pc := BitVec.ofNat 64 (bits (r.d 0) 15 0), win := winOf (bits (r.d 0) 17 16), tlim := limOf (bits (r.d 0) 19 18),
    elastic := false,
    regs := [(2, BitVec.ofNat 64 (bits (r.d 0) 60 48 * 16)), (10, r.dw.getD 2 0), (11, BitVec.ofNat 64 index), (12, BitVec.ofNat 64 r.lcount), (13, BitVec.ofNat 64 rank)],
    sgs := r.segTable,
    num := { lindex := BitVec.ofNat 64 index, lcount := BitVec.ofNat 64 r.lcount, grank := BitVec.ofNat 64 rank, gsize := BitVec.ofNat 64 size, stage := BitVec.ofNat 64 stage },
    launch := id, group := 0, made := .launched }

/-! ### The end of a thread (05 R135) -/

/-- A decrement that no thread issues: of a launch's or group's DONE counter (15 R371). -/
def doneDecrement (s : State) (die owner : Nat) (handle : BitVec 64) : State :=
  if handle = 0 then s
  else ({ s with reqs := tset s.reqs s.nextId (.cntDec none handle none die owner) }.fresh).due (.counterDecrement s.nextId)

/-- A member of a gspawn group ends (15 R371). -/
def groupEnd (s : State) (g : Nat) : State :=
  match tfind s.groups g with
  | none => s
  | some r =>
    if r.live > 1 then { s with groups := tset s.groups g { r with live := r.live - 1 } }
    else doneDecrement { s with groups := terase s.groups g } r.die r.owner r.done

/-- A thread of a launch ends: the launch's last thread makes LAUNCH_DONE due (15 R371). -/
def launchEnd (s : State) (id : Nat) : State :=
  match tfind s.launches id with
  | none => s
  | some l =>
    let s := { s with launches := tset s.launches id { l with live := l.live - 1 } }
    if l.live ≤ 1 ∧ !l.waiting then s.dueOnce (.launchDone id) else s

/-- A slot becomes empty: its attributes stay with it, its lock and its ports are free (05 R107, R135; 14 R358). -/
def emptySlot (s : State) (slot : Nat) : State :=
  match tfind s.threads slot with
  | none => s
  | some t =>
    let s := s.dropLocks slot
    let a := BitVec.ofNat 2 (t.hold.toNat * 2 + t.elastic.toNat)
    ({ s with threads := terase s.threads slot }).modCore (coreOf slot) (fun c =>
      { c with attr := if a = 0 then terase c.attr (slot % 64) else tset c.attr (slot % 64) a })

/-- The thread of a slot ends (05 R135). -/
def endThread (s : State) (slot : Nat) : State :=
  match tfind s.threads slot with
  | none => s
  | some t => launchEnd (groupEnd (emptySlot s slot) t.group) t.launch

/-- Whether a thread still has entries of a journal: they name it by its context tag, on whichever core it made them
(08 R202). -/
def hasJournal (s : State) (slot tag : Nat) : Bool :=
  s.cores.any (fun c => c.2.journal.any (fun p => p.2.tag == tag && (tag != 0 || (c.1 == coreOf slot && p.2.slot == slot % 64))))

/-- The lowest register entry that holds an error or a refusal (06 R164). -/
def markedEntry (t : Thread) : Option (Nat × Mark) :=
  t.regs.findSome? (fun p => if p.2.st = .pending then p.2.mark.map (fun m => (p.1, m)) else none)

/-- quit (05 R135): parks until the counters are 0 and its journal entries are free (08 R202); a marked entry traps
(06 R164). -/
def quitBody (e : Env) : Res :=
  let c := e.th.cnt
  if c.l ≠ 0 ∨ c.s ≠ 0 ∨ c.c ≠ 0 ∨ c.t ≠ 0 ∨ (hasJournal e.s e.ag.num e.th.tag) = true then .park (.drain true) e.th.prog e.s
  else match markedEntry e.th with
  | some (r, m) => .final (trapSync (e.s.setTh e.ag (e.th.setEnt r { st := .released })) e.ag m.cause m.tval m.tinfo)
  | none => .final (endThread e.s e.ag.num)

/-- quit (05 R135). -/
def execQuit (st : State) : Outc := runIns st .quit {} quitBody

/-! ### spawn (05 R132-R134) -/

/-- Whether an entry word's fields are malformed, apart from its reserved bits (05 R132). -/
def entryBad (ew : Nat) : Bool := bits ew 19 18 == 3 || bits ew 1 0 != 0

/-- The status of a creation as a 64-bit word. -/
def statusWord (x : Int) : BitVec 64 := BitVec.ofInt 64 x

/-- What a spawned thread finds in x10 to x13: the spawner's value, a free value for an entry that holds none
(05 R125). -/
def copiedReg (s : State) (t : Thread) (r : Nat) : BitVec 64 :=
  if (t.ent r).st = .present then t.reg r else Config.freeWord (s.tick * 32 + r)

/-- Whether a core may be the target of a creation by an owner on a die set: its owner matches and it is not in reset. -/
def targetOk (s : State) (core owner : Nat) : Bool := s.ownerOf core == owner && !s.fenced (s.partOf (dieOf core))

/-- spawn: the request travels to the target core (05 R133). -/
def spawnBody (e : Env) : Res :=
  match e.ag with
  | .sextant _ _ => doneS e.s
  | .thread slot =>
    let args := if e.th.win = 8 then [] else (List.range' 10 4).map (copiedReg e.s e.th)
    let target := e.a.toNat
    let r := Req.spawn e.rd slot target e.b args e.th.sgs e.th.num e.th.launch
    let s := ({ e.s with reqs := tset e.s.reqs e.s.nextId r }.fresh).tock
    .ok { s := s.due (.spawnArrival e.s.nextId), dst := .pend e.s.nextId }

/-- spawn (05 R133). -/
def execSpawn (d a b : BitVec 5) (st : State) : Outc :=
  runIns st (.spawn d a b) { dst := some d, srcs := [(1, a), (2, b)] } spawnBody

/-- What a spawn gives its thread (05 R125, R132). -/
def spawnBirth (ew : Nat) (args : List (BitVec 64)) (segs : Tbl (BitVec 128)) (num : Numbering) (launch : Nat) : Birth :=
  { pc := BitVec.ofNat 64 (bits ew 15 0), win := winOf (bits ew 17 16), tlim := limOf (bits ew 19 18),
    elastic := bitAt ew 21, regs := (args.zipIdx).map (fun p => (10 + p.2, p.1)), sgs := segs,
    num := { lindex := num.lindex, lcount := num.lcount }, launch := launch, group := 0, made := .spawned }

/-- The core of the spawner's cluster that a target names, none for another die or cluster; the other bits of the operand
are reserved and ignored (00 R9, 05 R133). -/
def spawnCore (from_ target : Nat) : Option Nat :=
  let own := clusterOf (coreOf from_)
  if bits target 28 24 = own / 200 ∧ bits target 23 16 = own % 200 then some (own * 64 + bits target 13 8) else none

/-- The result of a spawn at its target core (05 R133). -/
def spawnAt (s : State) (from_ target : Nat) (ew : Nat) (b : Birth) : BitVec 64 × State :=
  if bits ew 63 22 ≠ 0 ∨ bitAt ew 20 ∨ entryBad ew then (statusWord (-4), s)
  else
    match spawnCore from_ target with
    | none => (statusWord (-3), s)
    | some c =>
      if !targetOk s c (s.ownerOf (coreOf from_)) then (statusWord (-3), s)
      else
        match openSlots s c (bitAt ew 21) with
        | [] => (statusWord (-1), s)
        | k :: _ =>
          match lowBlock (heldBlocks s c) b.tlim with
          | none => (statusWord (-2), s)
          | some tb => (BitVec.ofNat 64 k, launchLive (createAt s c k tb b) b.launch 1)

/-- The spawn of a slot has its turn at its target core (05 R134). -/
def spawnTurn (s : State) (from_ target : Nat) : Bool :=
  match spawnCore from_ target with
  | some c => makeTurn s c (1 + coordOf from_)
  | none => true

/-- SPAWN_ARRIVAL of a spawn: a slot is taken or refused, and the answer goes back (05 R133, R134). -/
def doSpawn (s : State) (id : Nat) : State :=
  match tfind s.reqs id with
  | some (.spawn dst from_ target ew args segs num launch) =>
    if !spawnTurn s from_ target then again s (.spawnArrival id)
    else
      let p := spawnAt { s with reqs := terase s.reqs id } from_ target ew.toNat (spawnBirth ew.toNat args segs num launch)
      let s := match spawnCore from_ target with | some c => noteMake p.2 c (1 + coordOf from_) | none => p.2
      answerValue s id dst p.1 false
  | _ => s

end Sys2Proof.Machine
end

