-- ==== Sys2Proof/Machine/System.lean ====
section
/-!
DEFINITION. System: the trap and system class (14 R349-R362, R368; 03 R64): trap, ecall, ebreak, tret, wfi, fence.i, exbset,
segset, watch, lockb, unlockb and rotw, with the events of bank locks.
-/
namespace Sys2Proof.Machine

/-! ### trap, ecall, ebreak, tret, wfi, fence.i (14 R349-R352) -/

/-- trap (14 R349). -/
def execTrap (imm : BitVec 12) (st : State) : Outc :=
  runIns st (.trap imm) {} (fun _ => .trap .soft (imm.setWidth 64) 1)

/-- ecall (14 R349, 03 R64). -/
def execEcall (st : State) : Outc := runIns st .ecall {} (fun _ => .trap .soft 0 0)

/-- ebreak (03 R64). -/
def execEbreak (st : State) : Outc := runIns st .ebreak {} (fun _ => .trap .brk 0 0)

/-- Steps of a queued operation. -/
def opSteps (op : TileOp) : Nat := if op.mat then matSteps op else tileStrips op

/-- A held operation leaves the list: TPROG takes the index of the next (10 R249). -/
def unhold (t : Thread) : Thread :=
  { t with held := t.held.drop 1,
           csr := { t.csr with tprog := match t.held.drop 1 with | h :: _ => BitVec.ofNat 16 h.next | [] => 0 } }

/-- Reissue the held operations of a thread in order while their queues have room (10 R249). -/
def reissueHeld (s : State) (slot : Nat) : Nat → State
  | 0 => s
  | n + 1 =>
    match tfind s.threads slot with
    | none => s
    | some t =>
      match t.held with
      | [] => s
      | h :: _ =>
        let k := t.csr.tprog.toNat
        if k ≥ opSteps h then reissueHeld (s.modSlot slot unhold) slot n
        else if t.cnt.t ≥ 63 || !queueRoom (s.core (coreOf slot)) h.mat then s
        else reissueHeld (enterQueue (countT (s.modSlot slot unhold) (.thread slot)) (coreOf slot) { h with next := k, slot := slot }) slot n

/-- The held list reissued, with the park that waits for room (10 R249). -/
def resumeHeld (s : State) (slot : Nat) : State :=
  match tfind s.threads slot with
  | none => s
  | some t =>
    let s := reissueHeld s slot t.held.length
    match (tfind s.threads slot).map (fun t => t.held) with
    | some (_ :: _) => s.parkOn (.thread slot) .held (match tfind s.threads slot with | some t => t.prog | none => .none)
    | _ => s

/-- tret (14 R350). -/
def tretBody (e : Env) : Res :=
  if e.th.csr.tepc.toNat % 4 ≠ 0 then .trap .misaligned e.th.csr.tepc (info142 0 15 false (bits e.th.csr.tepc.toNat 63 61))
  else
    let s := e.s.modTh e.ag (fun t => leaveTrap e.ag { t with instret := t.instret + 1, prevPc := some (t.pc.setWidth 16), pre := none })
    match e.ag with
    | .thread slot => .final (resumeHeld s slot)
    | .sextant _ _ => .final s

/-- tret (14 R350). -/
def execTret (st : State) : Outc := runIns st .tret { kOnly := true, items := [0x15C0, 0x15C2] } tretBody

/-- wfi (14 R351). -/
def execWfi (st : State) : Outc :=
  runIns st .wfi { kOnly := true } (fun e => if e.th.traps.isEmpty then .park .wfi e.th.prog e.s else doneS e.s)

/-- fence.i (14 R352). -/
def execFenceI (st : State) : Outc :=
  runIns st .fenceI {} (fun e =>
    if e.th.cnt.s ≠ 0 then .park (.drain false) e.th.prog e.s
    else doneS (e.s.modTh e.ag (fun t => { t with fenceI := e.s.nextId })).fresh)

/-! ### exbset, segset, watch (14 R353, R355, R360) -/

/-- exbset (14 R353). -/
def execExbset (a : BitVec 5) (st : State) : Outc :=
  runIns st (.exbset a) { srcs := [(1, a)], kOnly := true } (fun e =>
    if e.a.toNat > 256 then illegal e.i 10 0
    else doneS (e.s.modCore e.ag.core (fun c => { c with exb := e.a.toNat })))

/-- segset (14 R355). -/
def execSegset (g : BitVec 3) (a : BitVec 5) (st : State) : Outc :=
  runIns st (.segset g a) { srcs := [(1, a)], kOnly := true } (fun e => withImage e e.a 16 16 (fun s v =>
    let img := BitVec.ofNat 128 v
    if sgMalformed img then .trap .segForm e.a (info142 12 0 false (bits e.a.toNat 63 61))
    else doneS (s.modTh e.ag (fun t =>
      ({ t with sgs := if img = 0 then terase t.sgs g.toNat else tset t.sgs g.toNat img } : Thread).wrote (0x300 + g.toNat)))))

/-- watch (14 R360). -/
def execWatch (a b : BitVec 5) (st : State) : Outc :=
  runIns st (.watch a b) { srcs := [(1, a), (2, b)] } (fun e =>
    let c := e.a.toNat
    let span := bits c 11 8
    if bits c 63 12 ≠ 0 ∨ bits c 7 6 ≠ 0 ∨ bitAt c 2 ∨ span > 12 ∨ e.b.toNat % 2 ^ span ≠ 0 then illegal e.i 13 0
    else doneS (e.s.modTh e.ag (fun t => { t with watches := tset t.watches (c % 4) { ctl := e.a, ptr := e.b } })))

/-! ### Bank locks (14 R356-R359) -/

/-- A bank's lock. -/
def State.lock (s : State) (core b : Nat) : Lock := tget (s.core core).locks b {}
/-- The state with a bank's lock replaced. -/
def State.setLock (s : State) (core b : Nat) (l : Lock) : State := s.modCore core (fun c => { c with locks := tset c.locks b l })

/-- The lock limit in force (14 R342): at least 64 cycles. -/
def lockLimit (s : State) (core : Nat) : Nat := max 64 (s.core core).locklim.toNat

/-- Whether a request is an access of one of certain slots to a barrier block in a bank of a core (07 R194, R195). -/
def Req.onBank (core b : Nat) (who : Nat → Bool) : Req → Bool
  | .bar k _ _ a _ | .barinit k _ _ a _ _ => who k && spaceOf a == 1 && coreOf k == core && bankOf a == b
  | _ => false

/-- Whether an access of certain slots to a bank, numbered below n, is still to be performed: a full/empty access that its wait
list holds (06 R151) and an access to a barrier block among them (14 R356, R358). -/
def bankPending (s : State) (core b n : Nat) (who : Nat → Bool) : Bool :=
  s.net.any (fun p => p.1 < n && !p.2.done && spaceOf p.2.addr == 1 && p.2.core == core && bankOf p.2.addr == b && who p.2.agent.num) ||
    s.reqs.any (fun p => p.1 < n && p.2.onBank core b who)

/-- Whether another slot's block is in progress on a bank (14 R356). -/
def blockOn (s : State) (core b slot : Nat) : Bool :=
  match (s.core core).matQ with
  | op :: _ => op.slot != slot && tget (s.octet (octetOf core)).partialWork (placeOf core) 0 != 0 &&
      (stepTouch s core op).any (fun p => p.1 / 4096 ≤ b && b ≤ (p.1 + p.2 - 1) / 4096)
  | [] => false

/-- Whether a lock may be granted to a slot whose request has number n: no access or block of another slot is still to be
performed on the bank (14 R356). -/
def grantable (s : State) (core b slot n : Nat) : Bool := !bankPending s core b n (fun k => k != slot) && !blockOn s core b slot

/-- Grant a lock: its age is counted from now, and LOCK_TIMEOUT becomes due (14 R356, R359). -/
def grantLock (s : State) (core b slot : Nat) : State :=
  let l := s.lock core b
  (s.setLock core b { l with holder := some slot, since := s.now, releasing := none, waiters := l.waiters.filter (fun w => w.1 != slot) }).due
    (.lockTimeout core b)

/-- Release a lock; the next waiter's grant becomes due. -/
def releaseLock (s : State) (core b : Nat) : State :=
  (s.setLock core b { s.lock core b with holder := none, releasing := none }).dueOnce (.bankLockGrant core b)

/-- lockb (14 R356). -/
def lockbBody (e : Env) : Res :=
  let slot := e.ag.num
  let core := e.ag.core
  let b := e.a.toNat % 16
  let l := e.s.lock core b
  if e.a.toNat ≥ 16 then illegal e.i 12 0
  else if (List.range 16).any (fun k => k != b && (e.s.lock core k).holder == some slot && (e.s.lock core k).releasing.isNone) then illegal e.i 9 0
  else if l.holder = some slot ∧ l.releasing = none then doneS e.s
  else if l.waiters.any (fun w => w.1 == slot) then .park (.bank b) e.th.prog e.s
  else if l.holder = none ∧ l.waiters = [] ∧ grantable e.s core b slot e.s.nextId then doneS (grantLock e.s core b slot)
  else .park (.bank b) e.th.prog (((e.s.setLock core b { l with waiters := l.waiters ++ [(slot, e.s.nextId)] }).fresh).dueOnce (.bankLockGrant core b))

/-- lockb (14 R356). -/
def execLockb (a : BitVec 5) (st : State) : Outc := runIns st (.lockb a) { srcs := [(1, a)], kOnly := true } lockbBody

/-- unlockb (14 R358). -/
def unlockbBody (e : Env) : Res :=
  let slot := e.ag.num
  let core := e.ag.core
  let b := e.a.toNat % 16
  if e.a.toNat ≥ 16 then illegal e.i 12 0
  else if (e.s.lock core b).holder ≠ some slot ∨ (e.s.lock core b).releasing.isSome then doneS e.s
  else if bankPending e.s core b e.s.nextId (fun k => k == slot) then
    doneS (((e.s.setLock core b { e.s.lock core b with releasing := some e.s.nextId }).fresh).dueOnce (.bankLockGrant core b))
  else doneS (releaseLock e.s core b)

/-- unlockb (14 R358). -/
def execUnlockb (a : BitVec 5) (st : State) : Outc := runIns st (.unlockb a) { srcs := [(1, a)], kOnly := true } unlockbBody

/-- BANK_LOCK_GRANT: a release is completed, then the first waiter is granted the lock (14 R356, R358). -/
def doLockGrant (s : State) (core b : Nat) : State :=
  let l := s.lock core b
  match l.holder, l.releasing with
  | some h, some n => if bankPending s core b n (fun k => k == h) then again s (.bankLockGrant core b) else releaseLock s core b
  | some _, none => s
  | none, _ =>
    match l.waiters with
    | [] => s
    | (slot, n) :: _ => if grantable s core b slot n then grantLock s core b slot else again s (.bankLockGrant core b)

/-- BANK_LOCK_GRANT (14 R356). -/
def execBankLockGrant (s : State) : Outc :=
  match s.ev with
  | some (.bankLockGrant core b) => evDo (.bankLockGrant core b) (doLockGrant s core b)
  | _ => .fault .noSuchUnit

/-- LOCK_TIMEOUT: the lock is released and the trap raised in its holder (14 R359, R347). -/
def doLockTimeout (s : State) (core b : Nat) : State :=
  match (s.lock core b).holder with
  | none => s
  | some h =>
    let lim := lockLimit s core
    if s.now < (s.lock core b).since + lim then again s (.lockTimeout core b)
    else
      let m : Mark := { cause := .lockTimeout, tval := BitVec.ofNat 64 b, tinfo := BitVec.ofNat 64 lim }
      let tag := match tfind s.threads h with | some t => t.tag | none => 0
      (releaseLock s core b).raise (.thread h) tag { mark := m, seq := 0, isLock := true, journal := none }

/-- LOCK_TIMEOUT (14 R359). -/
def execLockTimeout (s : State) : Outc :=
  match s.ev with
  | some (.lockTimeout core b) => evDo (.lockTimeout core b) (doLockTimeout s core b)
  | _ => .fault .noSuchUnit

/-! ### rotw (14 R368, 05 R108) -/

/-- The positions that a table gives a slot, ascending. -/
def tablePositions (t : Tbl (BitVec 8)) (slot : Nat) : List Nat :=
  (List.range 64).filter (fun p =>
    let e := (tget t p (BitVec.ofNat 8 (128 + p))).toNat
    bitAt e 7 && bits e 5 0 == slot)

/-- Whether positions stand eight apart (05 R108). -/
def eightApart : List Nat → Bool
  | a :: b :: r => b == a + 8 && eightApart (b :: r)
  | _ => true

/-- The lowest slot whose positions break 05 R108. -/
def tableBad (t : Tbl (BitVec 8)) : Option Nat := (List.range 64).find? (fun k => !eightApart (tablePositions t k))

/-- The attributes of a slot, of its thread or kept for an empty one (05 R107). -/
def setAttr (s : State) (core k : Nat) (hold elastic : Bool) : State :=
  let slot := core * 64 + k
  match tfind s.threads slot with
  | some _ => s.modSlot slot (fun t => { t with hold := hold, elastic := elastic })
  | none =>
    let a := BitVec.ofNat 2 (hold.toNat * 2 + elastic.toNat)
    s.modCore core (fun c => { c with attr := if a = 0 then terase c.attr k else tset c.attr k a })

/-- rotw (14 R368): the operation stands in xs1[63:62]. -/
def rotwBody (e : Env) : Res :=
  let core := e.ag.core
  let x := e.a.toNat
  let y := e.b.toNat
  match bits x 63 62 with
  | 0 =>
    let byte := fun (k : Nat) => bits y (8 * k + 7) (8 * k)
    if bits x 61 3 ≠ 0 ∨ (List.range 8).any (fun k => bitAt (byte k) 6) then illegal e.i 12 0
    else doneS (e.s.modCore core (fun c => { c with shadow := (List.range 8).foldl (fun t k =>
      let p := 8 * (x % 8) + k
      if byte k = 128 + p then terase t p else tset t p (BitVec.ofNat 8 (byte k))) c.shadow }))
  | 1 =>
    if bits x 61 6 ≠ 0 ∨ bits y 63 2 ≠ 0 then illegal e.i 12 0
    else doneS (setAttr e.s core (bits x 5 0) (bitAt y 1) (bitAt y 0))
  | 2 =>
    if bits x 61 0 ≠ 0 ∨ y ≠ 0 then illegal e.i 12 0
    else match tableBad (e.s.core core).shadow with
      | some k => illegal e.i 11 k
      | none => doneS (e.s.modCore core (fun c => { c with commit := some c.shadow }))
  | _ =>
    if bits x 61 0 ≠ 0 ∨ y ≠ 0 then illegal e.i 12 0
    else doneS (e.s.modCore core (fun c => { c with shadow := c.rot }))

/-- rotw, operation 0 (14 R368). -/
def execRotwWriteShadow (a b : BitVec 5) (st : State) : Outc :=
  runIns st (.rotwWriteShadow a b) { srcs := [(1, a), (2, b)], kOnly := true } rotwBody
/-- rotw, operation 1 (14 R368). -/
def execRotwWriteAttributes (a b : BitVec 5) (st : State) : Outc :=
  runIns st (.rotwWriteAttributes a b) { srcs := [(1, a), (2, b)], kOnly := true } rotwBody
/-- rotw, operation 2 (14 R368). -/
def execRotwCommit (a b : BitVec 5) (st : State) : Outc :=
  runIns st (.rotwCommit a b) { srcs := [(1, a), (2, b)], kOnly := true } rotwBody
/-- rotw, operation 3 (14 R368). -/
def execRotwCopy (a b : BitVec 5) (st : State) : Outc :=
  runIns st (.rotwCopy a b) { srcs := [(1, a), (2, b)], kOnly := true } rotwBody

end Sys2Proof.Machine
end

