-- ==== Sys2Proof/Machine/Context.lean ====
section
/-!
DEFINITION. Context: pre-emption (14 R365-R367): ctxout and ctxin, and the rows of their requests.
-/
namespace Sys2Proof.Machine

/-! ### Stopping a thread's operations (10 R248, 12 R318) -/

/-- A block in progress of a slot on its core's matrix queue finishes: its remaining entries, at most n. -/
def finishBlock (s : State) (core slot : Nat) : Nat → State
  | 0 => s
  | n + 1 =>
    match (s.core core).matQ with
    | [] => s
    | op :: _ =>
      if op.slot = slot ∧ tget (s.octet (octetOf core)).partialWork (placeOf core) 0 ≠ 0 then
        finishBlock (runEntry s (octetOf core) (placeOf core)) core slot n
      else s

/-- Every queued operation of a thread is held, in issue order. -/
def stopAll (s : State) (slot tag : Nat) : State :=
  let core := coreOf slot
  let s := finishBlock s core slot 64
  let l := sortBy (fun a b => a.id ≤ b.id) ((s.core core).ops.filter (fun o => o.tag == tag && o.slot == slot))
  (dropOps s core (l.map (fun o => o.id))).modSlot slot (fun t => holdOps t l)

/-! ### Frames (14 R365) -/

/-- The lowest free frame at or above n of a table in rising order. -/
def lowFrame : Tbl Frame → Nat → Nat
  | [], n => n
  | (k, f) :: r, n => if k = n ∧ f.saved.isSome then lowFrame r (n + 1) else if k < n then lowFrame r n else n

/-- A free frame for a thread of a cluster: without a context region only the caches hold frames (19 R471). -/
def freeFrame (s : State) (die cluster : Nat) : Option Nat :=
  let n := lowFrame (s.die die).frames 0
  if n ≥ 65536 ∨ (¬ bitAt (s.die die).plat.ctxbase.toNat 0 ∧ (s.cluster cluster).ctxCache.length ≥ 256) then none else some n

/-- The progress that a saved context keeps: a request that has been made and is not withdrawn, or its answer. -/
def savedProg (g : Prog) : Prog :=
  match g with
  | .asked _ | .served _ _ | .refused _ | .denied _ _ | .released => g
  | _ => .none

/-- The thread as its frame holds it: its reservation lost, its refusals recorded in it, RELEASED entries as they are
(05 R121; 08 R202; 14 R366). -/
def savedThread (t : Thread) : Thread :=
  { t with park := none, prog := savedProg t.prog, resv := none, lrPend := none,
           traps := t.traps.map (fun x => { x with journal := none }) }

/-- Save a slot's thread into a frame; the slot becomes empty (14 R366). -/
def saveThread (s : State) (slot tag n owner : Nat) : State :=
  let die := dieOf (coreOf slot)
  let s := (stopAll s slot tag).withdraw (.thread slot)
  match tfind s.threads slot with
  | none => s
  | some t =>
    let s := t.traps.foldl (fun s x => match x.journal with | some k => freeEntry s (coreOf slot) k | none => s) s
    let s := s.modDie die (fun d => { d with frames := tset d.frames n { tget d.frames n {} with owner := owner, saved := some (savedThread t), slot := slot } })
    let s := s.modCluster (clusterOf (coreOf slot)) (fun c => { c with ctxCache := (n :: c.ctxCache).take 256 })
    emptySlot s slot

/-- A frame becomes free: its generation moves on. -/
def freeFrameNo (s : State) (die n : Nat) : State :=
  let s := s.modDie die (fun d => { d with frames := tset d.frames n { gen := (tget d.frames n {}).gen + 1 } })
  { s with clusters := s.clusters.map (fun p => (p.1, if p.1 / 200 = die then { p.2 with ctxCache := p.2.ctxCache.filter (fun k => k != n) } else p.2)) }

/-! ### ctxout (14 R366) -/

/-- A marked entry of the issuer traps first (06 R164). -/
def markedTrap (e : Env) : Option Res :=
  (markedEntry e.th).map (fun p => .final (trapSync (e.s.setTh e.ag (e.th.setEnt p.1 { st := .released })) e.ag p.2.cause p.2.tval p.2.tinfo))

/-- ctxout: the request travels to the target slot's core (14 R366). -/
def ctxoutBody (e : Env) : Res :=
  let w := e.a.toNat
  match e.ag, markedTrap e with
  | .sextant _ _, _ => doneS e.s
  | _, some r => r
  | .thread slot, none =>
    if bits w 63 29 ≠ 0 ∨ bits w 15 14 ≠ 0 ∨ bits w 7 6 ≠ 0 then illegal e.i 12 0
    else
      let id := e.s.nextId
      let target := (slotOfCoord w).getD 26214400
      let s := { e.s with reqs := tset e.s.reqs id (.ctxout e.rd slot target (e.s.ownerOf (coreOf slot))) }.fresh
      .ok { s := s.due (.ctxoutRequestArrival id), dst := .pend id }

/-- ctxout (14 R366). -/
def execCtxout (d a : BitVec 5) (st : State) : Outc :=
  runIns st (.ctxout d a) { dst := some d, srcs := [(1, a)], kOnly := true } ctxoutBody

/-- The answer of ctxout at its target (14 R366). -/
def ctxoutAt (s : State) (from_ target owner : Nat) : BitVec 64 × State :=
  let core := coreOf target
  let die := dieOf (coreOf from_)
  match tfind s.threads target with
  | none => (statusWord (-1), s)
  | some t =>
    if target = from_ then (statusWord (-2), s)
    else if dieOf core ≠ die ∨ s.fenced (s.partOf (dieOf core)) = true ∨ (owner ≠ 0 ∧ s.ownerOf core ≠ owner) then (statusWord (-3), s)
    else match freeFrame s die (clusterOf core) with
    | none => (statusWord (-4), s)
    | some n =>
      (BitVec.ofNat 64 ((tget (s.die die).frames n {}).gen.toNat * 65536 + n), saveThread s target t.tag n (s.ownerOf core))

/-- CTXOUT_REQUEST_ARRIVAL (14 R366). -/
def doCtxout (s : State) (id : Nat) : State :=
  match tfind s.reqs id with
  | some (.ctxout dst from_ target owner) =>
    let p := ctxoutAt { s with reqs := terase s.reqs id } from_ target owner
    answerValue p.2 id dst p.1 false
  | _ => s

/-- CTXOUT_REQUEST_ARRIVAL (14 R366). -/
def execCtxoutRequestArrival (s : State) : Outc :=
  match s.ev with
  | some (.ctxoutRequestArrival id) => evDo (.ctxoutRequestArrival id) (doCtxout s id)
  | _ => .fault .noSuchUnit

/-! ### ctxin (14 R367) -/

/-- The context that a handle names, for an owner (14 R367). -/
def frameOf (s : State) (die xs owner : Nat) : Option (Nat × Frame × Thread) :=
  let n := bits xs 15 0
  let f := tget (s.die die).frames n {}
  match f.saved with
  | some t => if f.gen.toNat = bits xs 31 16 ∧ f.owner = owner then some (n, f, t) else none
  | none => none

/-- Whether a context's thread belongs to a pipelined launch, its own or its creator's (15 R369, R385). -/
def pipelined (s : State) (t : Thread) : Bool :=
  (match tfind s.launches t.launch with | some l => l.kind == 0 && l.record.depth > 1 | none => false)

/-- The target core of ctxin, if it may take the context (14 R367, 15 R385). -/
def ctxinTarget (s : State) (die xs owner : Nat) (f : Frame) (t : Thread) : Option Nat :=
  match coreOfCoord (bits xs 60 32) with
  | none => none
  | some c => if dieOf c = die ∧ targetOk s c owner ∧ (!pipelined s t || c == coreOf f.slot) then some c else none

/-- Whether a context's L, S or C is not 0 (14 R367). -/
def frameBusy (t : Thread) : Bool := t.cnt.l != 0 || t.cnt.s != 0 || t.cnt.c != 0

/-- ctxin: parks until the context's counters are 0, then the request travels (14 R367). -/
def ctxinBody (e : Env) : Res :=
  let xs := e.a.toNat
  let die := e.ag.die
  match e.ag with
  | .sextant _ _ => doneS e.s
  | .thread slot =>
    let owner := e.s.ownerOf (coreOf slot)
    if bits xs 62 61 ≠ 0 then illegal e.i 12 0
    else
      let wait := match frameOf e.s die xs owner with
        | some (n, f, t) => if (ctxinTarget e.s die xs owner f t).isSome ∧ frameBusy t then some n else none
        | none => none
      match wait with
      | some n => .park (.frame n) e.th.prog e.s
      | none =>
        let id := e.s.nextId
        .ok { s := ({ e.s with reqs := tset e.s.reqs id (.ctxin e.rd slot e.a owner) }.fresh).due (.ctxinRequestArrival id), dst := .pend id }

/-- ctxin that restores (14 R367). -/
def execCtxinRestore (d a : BitVec 5) (st : State) : Outc :=
  runIns st (.ctxinRestore d a) { dst := some d, srcs := [(1, a)], kOnly := true } ctxinBody
/-- ctxin that discards (14 R367). -/
def execCtxinDiscard (d a : BitVec 5) (st : State) : Outc :=
  runIns st (.ctxinDiscard d a) { dst := some d, srcs := [(1, a)], kOnly := true } ctxinBody

/-- The thread that a context becomes in a slot: every item of R367, the mask by 07 R185.  It holds no word fetched ahead
(DEDUCED, log 97), and is not parked: a bar with its record waits again at its reissue (07 R195). -/
def restored (s : State) (core tb : Nat) (t : Thread) : Thread :=
  { t with tb := tb, park := none, fenceI := s.nextId, touched := BitVec.ofNat 128 (2 ^ 101 - 1), hold := false, wakePos := (s.core core).pos }

/-- Restore a context into a slot of a core: the held list is reissued, the sequencer goes on (14 R367, 12 R322). -/
def restoreAt (s0 : State) (core k tb die n : Nat) (t : Thread) : State :=
  let s := catchUp s0 core
  let slot := core * 64 + k
  let s := { s with threads := tset s.threads slot (restored s core tb t) }.fresh
  let s := s.modCore core (fun c => { c with attr := terase c.attr k })
  let s := resumeHeld (freeFrameNo s die n) slot
  if t.seqr.busy then s.dueOnce (.rptReissue slot) else s

/-- A discarded context: its thread ends as by quit (14 R367, 05 R135). -/
def discardFrame (s : State) (die n : Nat) (t : Thread) : State := launchEnd (groupEnd (freeFrameNo s die n) t.group) t.launch

/-- The answer of ctxin at its target (14 R367): none while the context's counters are not 0. -/
def ctxinAt (s : State) (from_ xs owner : Nat) : Option (BitVec 64 × State) :=
  let die := dieOf (coreOf from_)
  match frameOf s die xs owner with
  | none => some (statusWord (-4), s)
  | some (n, f, t) =>
    match ctxinTarget s die xs owner f t with
    | none => some (statusWord (-3), s)
    | some c =>
      if frameBusy t then none
      else if bitAt xs 63 then some (0, discardFrame s die n t)
      else match openSlots s c t.elastic with
      | [] => some (statusWord (-1), s)
      | k :: _ =>
        match lowBlock (heldBlocks s c) t.tlim with
        | none => some (statusWord (-2), s)
        | some tb =>
          if (pmapRefusal s (c * 64 + k) t t.pmap.toNat).isSome then some (statusWord (-5), s)
          else some (BitVec.ofNat 64 k, restoreAt s c k tb die n t)

/-- CTXIN_REQUEST_ARRIVAL (14 R367). -/
def doCtxin (s : State) (id : Nat) : State :=
  match tfind s.reqs id with
  | some (.ctxin dst from_ xs owner) =>
    match ctxinAt { s with reqs := terase s.reqs id } from_ xs.toNat owner with
    | none => again s (.ctxinRequestArrival id)
    | some (v, s) => answerValue s id dst v false
  | _ => s

/-- CTXIN_REQUEST_ARRIVAL (14 R367). -/
def execCtxinRequestArrival (s : State) : Outc :=
  match s.ev with
  | some (.ctxinRequestArrival id) => evDo (.ctxinRequestArrival id) (doCtxin s id)
  | _ => .fault .noSuchUnit

end Sys2Proof.Machine
end

