-- ==== Sys2Proof/Machine/Owner.lean ====
section
/-!
DEFINITION. Owner: the instructions of the owner class (17 R432-R438): seeds, draws, placement, the stated bound and the
shares; reseeding and the sweepers of the die cache (17 R429-R431).
-/
namespace Sys2Proof.Machine

/-! ### Answers -/

/-- The answer of an owner instruction: xd is PENDING and counts on L until it is written (17 R432). -/
def ownerAnswer (e : Env) (s : State) (v : BitVec 64) : Res :=
  if e.th.cnt.l ≥ 63 then .park (.counterFull 0) e.th.prog s
  else
    let id := s.nextId
    let s := s.modTh e.ag (fun t => { t with cnt := { t.cnt with l := t.cnt.l + 1 } })
    .ok { s := answerValue s.fresh id e.rd v true, dst := .pend id }

/-- The issuing core's owner (17 R432). -/
def Env.owner (e : Env) : Nat := e.s.agentOwner e.ag

/-- The owner-table entry of the issuing owner on the issuing die. -/
def Env.ownEnt (e : Env) : OwnerEnt := e.s.ownerEnt e.ag.die e.owner

/-! ### oseed, odraw, oshare (17 R433, R435, R438) -/

/-- What oseed writes (17 R433). -/
def seedWord (o : OwnerEnt) : BitVec 64 :=
  BitVec.ofNat 64 (o.gen.toNat * 2 ^ 48 + o.sweep.toNat * 2 ^ 47 + bits (drawOf o.seed 0xFFFFFF 0).toNat 46 0)

/-- oseed (17 R433). -/
def execOseed (d : BitVec 5) (st : State) : Outc :=
  runIns st (.oseed d) { dst := some d } (fun e => ownerAnswer e e.s (seedWord e.ownEnt))

/-- odraw (17 R435). -/
def odrawBody (e : Env) : Res :=
  if e.a.toNat ≥ 2 ^ 20 then illegal e.i 15 1
  else if e.b.toNat ≥ 2 ^ 40 then illegal e.i 15 2
  else ownerAnswer e e.s (drawOf e.ownEnt.seed e.a.toNat e.b.toNat)

/-- odraw (17 R435). -/
def execOdraw (d a b : BitVec 5) (st : State) : Outc :=
  runIns st (.odraw d a b) { dst := some d, srcs := [(1, a), (2, b)] } odrawBody

/-- What oshare writes for a class (17 R438). -/
def shareWord (s : State) (die o cls : Nat) : BitVec 64 :=
  let e := s.ownerEnt die o
  BitVec.ofNat 64 (e.floor * 2 ^ 48 + s.shareSum die cls * 2 ^ 32 + bits (s.startOf die cls o) 10 0 * 2 ^ 16 + tget e.shares cls 0)

/-- oshare (17 R438). -/
def oshareBody (e : Env) : Res :=
  if e.a.toNat ≥ 8 then illegal e.i 15 1 else ownerAnswer e e.s (shareWord e.s e.ag.die e.owner e.a.toNat)

/-- oshare (17 R438). -/
def execOshare (d a : BitVec 5) (st : State) : Outc :=
  runIns st (.oshare d a) { dst := some d, srcs := [(1, a)] } oshareBody

/-! ### oplace (17 R436) -/

/-- Whether oplace accepts a structure S in a mode (17 R436). -/
def placeOk (mode st : Nat) : Bool :=
  match mode with
  | 0 => st == 0 || st == 1 || st == 3
  | 2 | 3 => st ≤ 3
  | 1 | 4 | 5 | 6 => st == 0
  | _ => false

/-- The needs of oplace's pointer: right R and no right of the leaf (17 R436). -/
def specPlace : AccSpec := { size := 1, align := 1, r := true, kinds := [3, 4], acc := 13, xacc := 0 }

/-- The key that places a pointer's line or page in a structure; the walk cache is always placed by the owner's
(17 R420, R421). -/
def placeKeyOf (e : Env) (x : Target) (st : Nat) : Nat :=
  if st = 2 then e.owner else placeKey e.s x.place e.owner (e.s.partOf e.ag.die) x.shared

/-- The die whose seeds place it: the line's home for structure 0. -/
def placeDie (e : Env) (x : Target) (st : Nat) : Nat := if st = 0 then homeDie x.place else e.ag.die

/-- The seed that places a pointer's line or page. -/
def placeSeed (e : Env) (x : Target) (st : Nat) : BitVec 64 := e.s.keySeed (placeDie e x st) (placeKeyOf e x st)

/-- Whether the page of a DEVICE target is a 256 MiB page: its translation has just been used (09 R223, R225). -/
def bigPage (s : State) (a : Agent) (va : Nat) : Bool :=
  match firstLevel s (clusterOf a.core) (s.agentOwner a) va with
  | some t => t.big
  | none => false

/-- Set under the key in force (17 R436, mode 0). -/
def placeNow (e : Env) (s : State) (x : Target) (st : Nat) : Nat :=
  let k := placeSeed e x st
  match st with
  | 0 => lineSet k (lineNo x.place)
  | 1 => placeSet k 1 (if bigPage s e.ag x.a then bits x.a 51 28 else bits x.a 51 16) 10
  | _ => placeSet k 3 (bits x.a 51 16) 3 + placeSet k 3 (bits x.a 51 16) 1 * 256

/-- Set under the retiring key, or −1 (17 R436, mode 6). -/
def placeRetiring (e : Env) (x : Target) : Nat :=
  let o := e.s.ownerEnt (homeDie x.place) e.owner
  if !o.sweep || placeKeyOf e x 0 != e.owner then 2 ^ 64 - 1 else lineSet o.retiring (lineNo x.place)

/-- What oplace writes in every mode but 5. -/
def placeVal (e : Env) (s : State) (x : Target) (mode st : Nat) : Nat :=
  match mode with
  | 0 => placeNow e s x st
  | 1 => homeSlice x.place
  | 2 => keyA (placeSeed e x st) st
  | 3 => keyB (placeSeed e x st) st
  | 4 => lineNo x.place
  | _ => placeRetiring e x

/-- The query of the line that a pointer names: it waits for the thread's earlier accesses to the 256-byte line
(17 R436, mode 5). -/
def sendQuery (e : Env) (s : State) (x : Target) : Res :=
  if e.th.cnt.l ≥ 63 then .park (.counterFull 0) e.th.prog s
  else
    let s := s.modTh e.ag (fun t => { t with cnt := { t.cnt with l := t.cnt.l + 1 } })
    let q := mkAccess e { x with place := x.place / 256 * 256 } .lineQuery 256 0
    .ok { s := sendAccess s { q with dst := some e.rd }, dst := .pend s.nextId }

/-- oplace (17 R436). -/
def oplaceBody (e : Env) : Res :=
  let w := e.b.toNat
  let st := bits w 15 0
  let mode := bits w 19 16
  if w ≥ 2 ^ 20 ∨ placeOk mode st = false then illegal e.i 15 2
  else match reach e specPlace e.a with
  | .stop r => r
  | .ok s x =>
    if x.kind = 4 ∧ (st = 1 ∨ st = 3) then illegal e.i 15 2
    else if mode = 5 then sendQuery e s x
    else ownerAnswer e s (BitVec.ofNat 64 (placeVal e s x mode st))

/-- oplace (17 R436). -/
def execOplace (d a b : BitVec 5) (st : State) : Outc :=
  runIns st (.oplace d a b) { dst := some d, srcs := [(1, a), (2, b)] } oplaceBody

/-! ### oxq (17 R427, R437) -/

/-- The binomial coefficient C(n, i). -/
def choose (n : Nat) : Nat → Nat
  | 0 => 1
  | i + 1 => choose n i * (n - i) / (i + 1)

/-- The sum of 17 R427 for k points of share n / 1,024 and m rounds, times 1,024^(m + k − 1). -/
def boundSum (n m k : Nat) : Nat :=
  ((List.range k).map (fun i => choose (m + k - 1) i * n ^ i * (1024 - n) ^ (m + k - 1 - i))).sum

/-- Ceil(P × 2^16) of the bound of 17 R427 for k points of a class with a share, and a wait of d cycles (17 R437). -/
def boundWord (cls share k d : Nat) : Nat := ceilDiv (boundSum share (d / tau cls) k * 2 ^ 16) (1024 ^ (d / tau cls + k - 1))

/-- oxq (17 R437). -/
def oxqBody (e : Env) : Res :=
  let w := e.a.toNat
  let o := e.ownEnt
  let cls := bits w 2 0
  if bitAt w 3 ∨ bits w 15 10 ≠ 0 ∨ w ≥ 2 ^ 20 ∨ cls = 7 ∨ bits w 9 8 = 3 then illegal e.i 15 1
  else match bits w 9 8 with
  | 0 => ownerAnswer e e.s (BitVec.ofNat 64 (boundWord cls (tget o.shares cls 0) (bits w 7 4 + 1) e.b.toNat))
  | 1 => ownerAnswer e e.s (BitVec.ofNat 64 (tget o.exE (bits w 19 16) 0))
  | _ => ownerAnswer e e.s (BitVec.ofNat 64 o.exN)

/-- oxq (17 R437). -/
def execOxq (d a b : BitVec 5) (st : State) : Outc :=
  runIns st (.oxq d a b) { dst := some d, srcs := [(1, a), (2, b)] } oxqBody

/-! ### Reseeding (17 R429, R434) -/

/-- Whether a sweep of an owner is in progress on some die of a partition. -/
def sweeping (s : State) (part o : Nat) : Bool := (s.diesOf part).any (fun d => (s.ownerEnt d o).sweep)

/-- A reseed on one die (17 R429): the owner's translations leave the second-level TLB and the walk caches. -/
def reseedDie (o : Nat) (seed : BitVec 64) (s : State) (d : Nat) : State :=
  let s := s.modOwner d o (fun e => { e with retiring := e.seed, seed := seed, gen := e.gen + 1, sweep := true, epoch := !e.epoch, sweepAt := [] })
  let s := s.modXlat d (fun x => { x with
    tlb2 := tmap x.tlb2 (fun l => l.filter (fun (t : TlbEnt) => t.owner != o)),
    walkCache := tmap x.walkCache (fun l => l.filter (fun (w : WalkEnt) => w.owner != o)) })
  s.dues ((List.range 64).map (fun j => Event.sweeperVisit d j o))

/-- A reseed on every die of a partition (17 R429). -/
def reseed (s : State) (part o : Nat) (seed : BitVec 64) : State := (s.diesOf part).foldl (reseedDie o seed) s

/-- The seed of a reseed: the one given, or a nonzero one from the entropy source for 0 (17 R429). -/
def seedFor (s : State) (given : BitVec 64) : BitVec 64 :=
  if given ≠ 0 then given else if Config.entropy s.tick = 0 then 1 else Config.entropy s.tick

/-- oreseed: it parks while a sweep of the owner is in progress (17 R434). -/
def oreeseedBody (e : Env) : Res :=
  let part := e.s.partOf e.ag.die
  if sweeping e.s part e.owner then .park .sweep e.th.prog e.s
  else if e.th.cnt.l ≥ 63 then .park (.counterFull 0) e.th.prog e.s
  else
    let s := (reseed e.s part e.owner (seedFor e.s e.a)).tock
    ownerAnswer e s ((s.ownerEnt e.ag.die e.owner).gen.setWidth 64)

/-- oreseed (17 R434). -/
def execOreeseed (d a : BitVec 5) (st : State) : Outc :=
  runIns st (.oreeseed d a) { dst := some d, srcs := [(1, a)], kOnly := true } oreeseedBody

/-! ### The sweepers (17 R430, R431) -/

/-- The retiring line of an owner in a way of a set of a slice, if there is one. -/
def retiringAt (s : State) (die slice o set way : Nat) : Option Line :=
  (s.die die).lines.find? (fun x => x.slice == slice && x.set == set && x.way == way && x.key == o && isRetiring s die x)

/-- The sets of a slice that hold retiring lines of an owner, ascending. -/
def retiringSets (s : State) (die slice o : Nat) : List Nat :=
  (List.range 256).filter (fun n => (List.range 16).any (fun w => (retiringAt s die slice o n w).isSome))

/-- The sweeper's visit to a set: each retiring line that the set then holds moves, way by way; one that an engine owns
waits (17 R430, R431). -/
def visitSet (slice o : Nat) (s : State) (die n : Nat) : State :=
  (List.range 16).foldl (fun s w => match retiringAt s die slice o n w with | some x => relocate s die x | none => s) s

/-- The next set that a slice's sweeper visits; 256 when it has visited all, 257 when its sweep has ended. -/
def sweepNext (s : State) (die slice o : Nat) : Nat := tget (s.ownerEnt die o).sweepAt slice 0

/-- The sweeper moves on. -/
def sweepSet (s : State) (die slice o n : Nat) : State :=
  s.modOwner die o (fun e => { e with sweepAt := tset e.sweepAt slice n })

/-- The sweep of an owner ends once every slice of every die of the partition has ended (17 R430). -/
def sweepEnd (s : State) (part o : Nat) : State :=
  if (s.diesOf part).all (fun d => (List.range 64).all (fun j => sweepNext s d j o == 257)) then
    (s.diesOf part).foldl (fun s d => s.modOwner d o (fun e => { e with sweep := false, retiring := 0, sweepAt := [] })) s
  else s

/-- SWEEPER_VISIT: one set, then the next; at the end it returns to the lines that engines held (17 R430, R431). -/
def doSweeperVisit (s : State) (die slice o : Nat) : State :=
  let n := sweepNext s die slice o
  if !(s.ownerEnt die o).sweep ∨ n ≥ 257 then s
  else if n < 256 then
    again (sweepSet (visitSet slice o s die n) die slice o (n + 1))
      (.sweeperVisit die slice o)
  else
    let s := (retiringSets s die slice o).foldl (fun s n => visitSet slice o s die n) s
    if (retiringSets s die slice o).isEmpty then sweepEnd (sweepSet s die slice o 257) (s.partOf die) o
    else again s (.sweeperVisit die slice o)

/-- SWEEPER_VISIT (17 R430). -/
def execSweeperVisit (s : State) : Outc :=
  match s.ev with
  | some (.sweeperVisit die slice o) => evDo (.sweeperVisit die slice o) (doSweeperVisit s die slice o)
  | _ => .fault .noSuchUnit

end Sys2Proof.Machine
end

