-- ==== Sys2Proof/Machine/Tasks.lean ====
section
/-!
DEFINITION. Tasks: launches and their placement (15 R369-R379), lnch, gspawn and tnext (15 R389-R391), messages (15 R383,
R384, R396), phases (15 R385, R386, R397) and bounded waits (15 R387, R388, R398, R399), with their event rows.
-/
namespace Sys2Proof.Machine

/-! ### Records (15 R372, R373) -/

/-- The segment images that a record names, read through the reader's segments: 0 for a null one (15 R373). -/
def readSegs (e : Env) (slot : Nat) (s : State) (given : BitVec 64) : List (BitVec 64) → Except Res (State × List (BitVec 128))
  | [] => .ok (s, [])
  | p :: r =>
    match (if p = 0 then .ok (s, [0, 0]) else readAny e slot s p given 1) with
    | .error x => .error x
    | .ok (s, ws) =>
      match readSegs e slot s given r with
      | .error x => .error x
      | .ok (s, l) => .ok (s, BitVec.ofNat 128 (ws.getD 0 0 + ws.getD 1 0 * 2 ^ 64) :: l)

/-- Read a launch record with its segment images and continue (15 R373, R389). -/
def withRecord (e : Env) (slot : Nat) (ea : BitVec 64) (k : State → LRec → Res) : Res :=
  match readAny e slot e.s ea ea 6 with
  | .error r => r
  | .ok (s, ws) =>
    let dw := ws.map (BitVec.ofNat 64)
    match readSegs e slot s ea (dw.drop 5) with
    | .error r => r
    | .ok (s, segs) => k s { dw := dw, segs := segs, owner := e.s.ownerOf (coreOf slot) }

/-! ### Launches (15 R369-R379) -/

/-- The waiting launches of a die's launch unit (15 R378). -/
def waitingAtDie (s : State) (die : Nat) : Nat := (s.launches.filter (fun p => p.2.waiting && p.2.home == die)).length

/-- The home die of a launch that a die accepts (15 R377). -/
def homeOf (r : LRec) (die : Nat) : Nat := if r.elastic then die else dieOf (r.origin.getD 0)

/-- Accept a launch into the ready queues of its home die (15 R378). -/
def enterLaunch (s : State) (r : LRec) (home : Nat) (packet : Option (Nat × Nat × Nat)) : State :=
  let id := s.nextId
  let l : Launch := { record := r, home := home, kind := r.elastic.toNat, entered := s.now, level := r.prio, packet := packet }
  let cores := if r.elastic then [home * 12800] else (List.range r.cores).map (fun n => r.origin.getD 0 + n)
  (({ s with launches := tset s.launches id l }.fresh).dues (cores.map (Event.launchPlacement id))).due (.launchAgeing id)

/-- The answer to a record that a die's launch unit is given (15 R389): 0, −1, −2 or −3, and the state after it; after a
thermal trip, and in a partition in reset or retired, the unit has no room for any (20 R485; 18 R450, R454; log 28). -/
def submit (s : State) (r : LRec) (die : Nat) (packet : Option (Nat × Nat × Nat)) : Int × State :=
  if r.malformed then (-2, s)
  else if !coresOk s r (s.partOf die) then (-3, s)
  else if (s.part (s.partOf die)).thermalHold || s.fenced (s.partOf die) then (-1, s)
  else if waitingAtDie s (homeOf r die) ≥ 1024 then (-1, s)
  else (0, enterLaunch s r (homeOf r die) packet)

/-- lnch (15 R389): a release at .part at its issue (15 R379), then its record and the launch unit's answer. -/
def lnchBody (e : Env) : Res :=
  match e.ag with
  | .sextant _ _ => doneS e.s
  | .thread slot =>
    match ptrCheck e.s slot e.th { specPiece with size := 96 } e.a with
    | .error (c, v, i) => .trap c v i
    | .ok _ =>
      releasing e 4 (withRecord e slot e.a (fun s r =>
        let id := s.nextId
        let (v, s) := submit s.fresh r e.ag.die none
        .ok { s := answerValue s id e.rd (statusWord v) false, dst := .pend id }))

/-- lnch (15 R389). -/
def execLnch (d a : BitVec 5) (st : State) : Outc := runIns st (.lnch d a) { dst := some d, srcs := [(1, a)] } lnchBody

/-- Whether a launch still waits for a core: one of a deterministic launch's that is not placed, or any that an elastic
one may draw (15 R378). -/
def waitsFor (s : State) (l : Launch) (core : Nat) : Bool :=
  l.waiting && !l.placed.contains core && (l.kind = 0 || l.claim < l.record.lcount) &&
    (if l.kind = 0 then
       (match l.record.origin with
        | some o => o ≤ core && core < o + l.record.cores
        | none => false)
     else dieOf core == l.home && s.ownerOf core == l.record.owner)

/-- What orders waiting launches and invocation heads: level, the cycle of entry, a number (15 R378, 16 R409). -/
structure Rank where
  level : Nat
  entered : Nat
  no : Nat

/-- A higher level stands before, then the older, then the lower number (15 R378). -/
def Rank.before (p q : Rank) : Bool :=
  p.level > q.level || (p.level == q.level && (p.entered < q.entered || (p.entered == q.entered && p.no < q.no)))

/-- The level of a waiting launch by now: PRIO plus one for each whole 64 µs of waiting, at most 3 (15 R378). -/
def Launch.levelNow (s : State) (l : Launch) : Nat := max l.level (min 3 (l.record.prio + (s.now - l.entered) / 256000))

/-- The rank of a launch. -/
def Launch.rank (s : State) (l : Launch) (id : Nat) : Rank := { level := l.levelNow s, entered := l.entered, no := id }

/-- Field of a handler entry (16 R406). -/
def State.handler (s : State) (part h : Nat) : Nat := (tget (s.part part).handlers h 0).toNat
/-- PRIO of an invocation record (16 R402). -/
def InvRec.prio (r : InvRec) : Nat := bbits r.hdr 65 64
/-- HANDLER of an invocation record. -/
def InvRec.handler (r : InvRec) : Nat := bbits r.hdr 63 52
/-- ANY of an invocation record. -/
def InvRec.any (r : InvRec) : Bool := bbits r.hdr 40 40 == 1
/-- The hinted core of an invocation record on a die, if its CLUSTER is one of the die's. -/
def InvRec.hint (r : InvRec) (die : Nat) : Option Nat :=
  if bbits r.hdr 39 32 < 200 then some ((die * 200 + bbits r.hdr 39 32) * 64 + bbits r.hdr 31 26) else none

/-- The rank of a queue's head: it ages as a launch does; at equal age a launch goes first (16 R409, DEDUCED log 19). -/
def InvRec.rank (s : State) (r : InvRec) (q : Nat) : Rank :=
  { level := min 3 (r.prio + (s.now - r.since) / 256000), entered := r.since, no := 2 ^ 64 + q }

/-- Whether an invocation record waits for a core of its die (16 R409). -/
def InvRec.waitsFor (s : State) (die : Nat) (r : InvRec) (core : Nat) : Bool :=
  dieOf core == die && bits (s.handler (s.partOf die) r.handler) 43 32 == s.ownerOf core && (r.any || r.hint die == some core)

/-- The heads of a die's invocation queues. -/
def invHeads (s : State) (die : Nat) : List (Nat × InvRec) :=
  (s.die die).inv.queues.filterMap (fun p => p.2.head?.map (fun r => (p.1, r)))

/-- Whether something of an earlier rank waits for a core (15 R378, 16 R409). -/
def heldBack (s : State) (k : Rank) (core : Nat) : Bool :=
  s.launches.any (fun p => waitsFor s p.2 core && (p.2.rank s p.1).before k) ||
    (invHeads s (dieOf core)).any (fun p => p.2.waitsFor s (dieOf core) core && (p.2.rank s p.1).before k)

/-- The slots and descriptor blocks that a launch takes on a core for n of its S slots, if the core has S empty slots
that its table names (15 R374). -/
def roomOn (s : State) (l : Launch) (core n : Nat) : Option (List Nat × List Nat) :=
  let open_ := openSlots s core false
  if open_.length < l.record.slots ∨ !targetOk s core l.record.owner then none
  else (lowBlocks (limOf (bits (l.record.d 0) 19 18)) n (heldBlocks s core)).map (fun bs => (open_.take n, bs))

/-- The launch after a core has been placed with its threads; a launch that has no thread left is done. -/
def placedOn (s : State) (id core n claim : Nat) (full : Nat → Bool) : State :=
  match tfind s.launches id with
  | none => s
  | some l =>
    let l := { l with placed := l.placed ++ [core], live := l.live + n, claim := claim }
    let l := { l with waiting := !full l.placed.length }
    let s := { s with launches := tset s.launches id l }
    if !l.waiting ∧ l.live = 0 then s.dueOnce (.launchDone id) else s

/-- The threads of a launch on a core that have reported a phase, running there or saved from there (15 R386). -/
def reportersOn (s : State) (id core : Nat) : List Thread :=
  ((s.threads.filter (fun p => coreOf p.1 == core)).map Prod.snd ++
    ((s.die (dieOf core)).frames.filter (fun f => coreOf f.2.slot == core)).filterMap (fun f => f.2.saved)).filter
      (fun t => t.launch == id && t.made == .launched && t.mine != 0)

/-- The threads of a group start: reports that their chain neighbours have made reach them (15 R386). -/
def catchReports (s : State) (id core : Nat) : State :=
  s.dues ((List.range 4).flatMap (fun dir => match neighbour core dir with
    | none => []
    | some c => (reportersOn s id c).filterMap (fun t =>
        (s.threads.find? (fun q => coreOf q.1 == core && q.2.launch == id && q.2.made == .launched && q.2.num.grank == t.num.grank)).map
          (fun q => Event.phaseReportArrival (core * 64 + q.2.num.grank.toNat) dir t.mine id))))

/-- Placement of a deterministic launch on a core (15 R374, R375). -/
def placeDet (s : State) (id : Nat) (l : Launch) (core : Nat) : State :=
  let r := l.record
  let n := core - r.origin.getD 0
  let take := min r.slots (r.lcount - n * r.slots)
  let full := fun (k : Nat) => k ≥ r.cores
  if l.placed.contains core then s
  else if take = 0 then placedOn s id core 0 l.claim full
  else if heldBack s (l.rank s id) core || !makeTurn s core 0 then again s (.launchPlacement id core)
  else match roomOn s l core take with
  | none => again s (.launchPlacement id core)
  | some (ks, bs) =>
    let s := createGroup (noteMake s core 0) core ks bs (fun j => r.birth id (n * r.slots + j) j r.slots (n % r.depth))
    let s := placedOn s id core take l.claim full
    if r.depth > 1 then catchReports s id core else s

/-- The pool of an elastic launch in coordinate order (15 R376). -/
def elasticPool (s : State) (id : Nat) (l : Launch) (n : Nat) : List Nat :=
  (List.range' (l.home * 12800) 12800).filter (fun c => s.ownerOf c == l.record.owner && !l.placed.contains c &&
    !heldBack s (l.rank s id) c && (roomOn s l c n).isSome)

/-- An elastic launch stops drawing: no index remains (15 R376). -/
def endDraw (s : State) (id : Nat) (l : Launch) : State :=
  let s := { s with launches := tset s.launches id { l with waiting := false } }
  if l.live = 0 then s.dueOnce (.launchDone id) else s

/-- One draw of an elastic launch (15 R376). -/
def placeElastic (s : State) (id : Nat) (l : Launch) (core0 : Nat) : State :=
  let r := l.record
  if l.claim ≥ r.lcount then endDraw s id l else
  let take := min r.slots (r.lcount - l.claim)
  let pool := elasticPool s id l take
  let o := r.owner
  let ent := s.ownerEnt l.home o
  let u := bits (drawOf ent.seed 0xF10000 ent.elasticN).toNat 31 0
  match pool[u * pool.length / 2 ^ 32]? with
  | none => again s (.launchPlacement id core0)
  | some core =>
    match (if makeTurn s core 0 then roomOn s l core take else none) with
    | none => again s (.launchPlacement id core0)
    | some (ks, bs) =>
      let s := noteMake s core 0
      let s := s.modOwner l.home o (fun e => { e with elasticN := (e.elasticN + 1) % 2 ^ 40 })
      let s := createGroup s core ks bs (fun j => r.birth id (l.claim + j) j r.slots 0)
      let full := fun (k : Nat) => k ≥ r.cores || l.claim + take ≥ r.lcount
      let s := placedOn s id core take (l.claim + take) full
      if full (l.placed.length + 1) then s else again s (.launchPlacement id core0)

/-- LAUNCH_PLACEMENT (15 R374-R379). -/
def doPlacement (s : State) (id core : Nat) : State :=
  match tfind s.launches id with
  | none => s
  | some l =>
    if !l.waiting then s
    else if l.kind = 0 then placeDet s id l core else placeElastic s id l core

/-- LAUNCH_PLACEMENT (15 R374). -/
def execLaunchPlacement (s : State) : Outc :=
  match s.ev with
  | some (.launchPlacement id core) => evDo (.launchPlacement id core) (doPlacement s id core)
  | _ => .fault .noSuchUnit

/-- LAUNCH_AGEING: PRIO plus one for each whole 64 µs of waiting, at most 3 (15 R378). -/
def doAgeing (s : State) (id : Nat) : State :=
  match tfind s.launches id with
  | none => s
  | some l =>
    if !l.waiting then s
    else
      let lv := min 3 (l.record.prio + (s.now - l.entered) / 256000)
      let s := { s with launches := tset s.launches id { l with level := lv } }
      if lv < 3 then again s (.launchAgeing id) else s

/-- LAUNCH_AGEING (15 R378). -/
def execLaunchAgeing (s : State) : Outc :=
  match s.ev with
  | some (.launchAgeing id) => evDo (.launchAgeing id) (doAgeing s id)
  | _ => .fault .noSuchUnit

/-! ### gspawn (15 R390) -/

/-- gspawn: the record is read and the request travels to the target core (15 R390). -/
def gspawnBody (e : Env) : Res :=
  match e.ag with
  | .sextant _ _ => doneS e.s
  | .thread slot =>
    withImage e e.a 48 16 (fun s v =>
      let dw := (List.range 6).map (fun k => BitVec.ofNat 64 (v / 2 ^ (64 * k)))
      let r := Req.gspawn e.rd slot dw e.th.sgs e.th.num.lcount e.th.launch
      .ok { s := ({ s with reqs := tset s.reqs s.nextId r }.fresh).due (.spawnArrival s.nextId), dst := .pend s.nextId })

/-- gspawn (15 R390). -/
def execGspawn (d a : BitVec 5) (st : State) : Outc := runIns st (.gspawn d a) { dst := some d, srcs := [(1, a)], items := [0x1CC1] } gspawnBody

/-- Whether a group record is malformed (15 R390, 05 R132). -/
def groupBad (dw : List (BitVec 64)) : Bool :=
  let d := fun (k : Nat) => (dw.getD k 0).toNat
  bits (d 0) 63 30 != 0 || bits (d 0) 23 22 != 0 || bitAt (d 0) 20 || entryBad (d 0) || bits (d 1) 63 29 != 0 ||
    bits (d 1) 5 0 != 0 || bits (d 3) 63 32 != 0 || d 5 != 0

/-- What a group's member of rank r is given (05 R125, 15 R370, R390). -/
def memberBirth (dw : List (BitVec 64)) (segs : Tbl (BitVec 128)) (lcount : BitVec 64) (launch group g r : Nat) : Birth :=
  let d := fun (k : Nat) => (dw.getD k 0).toNat
  let index := BitVec.ofNat 64 (d 3 + r)
  { pc := BitVec.ofNat 64 (bits (d 0) 15 0), win := winOf (bits (d 0) 17 16), tlim := limOf (bits (d 0) 19 18),
    elastic := bitAt (d 0) 21,
    regs := [(10, dw.getD 2 0), (11, index), (12, lcount), (13, BitVec.ofNat 64 r)], sgs := segs,
    num := { lindex := index, lcount := lcount, grank := BitVec.ofNat 64 r, gsize := BitVec.ofNat 64 g },
    launch := launch, group := group, made := .gspawned }

/-- The result of gspawn at its target core: whole or not at all (15 R390). -/
def gspawnAt (s : State) (from_ : Nat) (dw : List (BitVec 64)) (segs : Tbl (BitVec 128)) (lcount : BitVec 64) (launch : Nat) : BitVec 64 × State :=
  let d0 := (dw.getD 0 0).toNat
  let g := bits d0 29 24 + 1
  let owner := s.ownerOf (coreOf from_)
  if groupBad dw then (statusWord (-4), s)
  else match coreOfCoord (dw.getD 1 0).toNat with
  | none => (statusWord (-3), s)
  | some c =>
    if dieOf c ≠ dieOf (coreOf from_) ∨ !targetOk s c owner then (statusWord (-3), s)
    else
      let ks := openSlots s c (bitAt d0 21)
      if ks.length < g then (statusWord (-1), s)
      else match lowBlocks (limOf (bits d0 19 18)) g (heldBlocks s c) with
      | none => (statusWord (-2), s)
      | some bs =>
        let id := s.nextId
        let s := { s with groups := tset s.groups id { live := g, done := dw.getD 4 0, owner := owner, die := dieOf c } }.fresh
        let s := createGroup s c (ks.take g) bs (memberBirth dw segs lcount launch id g)
        (BitVec.ofNat 64 (ks.headD 0), launchLive s launch g)

/-- SPAWN_ARRIVAL of a gspawn. -/
def doGspawn (s : State) (id : Nat) : State :=
  match tfind s.reqs id with
  | some (.gspawn dst from_ dw segs lcount launch) =>
    let core := coreOfCoord (dw.getD 1 0).toNat
    if (core.map (fun c => makeTurn s c (1 + coordOf from_))).getD true = false then again s (.spawnArrival id)
    else
      let p := gspawnAt { s with reqs := terase s.reqs id } from_ dw segs lcount launch
      answerValue (match core with | some c => noteMake p.2 c (1 + coordOf from_) | none => p.2) id dst p.1 false
  | _ => s

/-- SPAWN_ARRIVAL (05 R133, 15 R390). -/
def execSpawnArrival (s : State) : Outc :=
  match s.ev with
  | some (.spawnArrival id) => evDo (.spawnArrival id) (match tfind s.reqs id with | some (.gspawn ..) => doGspawn s id | _ => doSpawn s id)
  | _ => .fault .noSuchUnit

/-! ### tnext (15 R391) -/

/-- −1 as a register value. -/
def minusOne : BitVec 64 := BitVec.ofNat 64 (2 ^ 64 - 1)

/-- tnext of a deterministic launch (15 R391). -/
def nextIndex (r : LRec) (lindex : Nat) : Option Nat :=
  if lindex + r.cores * r.slots ≥ r.lcount then none else some (lindex + r.cores * r.slots)

/-- tnext (15 R391). -/
def tnextBody (e : Env) : Res :=
  match tfind e.s.launches e.th.launch with
  | none => done e minusOne
  | some l =>
    if e.th.made ≠ .launched ∨ l.kind = 2 then done e minusOne
    else if l.kind = 0 then
      match nextIndex l.record e.th.num.lindex.toNat with
      | none => done e minusOne
      | some r =>
        let v := BitVec.ofNat 64 r
        .ok { s := e.s.modTh e.ag (fun t => { t with num := { t.num with lindex := v } }), dst := .val v }
    else
      let id := e.s.nextId
      if l.claim ≥ l.record.lcount then .ok { s := answerValue e.s.fresh id e.rd minusOne false, dst := .pend id }
      else
        let v := BitVec.ofNat 64 l.claim
        let s := e.s.modTh e.ag (fun t => { t with num := { t.num with lindex := v } })
        let s := { s with launches := tset s.launches e.th.launch { l with claim := l.claim + 1 } }
        .ok { s := answerValue s.fresh id e.rd v false, dst := .pend id }

/-- tnext (15 R391). -/
def execTnext (d : BitVec 5) (st : State) : Outc := runIns st (.tnext d) { dst := some d, items := [0x1CC0] } tnextBody

/-! ### Messages (15 R383, R384, R396) -/

/-- The home die of a thread's launch. -/
def msgHome (s : State) (slot : Nat) (t : Thread) : Nat :=
  match tfind s.launches t.launch with
  | some l => l.home
  | none => dieOf (coreOf slot)

/-- Whether two messages have one key (15 R383). -/
def sameKey (m n : Msg) : Bool := m.launch == n.launch && m.receiver == n.receiver && m.sender == n.sender && m.seq == n.seq

/-- The messages on their way to a die's store. -/
def msgsComing (s : State) (home : Nat) : List Msg :=
  s.reqs.filterMap (fun p => match p.2 with | .msg _ h m => if h = home then some m else none | _ => none)

/-- Whether a message may enter a die's store now (15 R384). -/
def msgRoom (s : State) (home : Nat) (m : Msg) : Bool :=
  let all := (s.die home).msgs ++ msgsComing s home
  all.length < 4096 && !all.any (sameKey m)

/-- Whether an operand of msend or mrecv is refused (15 R396). -/
def msgBad (t : Thread) (x : BitVec 64) : Bool :=
  bits x.toNat 63 48 != 0 || bits x.toNat 31 0 ≥ t.num.lcount.toNat || t.num.lindex.toNat ≥ t.num.lcount.toNat

/-- The trap of such an operand. -/
def msgTrap (x : BitVec 64) : Res := .trap .segLimit x (info142 14 12 false (bits x.toNat 63 61))

/-- The message that msend makes (15 R396). -/
def msgOf (t : Thread) (x payload : BitVec 64) : Msg :=
  { launch := t.launch, receiver := bits x.toNat 31 0, sender := t.num.lindex.toNat, seq := bits x.toNat 47 32, payload := payload }

/-- Whether a parked sender may be admitted (15 R384). -/
def msendOpen (s : State) (slot : Nat) (t : Thread) (x : BitVec 64) : Bool := msgRoom s (msgHome s slot t) (msgOf t x 0)

/-- msend: a release at .part at its issue (15 R396), then its place in the store. -/
def msendBody (e : Env) : Res :=
  match e.ag with
  | .sextant _ _ => doneS e.s
  | .thread slot =>
    if msgBad e.th e.a then msgTrap e.a
    else
      let home := msgHome e.s slot e.th
      let lost := match e.th.prog with | .retried k => k | _ => 0
      let s := e.s.leavePoint home (e.s.ownerOf (coreOf slot)) 6 lost
      releasing e 4 (if !msendOpen e.s slot e.th e.a then .park (.msend e.a) e.th.prog e.s
        else doneS (({ s with reqs := tset s.reqs s.nextId (.msg slot home (msgOf e.th e.a e.b)) }.fresh).due (.messageStoreArrival s.nextId)))

/-- msend (15 R396). -/
def execMsend (a b : BitVec 5) (st : State) : Outc := runIns st (.msend a b) { srcs := [(1, a), (2, b)], items := [0x1CC0, 0x1CC1] } msendBody

/-- MESSAGE_STORE_ARRIVAL: the message is in the store, or is discarded with those of a launch that has ended (15 R383,
R384, R396). -/
def doMessage (s : State) (id : Nat) : State :=
  match tfind s.reqs id with
  | some (.msg slot home m) =>
    if (tfind s.launches m.launch).isNone then ({ s with reqs := terase s.reqs id }).dieEv home 3 (s.ownerOf (coreOf slot))
    else ({ s with reqs := terase s.reqs id }).modDie home (fun d => { d with msgs := d.msgs ++ [m] })
  | _ => s

/-- MESSAGE_STORE_ARRIVAL (15 R384). -/
def execMessageStoreArrival (s : State) : Outc :=
  match s.ev with
  | some (.messageStoreArrival id) => evDo (.messageStoreArrival id) (doMessage s id)
  | _ => .fault .noSuchUnit

/-- Whether a stored message is the one that mrecv names (15 R396). -/
def wanted (t : Thread) (x : BitVec 64) (m : Msg) : Bool :=
  m.launch == t.launch && m.receiver == t.num.lindex.toNat && m.sender == bits x.toNat 31 0 && m.seq == bits x.toNat 47 32

/-- Whether the message that mrecv names is in the store. -/
def mrecvHas (s : State) (slot : Nat) (t : Thread) (x : BitVec 64) : Bool := (s.die (msgHome s slot t)).msgs.any (wanted t x)

/-- mrecv: an acquire at .part (15 R396). -/
def mrecvBody (e : Env) : Res :=
  match e.ag with
  | .sextant _ _ => doneS e.s
  | .thread slot =>
    if msgBad e.th e.a then msgTrap e.a
    else
      let home := msgHome e.s slot e.th
      match (e.s.die home).msgs.find? (wanted e.th e.a) with
      | none => .park (.mrecv e.a) e.th.prog e.s
      | some m => .ok { s := e.s.modDie home (fun d => { d with msgs := d.msgs.filter (fun k => !wanted e.th e.a k) }), dst := .val m.payload }

/-- mrecv (15 R396). -/
def execMrecv (d a : BitVec 5) (st : State) : Outc := runIns st (.mrecv d a) { dst := some d, srcs := [(1, a)], items := [0x1CC0] } mrecvBody

/-! ### Phases (15 R385, R386, R397) -/

/-- The links to a thread's chain neighbours with the cores across them (15 R385). -/
def chainLinks (s : State) (core : Nat) (t : Thread) : List (Nat × Nat) :=
  match tfind s.launches t.launch with
  | none => []
  | some l =>
    let r := l.record
    let o := r.origin.getD 0
    if l.kind ≠ 0 ∨ r.depth ≤ 1 ∨ t.made ≠ .launched ∨ core < o ∨ o + r.cores ≤ core then []
    else
      let n := core - o
      let side := fun (c : Nat) => (List.range 4).filterMap (fun d => if neighbour core d = some c then some (d, c) else none)
      (if n % r.depth = 0 then [] else side (core - 1)) ++ (if (n + 1) % r.depth = 0 then [] else side (core + 1))

/-- Whether a thread is the one of a launch with a rank (15 R385). -/
def pairedWith (t q : Thread) : Bool := q.launch == t.launch && q.made == .launched && q.num.grank == t.num.grank

/-- Whether a core holds the thread paired with another, running or saved (15 R386). -/
def paired (s : State) (t : Thread) (core : Nat) : Bool :=
  s.threads.any (fun p => coreOf p.1 == core && pairedWith t p.2) ||
    (s.die (dieOf core)).frames.any (fun f => coreOf f.2.slot == core && (match f.2.saved with | some q => pairedWith t q | none => false))

/-- The place of the launch on a core that is paired with a thread: slot j with slot j, by the rank j (15 R374, R385). -/
def pairSlot (s : State) (t : Thread) (core : Nat) : Option Nat :=
  if paired s t core then some (core * 64 + t.num.grank.toNat % 64) else none

/-- The lead that phase allows a link (15 R397): the codes follow the links N, E, S, W. -/
def phaseLead (x : BitVec 64) (link : Nat) : Nat := bits x.toNat (51 + 4 * link) (48 + 4 * link)

/-- Whether every chain neighbour has reported far enough; one that has ended, or is no thread of the launch, has
(15 R386, R397). -/
def phaseOver (s : State) (slot : Nat) (t : Thread) (x : BitVec 64) : Bool :=
  (chainLinks s (coreOf slot) t).all (fun p =>
    (pairSlot s t p.2).isNone || ((tget t.reported p.1 0 : Nat) : Int) - 1 ≥ (bits x.toNat 31 0 : Int) - (phaseLead x p.1 : Int))

/-- phase (15 R397): stored values are phases plus 1.  A reissue with a value already sent would change nothing, and sends
nothing. -/
def phaseBody (e : Env) : Res :=
  match e.ag with
  | .sextant _ _ => doneS e.s
  | .thread slot =>
    let links := chainLinks e.s (coreOf slot) e.th
    let mine := max e.th.mine (bits e.a.toNat 31 0 + 1)
    let s :=
      if e.th.prog = .released ∧ mine = e.th.mine then e.s
      else
        (e.s.modTh e.ag (fun t => { t with mine := mine })).dues (links.filterMap (fun p =>
          (pairSlot e.s e.th p.2).map (fun k => Event.phaseReportArrival k (facing p.1) mine e.th.launch)))
    if phaseOver s slot e.th e.a then doneS s else .park (.phase e.a) .released s

/-- phase (15 R397). -/
def execPhase (a : BitVec 5) (st : State) : Outc := runIns st (.phase a) { srcs := [(1, a)], items := [0x1CC2] } phaseBody

/-- A report recorded: never lowered (15 R386). -/
def report (link value : Nat) (t : Thread) : Thread := { t with reported := tset t.reported link (max (tget t.reported link 0) value) }

/-- PHASE_REPORT_ARRIVAL: at the paired place of the launch on a core, to the thread wherever it runs there, or into its
saved record (15 R386). -/
def doReport (s : State) (slot link value launch : Nat) : State :=
  let mine := fun (t : Thread) => t.launch == launch && t.made == .launched && t.num.grank.toNat % 64 == slot % 64
  match s.threads.find? (fun p => coreOf p.1 == coreOf slot && mine p.2) with
  | some p => s.modSlot p.1 (report link value)
  | none =>
    s.modDie (dieOf (coreOf slot)) (fun d => { d with frames := tmap d.frames (fun f =>
      if coreOf f.slot = coreOf slot ∧ (match f.saved with | some t => mine t | none => false) = true then { f with saved := f.saved.map (report link value) } else f) })

/-- PHASE_REPORT_ARRIVAL (15 R386). -/
def execPhaseReportArrival (s : State) : Outc :=
  match s.ev with
  | some (.phaseReportArrival slot link value launch) => evDo (.phaseReportArrival slot link value launch) (doReport s slot link value launch)
  | _ => .fault .noSuchUnit

/-! ### qwait (15 R387, R398) -/

/-- The queue of a port register: whether it is an out-port, its code, and the queue. -/
def portQueue (s : State) (slot : Nat) (t : Thread) (xp : Nat) : Option (Bool × Nat × PortQ) :=
  if isIn t xp then (inPort t).map (fun p => (false, p.2, (s.core (coreOf slot)).queue p.2))
  else if isOut t xp then
    (match outPort t, outQueue slot t with
     | some (_, dir), some (c, q) => some (true, dir, (s.core c).queue q)
     | _, _ => none)
  else none

/-- The QTIMEOUT trap of a register (15 R398). -/
def qtimeoutTrap (s : State) (slot : Nat) (t : Thread) (xp lim : Nat) : Res :=
  match portQueue s slot t xp with
  | none => .trap .qtimeout (BitVec.ofNat 64 (xp * 256 + 7)) (BitVec.ofNat 64 (lim * 2 ^ 16))
  | some (out, code, q) =>
    .trap .qtimeout (BitVec.ofNat 64 (xp * 256 + out.toNat * 128 + code)) (BitVec.ofNat 64 (lim * 2 ^ 16 + q.head % 16 * 16 + q.tail % 16))

/-- The cycle from which a bounded wait counts (15 R398). -/
def firstIssue (e : Env) : Nat := match e.th.prog with | .since c _ _ => c | _ => e.s.now

/-- qwait (15 R398). -/
def qwaitBody (xp lim : Nat) (e : Env) : Res :=
  match e.ag with
  | .sextant _ _ => doneS e.s
  | .thread slot =>
    match e.th.prog with
    | .met => doneS e.s
    | .expired _ _ => qtimeoutTrap e.s slot e.th xp lim
    | _ =>
      if (portQueue e.s slot e.th xp).isNone then qtimeoutTrap e.s slot e.th xp lim
      else if portReady e.s slot e.th xp then doneS e.s
      else .park (.qwait xp (firstIssue e + lim)) (.since (firstIssue e) 0 0) (e.s.dueOnce (.qtimeout slot))

/-- qwait (15 R398): its register is named and not read. -/
def execQwait (a : BitVec 5) (imm : BitVec 12) (st : State) : Outc :=
  runIns st (.qwait a imm) { names := [(1, a)] } (qwaitBody a.toNat imm.toNat)

/-- QTIMEOUT: the limit has passed without the condition, and the reissue traps (15 R398). -/
def doQtimeout (s : State) (slot : Nat) : State :=
  match tfind s.threads slot with
  | none => s
  | some t =>
    match t.park, t.prog with
    | some (.qwait _ lim), .since _ _ _ =>
      if s.now ≤ lim then again s (.qtimeout slot) else (s.modSlot slot (fun t => { t with prog := .expired 0 0 })).wake (.thread slot)
    | _, _ => s

/-- QTIMEOUT (15 R398). -/
def execQtimeout (s : State) : Outc :=
  match s.ev with
  | some (.qtimeout slot) => evDo (.qtimeout slot) (doQtimeout s slot)
  | _ => .fault .noSuchUnit

/-! ### rwait (15 R388, R399) -/

/-- The needs of a ring control block (15 R399). -/
def specRing : AccSpec := { size := 32, align := 32, r := true, kinds := [0, 1, 2, 3], acc := 0, rd := true, need := { r := true } }

/-- The RTIMEOUT trap (15 R399). -/
def rtimeoutTrap (ea : BitVec 64) (h t : BitVec 32) : Res := .trap .rtimeout ea (h.setWidth 64 <<< 32 ||| t.setWidth 64)

/-- One read of the block by rwait (15 R399); before the first one the ring words are free values. -/
def rwaitRead (e : Env) (slot lim c : Nat) (h t : BitVec 32) : Res :=
  if e.s.now > c + lim then rtimeoutTrap e.a h t
  else
    let e := { e with th := { e.th with prog := match e.th.prog with | .denied r v => .denied r v | _ => .since c h t } }
    match reach e specRing e.a with
    | .stop r => r
    | .ok s x =>
      match readImage e s x 32 with
      | .error r => r
      | .ok v =>
        let s := imageDone e s x 32
        if ringReady v then doneS s
        else .park (.rwait x.place e.s.now (c + lim)) (.since c (ringHead v) (ringTail v)) ((s.dueOnce (.rwaitPoll slot)).dueOnce (.rtimeout slot))

/-- rwait (15 R399). -/
def rwaitBody (lim : Nat) (e : Env) : Res :=
  match e.ag with
  | .sextant _ _ => doneS e.s
  | .thread slot =>
    match e.th.prog with
    | .met => doneS e.s
    | .expired h t => rtimeoutTrap e.a h t
    | .since c h t => rwaitRead e slot lim c h t
    | _ =>
      let f := Config.freeWord e.s.tick
      rwaitRead { e with s := e.s.tock } slot lim e.s.now (f.setWidth 32) ((f >>> 32).setWidth 32)

/-- rwait (15 R399). -/
def execRwait (a : BitVec 5) (imm : BitVec 12) (st : State) : Outc :=
  runIns st (.rwait a imm) { srcs := [(1, a)] } (rwaitBody imm.toNat)

/-- One more read of the block at its place, by a parked thread: its condition ends the wait, a bad word is the reissue's to report,
and otherwise the thread stays parked with the HEAD and TAIL read (15 R399; 06 R164). -/
def pollRing (s : State) (slot : Nat) (t : Thread) (place lim c : Nat) : State :=
  let s := readCost s { agent := .thread slot, tag := t.tag, core := coreOf slot, owner := s.ownerOf (coreOf slot), kind := .load false, ea := 0, seg := 0, addr := place, size := 32 }
  if ringGood s place then (s.modSlot slot (fun t => { t with prog := .met })).wake (.thread slot)
  else if s.poisoned place 32 || s.uncorr place 32 then s.wake (.thread slot)
  else
    let v := s.rd place 32
    again (s.modSlot slot (fun t => { t with park := some (.rwait place s.now lim), prog := .since c (ringHead v) (ringTail v) })) (.rwaitPoll slot)

/-- RWAIT_POLL: the block is read again every 256 cycles, up to the limit (15 R399).  The reads after a store to the block are made
as the store is performed. -/
def doRwaitPoll (s : State) (slot : Nat) : State :=
  match tfind s.threads slot with
  | none => s
  | some t =>
    match t.park, t.prog with
    | some (.rwait place last lim), .since c _ _ =>
      if lim < s.now then s
      else if s.now < last + 256 then again s (.rwaitPoll slot)
      else pollRing s slot t place lim c
    | _, _ => s

/-- RWAIT_POLL (15 R399). -/
def execRwaitPoll (s : State) : Outc :=
  match s.ev with
  | some (.rwaitPoll slot) => evDo (.rwaitPoll slot) (doRwaitPoll s slot)
  | _ => .fault .noSuchUnit

/-- RTIMEOUT (15 R399). -/
def doRtimeout (s : State) (slot : Nat) : State :=
  match tfind s.threads slot with
  | none => s
  | some t =>
    match t.park, t.prog with
    | some (.rwait _ _ lim), .since _ h tl =>
      if s.now ≤ lim then again s (.rtimeout slot) else (s.modSlot slot (fun t => { t with prog := .expired h tl })).wake (.thread slot)
    | _, _ => s

/-- RTIMEOUT (15 R399). -/
def execRtimeout (s : State) : Outc :=
  match s.ev with
  | some (.rtimeout slot) => evDo (.rtimeout slot) (doRtimeout s slot)
  | _ => .fault .noSuchUnit

end Sys2Proof.Machine
end

