-- ==== Sys2Proof/Machine/Counters.lean ====
section
/-!
DEFINITION. Counters: dependency counters (15 R380-R382), cntnew, cntbind, cntdec and cntfree (15 R392-R395), with the rows
of their events.
-/
namespace Sys2Proof.Machine

/-! ### Handles and entries (15 R380, R381) -/

/-- INDEX of a handle. -/
def hIndex (h : BitVec 64) : Nat := bits h.toNat 15 0
/-- DIE of a handle. -/
def hDie (h : BitVec 64) : Nat := bits h.toNat 20 16
/-- MODULE of a handle. -/
def hModule (h : BitVec 64) : Nat := bits h.toNat 39 24

/-- A handle from its fields. -/
def mkHandle (index die module gen : Nat) : BitVec 64 := BitVec.ofNat 64 (index + die * 2 ^ 16 + module * 2 ^ 24 + gen * 2 ^ 40)

/-- The entry that a handle names on its die, if it names a counter (15 R380). -/
def counterOf (s : State) (h : BitVec 64) : Option CntEnt :=
  if bits h.toNat 23 21 ≠ 0 ∨ bits h.toNat 63 56 ≠ 0 then none
  else match tfind (s.die (hDie h)).counters (hIndex h) with
    | some c => if c.st ≠ .free ∧ c.gen.toNat = bits h.toNat 55 40 then some c else none
    | none => none

/-- The state with a handle's entry replaced. -/
def setCounter (s : State) (h : BitVec 64) (c : CntEnt) : State :=
  s.modDie (hDie h) (fun d => { d with counters := tset d.counters (hIndex h) c })

/-- The outcome of an operation on a counter: done, refused with COUNTER_FREED, or waiting for a full ready queue. -/
inductive CntRes where
  | done (s : State)
  | refused
  | wait

/-- Whether the task of a record would find its home die's ready queues full (15 R378). -/
def taskFull (s : State) (r : LRec) (die : Nat) : Bool :=
  coresOk s r (s.partOf die) && waitingAtDie s (homeOf r die) ≥ 1024

/-- Enqueue a bound task: discarded and counted where its cores no longer qualify (15 R393). -/
def enqueueTask (s : State) (r : LRec) (die : Nat) : State :=
  if coresOk s r (s.partOf die) then enterLaunch s r (homeOf r die) none else s.dieEv die 2 r.owner

/-- An operation of a requester in its turn at its entry: of those that arrive in one cycle the lowest requester number goes
first, so that one which comes after a higher one of its cycle arrives in the next (15 R381; DEDUCED, log 117). -/
def inTurn (s : State) (h : BitVec 64) (req : Nat) (r : CntRes) : CntRes :=
  match tfind (s.die (hDie h)).counters (hIndex h) with
  | none => r
  | some c =>
    if (match c.last with | some (t, k) => t == s.now && decide (req < k) | none => false) then .wait
    else match r with
      | .done b => .done (b.modDie (hDie h) (fun d => { d with counters := tset d.counters (hIndex h) { tget d.counters (hIndex h) {} with last := some (s.now, req) } }))
      | x => x

/-- The requester number of the decrement of a die's launch unit: above those of every core (DEDUCED, log 117). -/
def unitRequester (die : Nat) : Nat := identCls 4 die 0 / 2 ^ 24

/-- A decrement applied to its counter (15 R381) for a partition; the table of a partition in reset accepts nothing
(18 R450). -/
def applyDec (s : State) (part : Nat) (h : BitVec 64) : CntRes :=
  match counterOf s h with
  | none => .refused
  | some c =>
    if s.partOf (hDie h) ≠ part then .refused
    else if s.fenced part then .wait
    else match c.st with
    | .ready => .done (s.dieEv (hDie h) 4 c.owner)
    | .bound =>
      if c.val.toNat > 1 then .done (setCounter s h { c with val := c.val - 1 })
      else match c.record with
        | none => .done (setCounter s h { c with val := 0, st := .ready })
        | some r =>
          if taskFull s r (hDie h) then .wait
          else .done (enqueueTask (setCounter s h { c with val := 0, st := .ready, record := none }) r (hDie h))
    | _ => .done (setCounter s h { c with val := c.val - 1, st := if c.val.toNat ≤ 1 then .ready else c.st })

/-- A bind applied to its counter (15 R381). -/
def applyBind (s : State) (part : Nat) (h : BitVec 64) (r : LRec) : CntRes :=
  match counterOf s h with
  | none => .refused
  | some c =>
    if s.partOf (hDie h) ≠ part then .refused
    else if s.fenced part then .wait
    else match c.st with
    | .ready => if taskFull s r (hDie h) then .wait else .done (enqueueTask s r (hDie h))
    | _ => .done (setCounter s h { c with st := .bound, record := some r })

/-- A free applied to its counter (15 R381, R382). -/
def applyFree (s : State) (owner : Nat) (h : BitVec 64) : CntRes :=
  match counterOf s h with
  | none => .refused
  | some c =>
    if c.owner ≠ owner then .refused
    else if s.fenced (s.partOf (hDie h)) then .wait
    else .done (setCounter s h { gen := c.gen + 1 })

/-! ### cntnew (15 R392) -/

/-- The lowest free entry at or above n of a table in rising order. -/
def lowFree : Tbl CntEnt → Nat → Nat
  | [], n => n
  | (k, c) :: r, n => if k = n ∧ c.st ≠ .free then lowFree r (n + 1) else if k < n then lowFree r n else n

/-- cntnew (15 R392); the table of a partition in reset has no entry for any (18 R450, log 28). -/
def cntnewBody (e : Env) : Res :=
  let die := e.ag.die
  let k := lowFree (e.s.die die).counters 0
  let id := e.s.nextId
  let s := e.s.fresh
  let (v, s) :=
    if bits e.a.toNat 63 32 ≠ 0 then (statusWord (-2), s)
    else if k ≥ 65536 ∨ s.fenced (s.partOf die) then (statusWord (-1), s)
    else
      let gen := (tget (s.die die).counters k {}).gen
      let c : CntEnt := { st := if e.a = 0 then .ready else .armed, val := e.a.setWidth 32, owner := s.ownerOf e.ag.core, gen := gen }
      (mkHandle k die (s.modnum die) gen.toNat, s.modDie die (fun d => { d with counters := tset d.counters k c }))
  .ok { s := answerValue s id e.rd v false, dst := .pend id }

/-- cntnew (15 R392). -/
def execCntnew (d a : BitVec 5) (st : State) : Outc := runIns st (.cntnew d a) { dst := some d, srcs := [(1, a)] } cntnewBody

/-! ### The operations of a thread (15 R393-R395) -/

/-- The trap of an operation that its counter refuses on the issuing die (15 R394). -/
def freedMark (s : State) (slot : Nat) (h : BitVec 64) : Mark :=
  { cause := .counterFreed, tval := h,
    tinfo := BitVec.ofNat 64 (s.ownerOf (coreOf slot) * 2 ^ 52 + slot % 64 * 2 ^ 46 + 2 ^ 44 + 5 * 2 ^ 32) }

/-- Ask a counter table and wait for its answer, which the reissue finds: a refusal becomes pending as the instruction
retires (15 R394). -/
def askCounter (s : State) (q : Req) (ev : Nat → Event) : Res :=
  let id := s.nextId
  .park (.answer id) (.asked id) (({ s with reqs := tset s.reqs id q }.fresh).due (ev id))

/-- What a reissue of such an instruction finds: its answer, or the request still out. -/
def counterAnswer (e : Env) : Option Res :=
  match e.th.prog with
  | .served _ none => some (doneS e.s)
  | .served _ (some m) => some (doneS (e.s.raise e.ag e.th.tag (asyncOf m)))
  | .asked id => some (.park (.answer id) (.asked id) e.s)
  | _ => none

/-- A decrement or free on another die or module: posted through the journal (15 R394, R395). -/
def postCounter (e : Env) (slot : Nat) (q : Nat → Req) (ev : Nat → Event) : Res :=
  match freeJournal e.s e.ag.core with
  | none => .park .journal e.th.prog e.s
  | some k =>
    let id := e.s.nextId
    let j : JEnt := { pointer := e.a, owner := e.s.ownerOf e.ag.core, slot := slot % 64, typ := 1, size := 0, reason := 0, seq := 0, tag := e.th.tag, id := id }
    let s := takeJournal e.s e.ag.core k j
    doneS (({ s with reqs := tset s.reqs id (q k) }.fresh).due (ev id))

/-- The import entry by which a decrement reaches a peer: the lowest INVOKE entry of the owner for the module
(DESIGN CHOICE, log 20). -/
def counterImport (s : State) (part owner module : Nat) : Option Nat :=
  ((s.part part).imports.find? (fun p => bits p.2.toNat 31 30 == 2 && bits p.2.toNat 11 0 == owner && bits p.2.toNat 63 48 == module)).map Prod.fst

/-- The packet of a decrement to a peer (20 R479): port, header and beats. -/
def counterPacket (s : State) (die core journal id import_ : Nat) (h : BitVec 64) : Nat × Beat × List Beat :=
  let e := s.importEnt (s.partOf die) import_
  (bits e 35 32, mkHdr 4 2 (hModule h) (s.modnum die) (hDie h) die (bits e 47 36) 0,
    [mkBeat1 (bits e 127 64) journal (identOf core id), BitVec.ofNat 128 h.toNat])

/-- cntdec: a release at its issue, at .part, or at .sys to another module (15 R394). -/
def cntdecBody (e : Env) : Res :=
  match e.ag, counterAnswer e with
  | .sextant _ _, _ => doneS e.s
  | _, some r => r
  | .thread slot, none =>
    let die := e.ag.die
    let own := hModule e.a == e.s.modnum die
    let sc := if own then 4 else clamped e.s e.ag 5
    let who := some (slot, e.th.tag)
    let owner := e.s.ownerOf e.ag.core
    releasing e sc (if own ∧ hDie e.a = die then askCounter e.s (.cntDec who e.a none die owner) .counterDecrement
    else if own then postCounter e slot (fun k => .cntDec who e.a (some k) die owner) .counterDecrement
    else withClamp e.ag 5 (
      match counterImport e.s (e.s.partOf die) owner (hModule e.a) with
      | none => postCounter e slot (fun k => .cntDec who e.a (some k) die owner) .counterDecrement
      | some i =>
        let p := fun (k : Nat) => counterPacket e.s die e.ag.core k e.s.nextId i e.a
        postCounter e slot (fun k => .sent e.ag.core k die (p k).1 (p k).2.1 (p k).2.2 0 e.s.now false) .requestReplayTimeout))

/-- cntdec (15 R394). -/
def execCntdec (a : BitVec 5) (st : State) : Outc := runIns st (.cntdec a) { srcs := [(1, a)] } cntdecBody

/-- cntfree (15 R395). -/
def cntfreeBody (e : Env) : Res :=
  match e.ag, counterAnswer e with
  | .sextant _ _, _ => doneS e.s
  | _, some r => r
  | .thread slot, none =>
    if hModule e.a = e.s.modnum e.ag.die ∧ hDie e.a = e.ag.die then askCounter e.s (.cntFree slot e.th.tag e.a none) .counterFree
    else postCounter e slot (fun k => .cntFree slot e.th.tag e.a (some k)) .counterFree

/-- cntfree (15 R395). -/
def execCntfree (a : BitVec 5) (st : State) : Outc := runIns st (.cntfree a) { srcs := [(1, a)] } cntfreeBody

/-- cntbind: the record is read, then the bind travels to the table (15 R393). -/
def cntbindBody (e : Env) : Res :=
  match e.ag, counterAnswer e with
  | .sextant _ _, _ => doneS e.s
  | _, some r => r
  | .thread slot, none =>
    withRecord e slot e.b (fun s r =>
      let trap := fun (n : Nat) => Res.trap .segRights e.b (info142 n 0 false (bits e.b.toNat 63 61))
      if r.malformed then trap 14
      else if !coresOk s r (s.partOf e.ag.die) then trap 15
      else askCounter s (.cntBind slot e.th.tag e.a r) .counterBind)

/-- cntbind (15 R393). -/
def execCntbind (a b : BitVec 5) (st : State) : Outc := runIns st (.cntbind a b) { srcs := [(1, a), (2, b)] } cntbindBody

/-! ### At the table -/

/-- A handle of another module names no counter here. -/
def foreign (s : State) (die : Nat) (h : BitVec 64) : Bool := hModule h != s.modnum die

/-- The answer of a table to a thread, or to its journal entry; a posted operation into a partition in reset is refused
with REASON 3 (18 R452). -/
def tellCounter (s : State) (id slot tag : Nat) (h : BitVec 64) (journal : Option Nat) (ok : Bool) : State :=
  let s := { s with reqs := terase s.reqs id }
  let away := s.partOf (hDie h) != s.partOf (dieOf (coreOf slot)) && s.fenced (s.partOf (hDie h))
  match journal with
  | some k => s.due (.postedAnswerArrival (coreOf slot) k (if ok then 0 else if away then 3 else 5))
  | none => answerProg s (.thread slot) tag id (.served 0 (if ok then none else some (freedMark s slot h)))

/-- The decrement at the end of a launch or group is refused: counted in LAUNCH_DONE_REFUSED (15 R371). -/
def doneRefused (s : State) (id die owner : Nat) : State := { s with reqs := terase s.reqs id }.dieEv die 1 owner

/-- The end of a launch or group decrements a counter of another module as cntdec would: the packet passes the points of its
way, and is replayed until its answer; without an import, or where the port's partition is fenced, it is refused (15 R371, R394; 08 R214). -/
def sendDone (s : State) (id die owner : Nat) (h : BitVec 64) : State :=
  match counterImport s (s.partOf die) owner (hModule h) with
  | none => doneRefused s id die owner
  | some i =>
    let p := counterPacket s die (die * 12800) 0 id i h
    if portFenced s die p.1 p.2.1 then doneRefused (dropClaim s id) id die owner
    else match claimStep s id owner (packetWay s (unitPlace die) die p.1 p.2.1) with
      | .wait t => again t (.counterDecrement id)
      | .thru t => (({ t with reqs := tset t.reqs id (.done die owner p.1 p.2.1 p.2.2 0 t.now) }).route die p.1 p.2.1 p.2.2).due (.requestReplayTimeout id)

/-- COUNTER_DECREMENT (15 R371, R381, R394).  One for another module that no import entry serves is refused with REASON 1, and
no peer counts it (DESIGN CHOICE, log 112). -/
def doDecrement (s : State) (id : Nat) : State :=
  match tfind s.reqs id with
  | some (.cntDec who h journal die owner) =>
    let req := match who with | some (slot, _) => coreOf slot | none => unitRequester die
    let res := if foreign s die h then .refused else inTurn s h req (applyDec s (s.partOf die) h)
    (match who with
     | some (slot, tag) =>
       if foreign s die h then { s with reqs := terase s.reqs id }.due (.postedAnswerArrival (coreOf slot) (journal.getD 0) 1)
       else match res with
       | .wait => again s (.counterDecrement id)
       | .refused => tellCounter s id slot tag h journal false
       | .done s => tellCounter s id slot tag h journal true
     | none =>
       if foreign s die h then sendDone s id die owner h
       else match res with
       | .wait => again s (.counterDecrement id)
       | .refused => doneRefused s id die owner
       | .done s => { s with reqs := terase s.reqs id })
  | _ => s

/-- COUNTER_DECREMENT (15 R381). -/
def execCounterDecrement (s : State) : Outc :=
  match s.ev with
  | some (.counterDecrement id) => evDo (.counterDecrement id) (doDecrement s id)
  | _ => .fault .noSuchUnit

/-- COUNTER_BIND (15 R381). -/
def doBind (s : State) (id : Nat) : State :=
  match tfind s.reqs id with
  | some (.cntBind slot tag h r) =>
    let die := dieOf (coreOf slot)
    (match (if foreign s die h then .refused else inTurn s h (coreOf slot) (applyBind s (s.partOf die) h r)) with
     | .wait => again s (.counterBind id)
     | .refused => tellCounter s id slot tag h none false
     | .done s => tellCounter s id slot tag h none true)
  | _ => s

/-- COUNTER_BIND (15 R381). -/
def execCounterBind (s : State) : Outc :=
  match s.ev with
  | some (.counterBind id) => evDo (.counterBind id) (doBind s id)
  | _ => .fault .noSuchUnit

/-- COUNTER_FREE (15 R381, R382): from the counter's owner, in its partition. -/
def doFree (s : State) (id : Nat) : State :=
  match tfind s.reqs id with
  | some (.cntFree slot tag h journal) =>
    let die := dieOf (coreOf slot)
    let own := !foreign s die h && s.partOf (hDie h) == s.partOf die
    (match (if own then inTurn s h (coreOf slot) (applyFree s (s.ownerOf (coreOf slot)) h) else .refused) with
     | .wait => again s (.counterFree id)
     | .refused => tellCounter s id slot tag h journal false
     | .done s => tellCounter s id slot tag h journal true)
  | _ => s

/-- COUNTER_FREE (15 R381). -/
def execCounterFree (s : State) : Outc :=
  match s.ev with
  | some (.counterFree id) => evDo (.counterFree id) (doFree s id)
  | _ => .fault .noSuchUnit

end Sys2Proof.Machine
end

