-- ==== Sys2Proof/Machine/Invoke.lean ====
section
/-!
DEFINITION. Invoke: remote invocation (16 R400-R413): rinv, rinvr, rreply, the die invocation units, replies and answers, the
tables of a partition, and the end of a launch (15 R371, R383), with their event rows.
-/
namespace Sys2Proof.Machine

/-! ### Requests (16 R400, R401) -/

/-- Whether request words are malformed (16 R400). -/
def invMalformed (tw hw : Nat) : Bool :=
  bits tw 47 45 != 0 || bits tw 27 25 != 0 || bits tw 15 14 != 0 || bits tw 7 0 != 0 || bits hw 63 29 != 0 ||
    bits hw 23 22 != 0 || bits hw 15 14 != 0 || bits hw 27 24 > 8 || (!bitAt tw 24 && bits tw 23 16 > 199)

/-- The argument registers x10 to x(9 + n). -/
def argRegs (n : Nat) : List Nat := List.range' 10 n

/-- What stands against reading argument registers (16 R401): they are checked as sources, with field code 5. -/
def argCheck (e : Env) (n : Nat) : Option Res :=
  let t := e.th
  let rs := argRegs n
  match rs.find? (fun r => r ≥ t.win) with
  | some r => some (.trap .regRange (wordVal e.i) (infoReg r 5))
  | none =>
    match rs.find? (fun r => (t.ent r).st == .released) with
    | some r => some (.trap .regReleased (wordVal e.i) (infoReg r 5))
    | none =>
      match rs.find? (fun r => (t.ent r).ecc && (t.ent r).st == .present) with
      | some r => some (.trap .eccUncorr (BitVec.ofNat 64 r) (info142 18 14 false 0))
      | none =>
        match rs.find? (fun r => (t.ent r).st == .pending) with
        | none => none
        | some r =>
          match (t.ent r).mark with
          | some m => some (.final (trapSync (e.s.setTh e.ag (t.setEnt r { st := .released })) e.ag m.cause m.tval m.tinfo))
          | none => some (.park (.reg r) t.prog e.s)

/-- Whether a destination lies outside the issuer's partition. -/
def invOutside (s : State) (die tw : Nat) : Bool := bits tw 63 48 != s.modnum die || s.partOf (bits tw 44 40) != s.partOf die

/-- Whether the import entry serves the request (16 R401). -/
def importServes (s : State) (die owner tw : Nat) : Bool :=
  let e := s.importEnt (s.partOf die) (bits tw 39 28)
  bits e 31 30 == 2 && bits e 11 0 == owner && bits e 63 48 == bits tw 63 48

/-- The INVOKE packet (16 R402): port, header and beats. -/
def invPacket (s : State) (die core journal id tw hw : Nat) (args : List (BitVec 64)) : Nat × Beat × List Beat :=
  let e := if invOutside s die tw then s.importEnt (s.partOf die) (bits tw 39 28) else 0
  let low := bits hw 13 12 * 2 ^ 64 + bits hw 11 0 * 2 ^ 52 + bits hw 21 16 * 2 ^ 46 + bits hw 27 24 * 2 ^ 42 +
    bits hw 28 28 * 2 ^ 41 + bits tw 24 24 * 2 ^ 40 + bits tw 23 16 * 2 ^ 32 + bits tw 13 8 * 2 ^ 26
  let n := args.length
  let data := (List.range (ceilDiv n 2)).map (fun k => BitVec.ofNat 128 ((args.getD (2 * k) 0).toNat + (args.getD (2 * k + 1) 0).toNat * 2 ^ 64))
  (bits e 35 32, mkHdr 5 (1 + data.length) (bits tw 63 48) (s.modnum die) (bits tw 44 40) die (bits e 47 36) low,
    mkBeat1 (bits e 127 64) journal (identOf core id) :: data)

/-- rinv and rinvr (16 R401): the request words, the import entry and the argument registers are checked in that order, the
release is made (log 62), and the packet goes to its points. -/
def invBody (reply : Bool) (e : Env) : Res :=
  match e.ag with
  | .sextant _ _ => doneS e.s
  | .thread slot =>
    let die := e.ag.die
    let core := e.ag.core
    let tw := e.a.toNat
    let hw := e.b.toNat
    let n := bits hw 27 24
    if invMalformed tw hw then done e (statusWord (-4))
    else if invOutside e.s die tw ∧ !importServes e.s die (e.s.ownerOf core) tw then done e (statusWord (-3))
    else match argCheck e n with
    | some r => r
    | none =>
      let args := (argRegs n).map e.th.reg
      let read := fun (s : State) => s.modTh e.ag (fun t => consumeAll t ((argRegs n).map (fun r => (5, r))))
      releasing e (clamped e.s e.ag 5) (if e.th.cnt.s ≥ 63 then .park (.counterFull 1) e.th.prog e.s
      else match freeJournal e.s core with
      | none => .park .journal e.th.prog e.s
      | some k =>
        let id := e.s.nextId
        let j : JEnt := { pointer := e.a, owner := e.s.ownerOf core, slot := slot % 64, typ := 2, size := 0, reason := 0, seq := 0, tag := e.th.tag, id := id, dst := some e.rd, reply := reply }
        let (port, h, bs) := invPacket e.s die core k id tw hw args
        let s := (takeJournal (read e.s) core k j).modTh e.ag (fun t => { t with cnt := { t.cnt with s := t.cnt.s + 1 } })
        let s := { s with reqs := tset s.reqs id (.sent core k die port h bs 0 s.now false) }.fresh
        withClamp e.ag 5 (.ok { s := s.due (.requestReplayTimeout id), dst := .pend id }))

/-- rinv (16 R401). -/
def execRinv (d a b : BitVec 5) (st : State) : Outc := runIns st (.rinv d a b) { dst := some d, srcs := [(1, a), (2, b)] } (invBody false)
/-- rinvr (16 R401). -/
def execRinvr (d a b : BitVec 5) (st : State) : Outc := runIns st (.rinvr d a b) { dst := some d, srcs := [(1, a), (2, b)] } (invBody true)

/-! ### Answers to invocations (16 R401) -/

/-- The journal entry that an identifier names. -/
def entryOfIdent (s : State) (ident : Nat) : Option (Nat × Nat × JEnt) :=
  let core := ident / 2 ^ 24
  ((s.core core).journal.find? (fun p => identOf core p.2.id == ident && p.2.reason == 0)).map (fun p => (core, p.1, p.2))

/-- An invocation ends: its entry frees or holds a refusal, and the value goes to its destination. -/
def endInvocation (s : State) (core k : Nat) (j : JEnt) (reason : Nat) (v : BitVec 64) : State :=
  let s := postedAnswer s core k reason
  match j.dst with
  | some d => answerValue s j.id d v false
  | none => s

/-- A status for an invocation: an acceptance of rinvr awaits its reply; OVERFLOW and UNREACHABLE are refusals besides
(16 R401); `local_` marks the requester's own give-up. -/
def invokeAnswer (s : State) (core k : Nat) (j : JEnt) (a : Int) (local_ : Bool) : State :=
  if j.reply ∧ (a = 0 ∨ a = 1) then
    ({ s with reqs := terase s.reqs j.id }).modCore core (fun c => { c with journal := tset c.journal k { j with accepted := true } })
  else endInvocation s core k j (if a = -6 then 6 else if a = -5 then (if local_ then 7 else 3) else 0) (statusWord a)

/-! ### Tokens (16 R410) -/

/-- The reply token of an INVOKE packet: from the requester's journal entry within the module; from a peer the core is that of
its identifier and the entry that of its beat 1, and whether a peer's rinvr made it, and with which slot and SEQ, is what the
peer did: its packet carries none of the three (DESIGN CHOICE, log 18). -/
def tokenOf (s : State) (h : Beat) (bs : List Beat) : BitVec 64 :=
  let base := hSmod h * 2 ^ 47 + hSdie h * 2 ^ 42 + bbits (beat1 bs) 52 48 * 2 ^ 17
  let ident := bIdent bs
  if hSmod h = s.modnum (hDdie h) then
    match entryOfIdent s ident with
    | some (core, _, j) =>
      if j.typ = 2 ∧ j.reply then
        BitVec.ofNat 64 (2 ^ 63 + base + clusterOf core % 200 * 2 ^ 34 + core % 64 * 2 ^ 28 + j.slot * 2 ^ 22 + j.seq.toNat % 2 ^ 17)
      else 0
    | none => 0
  else
    let f := (Config.peerEntry (hSmod h) ident s.tick).toNat
    let core := bits ident 44 24
    if Config.peerWaits (hSmod h) ident s.tick then BitVec.ofNat 64 (2 ^ 63 + base + core / 64 % 200 * 2 ^ 34 + core % 64 * 2 ^ 28 + bits f 27 22 * 2 ^ 22 + bits f 16 0) else 0

/-! ### The die invocation unit (16 R405-R409) -/

/-- One more on a counter that stops at its maximum (16 R414). -/
def upTo (n w : Nat) : Nat := min (n + 1) (2 ^ w - 1)

/-- Whether an INVOKE stays in its sender's partition. -/
def sameTenant (s : State) (die : Nat) (h : Beat) : Bool := hSmod h == s.modnum die && s.partOf (hSdie h) == s.partOf die

/-- An export entry's fields. -/
def State.exportEnt (s : State) (part i : Nat) : Nat := (tget (s.part part).exports i 0).toNat

/-- The checks of an export entry that every packet meets: KIND, KEY and PEER (16 R405). -/
def exportAdmits (s : State) (die kind : Nat) (h : Beat) (bs : List Beat) : Bool :=
  let x := s.exportEnt (s.partOf die) (hExp h)
  bits x 145 144 == kind && bits x 255 192 == bKey bs && (bits x 143 128 == 0xFFFF || bits x 143 128 == hSmod h)

/-- The ingress check of an INVOKE (16 R405). -/
def invokePasses (s : State) (die : Nat) (h : Beat) (bs : List Beat) : Bool :=
  let x := s.exportEnt (s.partOf die) (hExp h)
  exportAdmits s die 2 h bs && bits x 11 0 ≤ bbits h 63 52 && bbits h 63 52 ≤ bits x 27 16 && bbits h 65 64 ≤ bits x 151 150 &&
    bbits h 51 46 ≤ bits x 157 152

/-- A queue of a die's invocation unit. -/
def InvUnit.queue (u : InvUnit) (q : Nat) : List InvRec := tget u.queues q []
/-- The ring of a handler. -/
def InvUnit.ring (u : InvUnit) (h : Nat) : List InvRec := tget u.spill h []
/-- Q_h of a handler: its records in the four queues. -/
def InvUnit.held (u : InvUnit) (h : Nat) : Nat := (u.queues.map (fun p => (p.2.filter (fun r => r.handler == h)).length)).sum
/-- Whether a queue has room. -/
def InvUnit.room (u : InvUnit) (q : Nat) : Bool := (u.queue q).length < tget u.depth q 64

/-- A record enters the tail of its queue; a head is offered for placement from now (16 R409). -/
def enterInvQueue (s : State) (die : Nat) (r : InvRec) : State :=
  (s.modInv die (fun u => { u with queues := tset u.queues r.prio (u.queue r.prio ++ [{ r with since := s.now }]) })).dueOnce
    (.invocationPlacement die r.prio)

/-- Where a die's ring record n of a handler stands: each die of the partition has RINGN records of 128 bytes from RINGBASE on,
in ascending order of dies (16 R406; DESIGN CHOICE, log 9). -/
def ringPlace (s : State) (die e n : Nat) : Nat :=
  let part := s.diesOf (s.partOf die)
  aDev (bits e 115 71 * 128 + 128 * (part.idxOf die * bits e 63 48 + n % bits e 63 48))

/-- The place of a record that a die's ring takes next, from its count n on: the first that no undrained record of the handler
holds, on any die of the partition (16 R413; DESIGN CHOICE, log 119); none where all are held. -/
def ringSpot (s : State) (die h e : Nat) : Nat → Nat → Option Nat
  | _, 0 => none
  | n, k + 1 =>
    if (s.diesOf (s.partOf die)).any (fun d => ((s.die d).inv.ring h).any (fun r => r.ring == ringPlace s die e n)) then ringSpot s die h e (n + 1) k
    else some n

/-- A record as the bytes of its ring record: header, beat 1, arguments (16 R406). -/
def InvRec.image (r : InvRec) : Nat := r.hdr.toNat + 2 ^ 128 * (beatsVal r.beats % 2 ^ (128 * 7))

/-- A spilled record is written to place n of its handler's ring (16 R406). -/
def spillRecord (s : State) (die e n : Nat) (r : InvRec) : State :=
  let a := ringPlace s die e n
  let w : Writer := { cls := 4, owner := bits e 43 32, ident := hSmod r.hdr, tag := 0, core := 409600 }
  let s := (enterFilter ((unitLine s (bits e 43 32) die a 128 false).perfWrite w a r.image 128) a (identCls 4 die s.nextId)).fresh
  s.modInv die (fun u => { u with spillNext := tset u.spillNext r.handler (n + 1),
                                  spill := tset u.spill r.handler (u.ring r.handler ++ [{ r with ring := a }]) })

/-- A record as its ring record holds it. -/
def readRecord (s : State) (r : InvRec) : InvRec :=
  let h := BitVec.ofNat 128 (s.rd r.ring 16)
  { r with hdr := h, beats := (List.range (min 7 (bbits h 123 120))).map (fun k => BitVec.ofNat 128 (s.rd (r.ring + 16 + 16 * k) 16)), ring := 0 }

/-- Admit (16 R407): the status, and the unit after it. -/
def admitReq (s : State) (die : Nat) (r : InvRec) : Int × State :=
  let u := (s.die die).inv
  let h := s.handler (s.partOf die) r.handler
  if !bitAt h 31 then (-2, s.modInv die (fun u => { u with invalids := upTo u.invalids 16 }))
  else if (u.ring r.handler).isEmpty ∧ u.held r.handler < bits h 30 24 ∧ u.room r.prio = true then
    (0, enterInvQueue (s.modInv die (fun u => { u with accepts := upTo u.accepts 32 })) die r)
  else if bits h 21 20 = 1 ∧ (u.ring r.handler).length < bits h 63 48 then
    (match ringSpot s die r.handler h (tget u.spillNext r.handler 0) (bits h 63 48) with
     | some n => (1, spillRecord (s.modInv die (fun u => { u with spills := upTo u.spills 16, accepts := upTo u.accepts 32 })) die h n r)
     | none => (-1, s.modInv die (fun u => { u with naks := upTo u.naks 16 })))
  else if bits h 21 20 = 2 then (-6, s.modInv die (fun u => { u with overflows := upTo u.overflows 16 }))
  else (-1, s.modInv die (fun u => { u with naks := upTo u.naks 16 }))

/-- Whether a die's partition takes no invocation: in reset or retired (18 R452), or held after a thermal trip (20 R485). -/
def takesNone (s : State) (die : Nat) : Bool := s.fenced (s.partOf die) || (s.part (s.partOf die)).thermalHold

/-- The order of packets that reach a unit in one cycle: SMOD, SDIE, identifier (16 R407). -/
def admitKey (h : Beat) (bs : List Beat) : Nat := (hSmod h * 32 + hSdie h) * 2 ^ 48 + bIdent bs

/-- Whether a packet has its turn: one that comes after a later one in the same cycle reaches the unit in the next
(16 R407; DEDUCED, log 101). -/
def admitTurn (s : State) (die key : Nat) : Bool :=
  match (s.die die).inv.lastAdm with
  | some (t, k) => t != s.now || k ≤ key
  | none => true

/-- INVOKE (16 R402, R405, R407): a peer's has met its ingress at the port. -/
def doInvoke (s : State) (die : Nat) (h : Beat) (bs : List Beat) : State :=
  let ident := bIdent bs
  if !hdrOk h || hTyp h != 5 || bs.length != bbits h 123 120 then dropPacket s die
  else if takesNone s die then sendAnswer s die h ident (-5)
  else if !admitTurn s die (admitKey h bs) then again s (.invoke die h bs)
  else if hSmod h = s.modnum die ∧ !sameTenant s die h ∧ !invokePasses s die h bs then
    sendAnswer (s.modInv die (fun u => { u with denies := upTo u.denies 16 })) die h ident (-3)
  else match (s.die die).inv.filter.find? (fun p => p.1 == ident) with
  | some (_, a) => sendAnswer s die h ident (BitVec.ofNat 8 a).toInt
  | none =>
    let (a, s) := admitReq s die { hdr := h, beats := bs, token := tokenOf s h bs }
    let s := s.tock.modInv die (fun u => { u with lastAdm := some (s.now, admitKey h bs), filter := (u.filter ++ [(ident, statusByte a)]).drop (u.filter.length + 1 - 64) })
    sendAnswer s die h ident a

/-- INVOKE (16 R407). -/
def execInvoke (s : State) : Outc :=
  match s.ev with
  | some (.invoke die h bs) => evDo (.invoke die h bs) (doInvoke (leaveBuffer s h bs) die h bs)
  | _ => .fault .noSuchUnit

/-- Heads of a handler's ring move into their queues, as the ring holds them, while quota and room last (16 R406, R408); those
of an invalid entry move on to be discarded at placement (16 R413). -/
def moveRing (s : State) (die h : Nat) : Nat → State
  | 0 => s
  | n + 1 =>
    let u := (s.die die).inv
    let e := s.handler (s.partOf die) h
    match u.ring h with
    | [] => s
    | r0 :: rest =>
      let r := readRecord s r0
      if (bitAt e 31 && u.held h ≥ bits e 30 24) || !u.room r.prio then s
      else moveRing (enterInvQueue (s.modInv die (fun u => { u with spill := if rest.isEmpty then terase u.spill h else tset u.spill h rest })) die r) die h n

/-- SPILL_RING_MOVE (16 R408). -/
def execSpillRingMove (s : State) : Outc :=
  match s.ev with
  | some (.spillRingMove die h) => evDo (.spillRingMove die h) (moveRing s die h 256)
  | _ => .fault .noSuchUnit

/-- The head of a queue leaves it: the ring of its handler moves before any packet is admitted, and the next head is offered
(16 R408, R409). -/
def popInvQueue (s : State) (die q : Nat) : State :=
  let left := (((s.die die).inv.queue q).head?.map InvRec.handler).getD 0
  let rest := match ((s.die die).inv.queue q).drop 1 with
    | r :: l => { r with since := s.now } :: l
    | [] => []
  let s := s.modInv die (fun u => { u with queues := if rest.isEmpty then terase u.queues q else tset u.queues q rest })
  let s := moveRing s die left 256
  if rest.isEmpty then s else s.dueOnce (.invocationPlacement die q)

/-- Size of the group that a record asks for. -/
def InvRec.size (r : InvRec) : Nat := bbits r.hdr 51 46 + 1
/-- STRM of a record. -/
def InvRec.strm (r : InvRec) : Bool := bbits r.hdr 41 41 == 1
/-- The arguments of a record: two to a beat (16 R402). -/
def InvRec.args (r : InvRec) : List (BitVec 64) :=
  (List.range (bbits r.hdr 45 42)).map (fun k => BitVec.ofNat 64 ((r.beats.getD (1 + k / 2) 0).toNat / 2 ^ (64 * (k % 2))))

/-- The slots for a record's group on a core (16 R409). -/
def invSlots (s : State) (r : InvRec) (h core : Nat) : Option (List Nat) :=
  let ks := openSlots s core false
  if ks.length < r.size ∨ !targetOk s core (bits h 43 32) ∨ (r.strm ∧ ((s.core core).queue 5).used ≠ 0) then none
  else some (ks.take r.size)

/-- Slots and descriptor blocks for a record's group on a core (16 R409, 05 R116). -/
def invRoom (s : State) (r : InvRec) (h core : Nat) : Option (List Nat × List Nat) :=
  (invSlots s r h core).bind (fun ks => (lowBlocks (limOf (bits h 19 18)) r.size (heldBlocks s core)).map (fun bs => (ks, bs)))

/-- What a member of rank k is given (16 R409, R410, 05 R125): a pc is a multiple of 4 (03 R53), and bits [1:0] of ENTRY and
[6:0] of RINGBASE count for nothing (DESIGN CHOICE, log 100). -/
def invBirth (r : InvRec) (h id k : Nat) : Birth :=
  let args := if r.strm then [] else r.args
  { pc := BitVec.ofNat 64 (bits h 15 2 * 4), win := winOf (bits h 17 16), tlim := limOf (bits h 19 18), elastic := false,
    regs := (2, 65536) :: args.zipIdx.map (fun p => (10 + p.2, p.1)), sgs := ({ pc := 0 } : Thread).sgs,
    num := { lindex := BitVec.ofNat 64 k, lcount := BitVec.ofNat 64 r.size, grank := BitVec.ofNat 64 k, gsize := BitVec.ofNat 64 r.size, rtoken := r.token },
    launch := id, group := 0, made := .invoked }

/-- A group is placed on a core: a launch of its own; under STRM the arguments enter the core's argument queue
(15 R369, 16 R409). -/
def placeGroup (s : State) (die core h : Nat) (r : InvRec) (ks bs : List Nat) : State :=
  let id := s.nextId
  let l : Launch := { record := { dw := [], segs := [], owner := bits h 43 32 }, home := die, kind := 2, waiting := false, entered := s.now, live := r.size, inv := some r }
  let s := createGroup { s with launches := tset s.launches id l }.fresh core ks bs (invBirth r h id)
  if r.strm then
    noteWaits (s.modCore core (fun c =>
      let q := c.queue 5
      let ws := r.args.map (fun v => ({ val := v, mark := none, slot := core * 64 + ks.headD 0 } : PortWord))
      c.setQueue 5 { q with words := q.words ++ ws, tail := (q.tail + ws.length) % 16 }))
  else s

/-- The cores on which a record may be placed now, in coordinate order (16 R409). -/
def invPool (s : State) (die q h : Nat) (r : InvRec) : List Nat :=
  let cs := if r.any then List.range' (die * 12800) 12800 else (r.hint die).toList
  cs.filter (fun c => s.ownerOf c == bits h 43 32 && !heldBack s (r.rank s q) c && (invSlots s r h c).isSome)

/-- INVOCATION_PLACEMENT (16 R409): the head is placed, discarded, or offered again; so is one whose core lacks descriptor
blocks, or that has served a later creation of this cycle (05 R134), whose draw does not count (05 R116; DESIGN CHOICE, log 100). -/
def doInvPlacement (s : State) (die q : Nat) : State :=
  match ((s.die die).inv.queue q).head? with
  | none => s
  | some r =>
    let h := s.handler (s.partOf die) r.handler
    if !bitAt h 31 then
      let s := popInvQueue s die q
      if bitAt r.token.toNat 63 then
        sendAnswer (s.modInv die (fun u => { u with invalids := upTo u.invalids 16 })) die r.hdr (bIdent r.beats) (-2)
      else s
    else
      let pool := invPool s die q h r
      let o := bits h 43 32
      let ent := s.ownerEnt die o
      let u := bits (drawOf ent.seed 0xF10000 ent.elasticN).toNat 31 0
      match pool[if r.any then u * pool.length / 2 ^ 32 else 0]? with
      | none => again s (.invocationPlacement die q)
      | some core =>
        match (if makeTurn s core 0 then invRoom s r h core else none) with
        | none => again s (.invocationPlacement die q)
        | some (ks, bs) =>
          let s := noteMake s core 0
          let s := if r.any then s.modOwner die o (fun e => { e with elasticN := (e.elasticN + 1) % 2 ^ 40 }) else s
          popInvQueue (placeGroup s die core h r ks bs) die q

/-- INVOCATION_PLACEMENT (16 R409). -/
def execInvocationPlacement (s : State) : Outc :=
  match s.ev with
  | some (.invocationPlacement die q) => evDo (.invocationPlacement die q) (doInvPlacement s die q)
  | _ => .fault .noSuchUnit

/-! ### Replies (16 R410, R411) -/

/-- rreply (16 R411): a token without VALID does nothing. -/
def rreplyBody (e : Env) : Res :=
  match e.ag with
  | .sextant _ _ => doneS e.s
  | .thread slot =>
    let k := e.a.toNat
    let die := e.ag.die
    if !bitAt k 63 then doneS e.s
    else releasing e (clamped e.s e.ag 5) (if e.th.cnt.s ≥ 63 then .park (.counterFull 1) e.th.prog e.s
    else
      let id := e.s.nextId
      let h := mkHdr 6 1 (bits k 62 47) (e.s.modnum die) (bits k 46 42) die 0 0
      let bs := [BitVec.ofNat 128 (k * 2 ^ 64 + e.b.toNat)]
      let s := e.s.modTh e.ag (fun t => { t with cnt := { t.cnt with s := t.cnt.s + 1 } })
      let s := { s with reqs := tset s.reqs id (.reply slot e.th.tag die (s.answerPort die) h bs false) }.fresh
      withClamp e.ag 5 (doneS (s.due (.requestReplayTimeout id))))

/-- rreply (16 R411). -/
def execRreply (a b : BitVec 5) (st : State) : Outc := runIns st (.rreply a b) { srcs := [(1, a), (2, b)] } rreplyBody

/-- The entry that a token names, if it takes the reply (16 R411). -/
def replyEntry (s : State) (die : Nat) (h : Beat) (k : Nat) : Option (Nat × Nat × JEnt) :=
  let core := (die * 200 + bits k 41 34) * 64 + bits k 33 28
  match tfind (s.core core).journal (bits k 21 17) with
  | some j =>
    if j.typ = 2 ∧ j.reply ∧ j.reason = 0 ∧ bits k 41 34 < 200 ∧ j.seq.toNat % 2 ^ 17 = bits k 16 0 ∧ bits j.pointer.toNat 63 48 = hSmod h ∧
        bits j.pointer.toNat 44 40 = hSdie h then some (core, bits k 21 17, j) else none
  | none => none

/-- A reply of this module has been accepted: S of its thread falls (16 R411). -/
def replyAccepted (s : State) (h : Beat) (bs : List Beat) : State :=
  match s.reqs.find? (fun p => match p.2 with | .reply _ _ _ _ h' bs' left => left && h' == h && bs' == bs | _ => false) with
  | some (id, .reply slot tag _ _ _ _ _) => ({ s with reqs := terase s.reqs id }).modTag (.thread slot) tag (fun t => t.uncount false)
  | _ => s

/-- REPLY (16 R411): taken or dropped; one into a partition in reset is discarded (18 R452). -/
def doReply (s : State) (die : Nat) (h : Beat) (bs : List Beat) : State :=
  if !hdrOk h || hTyp h != 6 || bs.length != bbits h 123 120 then dropPacket s die
  else
    let s := replyAccepted s h bs
    let b := (beat1 bs).toNat
    if s.fenced (s.partOf die) then s
    else match replyEntry s die h (b / 2 ^ 64) with
    | some (core, k, j) => endInvocation (if hSmod h = s.modnum die then groupAnswered s (hSdie h) (b / 2 ^ 64) else s) core k j 0 (BitVec.ofNat 64 (b % 2 ^ 63))
    | none => s.modInv die (fun u => { u with replyDrops := upTo u.replyDrops 16 })

/-- REPLY (16 R411). -/
def execReply (s : State) : Outc :=
  match s.ev with
  | some (.reply die h bs) => evDo (.reply die h bs) (doReply (leaveBuffer s h bs) die h bs)
  | _ => .fault .noSuchUnit

/-! ### The end of a launch (15 R371, R383; 16 R411) -/

/-- LAUNCH_DONE: DONE is decremented, NOREPLY answered, the messages discarded, the queue packet completed. -/
def doLaunchDone (s : State) (id : Nat) : State :=
  match tfind s.launches id with
  | none => s
  | some l =>
    if l.waiting ∨ l.live ≠ 0 then s
    else
      let s := doneDecrement { s with launches := terase s.launches id } l.home l.record.owner l.record.done
      let s := match l.inv with
        | some r => if bitAt r.token.toNat 63 then sendAnswer s l.home r.hdr (bIdent r.beats) (-7) else s
        | none => s
      let gone := (s.die l.home).msgs.filter (fun m => m.launch == id)
      let s := s.modDie l.home (fun d => { d with msgs := d.msgs.filter (fun m => m.launch != id) })
      let s := gone.foldl (fun s _ => s.dieEv l.home 3 l.record.owner) s
      match l.packet with
      | some (part, _, k) => s.due (.packetComplete part k)
      | none => s

/-- LAUNCH_DONE (15 R371). -/
def execLaunchDone (s : State) : Outc :=
  match s.ev with
  | some (.launchDone id) => evDo (.launchDone id) (doLaunchDone s id)
  | _ => .fault .noSuchUnit

/-! ### impset, expset, htset (16 R413) -/

/-- Whether an import image is malformed (16 R403): PORT is ignored within the module (DEDUCED, log 21). -/
def importBad (s : State) (part module : Nat) (v : Nat) : Bool :=
  bits v 31 30 == 3 || bits v 29 12 != 0 || (bits v 63 48 != module && (bits v 35 32 > 11 || s.partOf (portDie (bits v 35 32)) != part))

/-- Whether an export image has a reserved bit or KIND (16 R404). -/
def exportBad (v : Nat) : Bool := bits v 191 158 != 0 || bitAt v 149 || bits v 127 105 != 0 || bits v 145 144 == 3

/-- Whether a handler image has a reserved bit or POLICY, a QUOTA outside 1 to 64, or is valid with a RINGN that disagrees with
its POLICY (16 R406, R413). -/
def handlerBad (v : Nat) : Bool :=
  bits v 127 116 != 0 || bits v 47 44 != 0 || bits v 23 22 != 0 || bits v 21 20 == 3 ||
    bits v 30 24 == 0 || bits v 30 24 > 64 || (bitAt v 31 && ((bits v 21 20 == 1) != (bits v 63 48 != 0)))

/-- The rings of a partition's dies that hold records may drain under a changed entry (16 R413). -/
def drainRings (s : State) (part : Nat) : State :=
  s.dues ((s.diesOf part).flatMap (fun d => (s.die d).inv.spill.map (fun p => Event.spillRingMove d p.1)))

/-- A table instruction: pointer, index, image and owner checked, then the entry written, and the thread parks until every die
holds it (16 R413; log 64). -/
def tableBody (n : Nat) (bad : State → Nat → Bool) (ownerOf_ : Nat → Nat) (old : Part → Nat → Nat) (put : Part → Nat → Nat → Part) (e : Env) : Res :=
  let part := e.s.partOf e.ag.die
  if e.th.prog = .met then doneS e.s else
  let seg := bits e.b.toNat 63 61
  let k := e.a.toNat
  match reach e { specImage n (if n = 32 then 32 else 16) with acc := 0 } e.b with
  | .stop r => r
  | .ok s x =>
    if bits k 63 12 ≠ 0 then illegal e.i 14 0
    else match readImage e s x n with
    | .error r => r
    | .ok v =>
      let me := s.ownerOf e.ag.core
      if bad s v then .trap .segForm e.b (info142 17 0 false seg)
      else if me ≠ 0 ∧ (ownerOf_ v ≠ me ∨ ownerOf_ (old (s.part part) k) ≠ me) then .trap .segRights e.b (info142 16 0 false seg)
      else .park .table .met (drainRings ((imageDone e s x n).modPart part (fun p => put p k v)) part)

/-- impset (16 R413). -/
def execImpset (a b : BitVec 5) (st : State) : Outc :=
  runIns st (.impset a b) { srcs := [(1, a), (2, b)], kOnly := true } (fun e =>
    tableBody 16 (fun s v => importBad s (s.partOf e.ag.die) (s.modnum e.ag.die) v) (fun v => bits v 11 0) (fun p k => (tget p.imports k 0).toNat)
      (fun p k v => { p with imports := if v = 0 then terase p.imports k else tset p.imports k (BitVec.ofNat 128 v) }) e)

/-- expset (16 R413). -/
def execExpset (a b : BitVec 5) (st : State) : Outc :=
  runIns st (.expset a b) { srcs := [(1, a), (2, b)], kOnly := true }
    (tableBody 32 (fun _ v => exportBad v) (fun v => bits v 63 52) (fun p k => (tget p.exports k 0).toNat)
      (fun p k v => { p with exports := if v = 0 then terase p.exports k else tset p.exports k (BitVec.ofNat 256 v) }))

/-- htset (16 R413). -/
def execHtset (a b : BitVec 5) (st : State) : Outc :=
  runIns st (.htset a b) { srcs := [(1, a), (2, b)], kOnly := true }
    (tableBody 16 (fun _ v => handlerBad v) (fun v => bits v 43 32) (fun p k => (tget p.handlers k 0).toNat)
      (fun p k v => { p with handlers := if v = 0 then terase p.handlers k else tset p.handlers k (BitVec.ofNat 128 v) }))

end Sys2Proof.Machine
end

