-- ==== Sys2Proof/Machine/Queue.lean ====
section
/-!
DEFINITION. Queue: the packets of the command queues (19 R462-R464), the scheduler (19 R466), and wpk, qkick and qstat of
Sextant (19 R468-R470).
-/
namespace Sys2Proof.Machine

/-! ### Halting (19 R464) -/

/-- Unbind a slot (19 R465). -/
def unbindSlot (s : State) (p slot : Nat) : State :=
  s.modQmap p (fun m => { m with
    qcbs := (match tfind m.slots slot with | some x => terase m.qcbs x.1 | none => m.qcbs), slots := terase m.slots slot, leaving := terase m.leaving slot })

/-- A queue halts: STATE HALTED in its QCB with its code, its slot free, its vector sent (19 R464). -/
def haltQueue (s : State) (p q : Nat) (c : Qcb) (err : Nat) : State :=
  let s := match slotOfQueue s p q with | some k => (unbindSlot s p k).dueOnce (.schedulerRun p) | none => s
  let s := setQstate s (s.frontDie p) c 2 err
  if c.vec = 0x7FF then s else s.out (.msix (fnOf s p) c.vec)

/-- A packet in flight, of a partition. -/
def packetOf (s : State) (p k : Nat) : Option Packet := tfind (s.part p).packets k

/-- The state with a packet replaced. -/
def setPacket (s : State) (p k : Nat) (x : Packet) : State := s.modPart p (fun r => { r with packets := tset r.packets k x })

/-- The state without a packet. -/
def dropQueuePacket (s : State) (p k : Nat) : State :=
  (dropClaim s (packetWaiter p k)).modPart p (fun r => { r with packets := terase r.packets k })

/-- Packets of a queue in flight. -/
def inFlight (s : State) (p q : Nat) : Nat := ((s.part p).packets.filter (fun x => x.2.queue == q)).length

/-- The QCB from which a packet was started, as it stands. -/
def Packet.control (x : Packet) (s : State) : Qcb := { at_ := x.qcb, img := s.rd x.qcb 64 }

/-- A packet that is refused: the queue halts with RD at the packet's first byte (19 R464, log 29). -/
def refusePacket (s : State) (p k : Nat) (x : Packet) (err : Nat) : State :=
  let c := x.control s
  haltQueue (setQrd (dropQueuePacket s p k) (s.frontDie p) c x.start) p x.queue c err

/-! ### Packets (19 R462) -/

/-- LEN of a header. -/
def pkLen (h : Nat) : Nat := bits h 47 16
/-- TYPE of a header. -/
def pkTyp (h : Nat) : Nat := bits h 3 0
/-- BAR of a header; RESET_QUEUE waits as though it were set. -/
def pkBar (h : Nat) : Bool := bitAt h 4 || pkTyp h == 8

/-- Bytes of a ring from an offset. -/
def ringBytes (s : State) (p : Nat) (c : Qcb) (r n : Nat) : List (BitVec 8) :=
  match sxPlace (s.frontDie p) c.rbase with
  | some a => (List.range n).map (fun i => memRead s.mem (a + (r + i) % c.size))
  | none => []

/-- Whether a physical address of a packet is 8-aligned and has the form of 19 R460. -/
def pkAddrOk (s : State) (p a : Nat) : Bool := a % 8 == 0 && (sxPlace (s.frontDie p) a).isSome

/-- Whether a LAUNCH packet's segment offsets name images within it (19 R462). -/
def pkSegsOk (x : Packet) : Bool :=
  (List.range' 5 7).all (fun n => let o := x.d (2 + n); o == 0 || (o % 16 == 0 && 112 ≤ o && o + 16 ≤ x.bytes.length))

/-- Whether the body of a packet is what its row in 19 R462 requires. -/
def pkBodyOk (s : State) (p : Nat) (x : Packet) : Bool :=
  let len := x.bytes.length
  let arg := x.d 1
  match x.typ with
  | 1 => arg == 0 && len ≥ 112 && len ≤ 224 && pkSegsOk x
  | 2 => len == 32 && 1 ≤ arg && arg < 2 ^ 32
  | 3 => len == 48 && arg ≤ 3 && pkAddrOk s p (x.d 2) && x.d 5 == 0
  | 4 => len == 32 && pkAddrOk s p (x.d 2) && x.d 3 < 2 ^ 11
  | 5 =>
    let n := bits (x.d 3) 27 24
    arg == 0 && len == 32 + 16 * ceilDiv n 2 && (n % 2 == 0 || x.d (4 + n) == 0)
  | 6 => len == 32 && arg == 0 && pkAddrOk s p (x.d 2) && x.d 3 == 0
  | 7 => len ≥ 16
  | _ => arg == 0 && len == 16

/-- The code with which a packet is malformed: from its header and the ring, then from its body (19 R464). -/
def pkMalformed (s : State) (p : Nat) (c : Qcb) (h : Nat) (x : Packet) : Option Nat :=
  if pkLen h = 0 then some 1
  else if pkLen h > c.size - 16 then some 2
  else if pkLen h > c.avail then some 3
  else if pkTyp h = 0 ∨ pkTyp h ≥ 9 then some 4
  else if bits h 63 48 ≠ 0 ∨ bits h 15 5 ≠ 0 ∨ pkLen h % 16 ≠ 0 ∨ pkBodyOk s p x = false then some 5
  else none

/-- The row that a packet's action is. -/
def pkEvent (p k typ : Nat) : Event :=
  match typ with
  | 1 => .launch p k
  | 2 => .copy p k
  | 3 => .wait p k
  | 4 => .signal p k
  | 5 => .queueInvoke p k
  | 6 => .timestamp p k
  | 7 => .nop p k
  | _ => .resetQueue p k

/-- Whether the start of a queue's packets must wait: for host memory that is held, or for room in the filter of its QCB's
slice (18 R452; 08 R214). -/
def startHeld (s : State) (p : Nat) (c : Qcb) : Bool :=
  heldAt s p c.at_ || (match sxPlace (s.frontDie p) c.rbase with | some a => heldAt s p a | none => false) || !filtersTake s [c.at_]

/-- Whether a queue has a RESET_QUEUE in flight, after which alone the next packet starts (19 R462). -/
def resetWaits (s : State) (p q : Nat) : Bool := (s.part p).packets.any (fun x => x.2.queue == q && x.2.typ == 8)

/-- QUEUE_PACKET_START: the next packet of a mapped queue is read and begun, or its queue halts, or it waits
(19 R463, R464). -/
def doPacketStart (s : State) (p q : Nat) : State :=
  let again_ := s.dueOnce (.queuePacketStart p q)
  match qcbOf s p q, slotOfQueue s p q with
  | some c, some slot =>
    if c.state ≠ 1 ∨ (tfind (s.qmap p).leaving slot).isSome ∨ s.fenced p = true then s
    else if startHeld s p c then again_
    else if qcbBad s p c then haltQueue s p q c 9
    else if c.avail < 16 then s
    else
      let h := (ringBytes s p c c.rd 8).foldr (fun b v => b.toNat + 256 * v) 0
      let x : Packet := { queue := q, owner := c.owner, typ := pkTyp h, bytes := ringBytes s p c c.rd (min (pkLen h) c.avail), start := c.rd, time := s.timeNs (s.frontDie p), qcb := c.at_ }
      match pkMalformed s p c h x with
      | some e => haltQueue s p q c e
      | none =>
        let n := inFlight s p q
        if n ≥ 16 ∨ (pkBar h = true ∧ n ≠ 0) ∨ resetWaits s p q = true ∨ (s.part p).thermalHold = true then again_
        else
          let k := s.nextId
          let s := setQrd s (s.frontDie p) c ((c.rd + pkLen h) % c.size)
          ((setPacket s.fresh p k x).due (pkEvent p k x.typ)).dueOnce (.queuePacketStart p q)
  | _, _ => s

/-- QUEUE_PACKET_START (19 R463). -/
def execQueuePacketStart (s : State) : Outc :=
  match s.ev with
  | some (.queuePacketStart p q) => evDo (.queuePacketStart p q) (doPacketStart s p q)
  | _ => .fault .noSuchUnit

/-- A packet of a type, for its row, once nothing holds its QCB. -/
def withPacket (s : State) (p k typ : Nat) (f : Packet → State) : State :=
  match packetOf s p k with
  | some x => if x.typ ≠ typ then s else if heldAt s p x.qcb then again s (pkEvent p k typ) else f x
  | none => s

/-- A packet's effects are performed: its completion is due. -/
def pkDone (s : State) (p k : Nat) : State := s.due (.packetComplete p k)

/-- PACKET_COMPLETE: CDONE is incremented (19 R463). -/
def doPacketComplete (s : State) (p k : Nat) : State :=
  match packetOf s p k with
  | none => s
  | some x =>
    if heldAt s p x.qcb ∨ filtersTake s [x.qcb] = false then again s (.packetComplete p k) else
    let c := x.control s
    let s := setQdone (dropQueuePacket s p k) (s.frontDie p) c (c.cdone + 1)
    (s.dueOnce (.queuePacketStart p x.queue)).dueOnce (.schedulerRun p)

/-- PACKET_COMPLETE (19 R463). -/
def execPacketComplete (s : State) : Outc :=
  match s.ev with
  | some (.packetComplete p k) => evDo (.packetComplete p k) (doPacketComplete s p k)
  | _ => .fault .noSuchUnit

/-- The die of a queue's thread. -/
def queueDie (s : State) (p q : Nat) : Nat := match slotOfQueue s p q with | some k => k / 32 | none => s.frontDie p

/-! ### LAUNCH -/

/-- The record of a LAUNCH packet: dwords 2 to 13 with the images its offsets name. -/
def pkRecord (x : Packet) : LRec :=
  { dw := (List.range 12).map (fun n => BitVec.ofNat 64 (x.d (2 + n))), owner := x.owner,
    segs := (List.range' 5 7).map (fun n => let o := x.d (2 + n) / 8; if o = 0 then 0 else BitVec.ofNat 128 (x.d o + x.d (o + 1) * 2 ^ 64)) }

/-- A LAUNCH packet's submission: as `lnch` of its owner; full ready queues are tried again (19 R462). -/
def doPkLaunch (s : State) (p k : Nat) : State :=
  withPacket s p k 1 (fun x =>
    match submit s (pkRecord x) (queueDie s p x.queue) (some (p, x.queue, k)) with
    | (0, t) => t
    | (-1, t) => t.due (.launchRetry p k)
    | (_, t) => refusePacket t p k x 6)

/-- LAUNCH (19 R462). -/
def execLaunch (s : State) : Outc :=
  match s.ev with
  | some (.launch p k) => evDo (.launch p k) (doPkLaunch s p k)
  | _ => .fault .noSuchUnit

/-- LAUNCH_RETRY (19 R462). -/
def execLaunchRetry (s : State) : Outc :=
  match s.ev with
  | some (.launchRetry p k) => evDo (.launchRetry p k) (doPkLaunch s p k)
  | _ => .fault .noSuchUnit

/-! ### COPY -/

/-- Where an address of a COPY stands: a host address, or a device-virtual one of the owner; one above 2^52 is mapped by no page
(DESIGN CHOICE, log 122). -/
def pkLocate (s : State) (p k die : Nat) (x : Packet) (w : Bool) (a : Nat) : Loc :=
  let wait := fun (t : State) (f : Nat × Nat) => Loc.wait (setPacket t p k { x with fault := some f })
  if x.deny ≠ 0 then .denied x.deny
  else if bitAt a 63 then .place (aHost (bits a 51 0)) false s
  else if bits a 62 52 ≠ 0 then .denied 11
  else match translateUnit s { num := packetWaiter p k, cls := 1, first := 0, cluster := die * 200, die := die, owner := x.owner } a (if w then 6 else 5) with
  | .park (.page d e) t => wait t (d, e)
  | .park _ t => wait t (die, 257)
  | .denied r => .denied r
  | .leaf e t =>
    match leafCheck e.leaf.toNat { r := !w, w := w } with
    | some (_, r) => .denied r
    | none => .place (aDev (leafPa e.big e.leaf.toNat a)) (bitAt e.leaf.toNat 6) t

/-- The writer record of a queue copy (08 R216): a unit of the front end, named by its die in place of a cluster and an engine
(DESIGN CHOICE, log 113). -/
def pkWriter (o die : Nat) : Writer := { cls := 1, owner := o, ident := die * 2 ^ 24, tag := 0, core := 409600 }

/-- A queue's copy as an access, for what it sees of stores on their way: those visible at its die (08 R206, R208). -/
def pkAccess (p k die : Nat) (x : Packet) (a n : Nat) : Access :=
  { agent := .sextant die 63, tag := 2 ^ 61 + packetWaiter p k, core := die * 12800, owner := x.owner, kind := .load false, ea := 0, seg := 0, addr := a, size := n }

/-- Whether a place waits for a migration, or is host memory that is held (08 R213, 18 R452). -/
def pkBlocked (s : State) (p a : Nat) : Bool := recalled s a || heldAt s p a

/-- Bytes of the destination unit that a COPY writes next: to the end of its 256-byte line (08 R206). -/
def pkUnit (x : Packet) : Nat := min (x.d 1 - x.pos) (256 - (x.d 3 + x.pos) % 256)

/-- The first source word of the next unit that has not been read (08 R208). -/
def pkUnread (x : Packet) : Option Nat :=
  let src := x.d 2 + x.pos
  ((List.range 33).map (fun i => src / 8 * 8 + 8 * i)).find? (fun w => w < src + pkUnit x && (tfind x.seen w).isNone)

/-- The word read that holds a source byte. -/
def pkWord (x : Packet) (a : Nat) : BitVec 64 × Bool := tget x.seen (a / 8 * 8) (0, false)

/-- The next unit of a COPY at its places: bytes with the mark of the words that they came from. -/
def pkBytes (x : Packet) (b : Nat) : Tbl (Nat × Bool) :=
  (List.range (pkUnit x)).map (fun i =>
    let a := x.d 2 + x.pos + i
    (b + i, bits (pkWord x a).1.toNat (8 * (a % 8) + 7) (8 * (a % 8)), (pkWord x a).2))

/-- A COPY writes its next unit whole, each granule in one step; the granules of marked words are marked (08 R206; 11 R288). -/
def pkMove (s : State) (p k die : Nat) (x : Packet) (b : Nat) (sh : Bool) : State :=
  let l := pkBytes x b
  let s := writeBytes s (pkWriter x.owner die) (fun s a n => unitLine s x.owner die a n sh) (l.map (fun y => (y.1, y.2.1)))
  let s := (enterFilter s b (identCls 4 die s.nextId)).fresh
  let bad := l.filter (fun y => y.2.2)
  let s := markGranules s (bad.map Prod.fst)
  let pos := x.pos + l.length
  setPacket s p k { x with pos := pos, poisoned := x.poisoned || !bad.isEmpty, fault := none, seen := x.seen.filter (fun w => x.d 2 + pos < w.1 + 8) }

/-- One step of a COPY (19 R462; 08 R206, R208; 11 R288; 17 R424): a granule of its source is read, each word once, until its next
unit is there; the unit is then written whole. -/
def doPkCopy (s : State) (p k : Nat) : State :=
  withPacket s p k 2 (fun x =>
    let die := queueDie s p x.queue
    let again_ := fun (t : State) => t.due (.copy p k)
    if faultHolds s (packetWaiter p k) x.fault then again_ s
    else if x.pos ≥ x.d 1 then (if x.poisoned then refusePacket s p k x 8 else pkDone s p k)
    else
      match pkUnread x with
      | some w =>
        match pkLocate s p k die x false w with
        | .wait t => again_ t
        | .denied _ => refusePacket s p k x 8
        | .place a sh t =>
          let a := a - a % 32
          if pkBlocked t p a then again_ t
          else match claimStep t (packetWaiter p k) x.owner (unitRead t (unitPlace die) a 32) with
          | .wait t => again_ t
          | .thru t =>
            let t := unitLine t x.owner die a 32 sh
            again_ (setPacket t p k { x with seen := granuleSeen t (pkAccess p k die x a 32) w (a + w % 32) x.seen, fault := none })
      | none =>
        match pkLocate s p k die x true (x.d 3 + x.pos) with
        | .wait t => again_ t
        | .denied _ => refusePacket s p k x 8
        | .place b sh t =>
          if pkBlocked t p b then again_ t
          else match claimStep t (packetWaiter p k) x.owner (unitWrite t (unitPlace die) b (pkUnit x)) with
          | .wait t => again_ t
          | .thru t => again_ (pkMove t p k die x b sh))

/-- COPY (19 R462). -/
def execCopy (s : State) : Outc :=
  match s.ev with
  | some (.copy p k) => evDo (.copy p k) (doPkCopy s p k)
  | _ => .fault .noSuchUnit

/-! ### WAIT, SIGNAL, TIMESTAMP, NOP, RESET_QUEUE -/

/-- A dword at a physical address of Sextant's (19 R460). -/
def pkRead (s : State) (die a : Nat) : Nat :=
  match sxPlace die a with
  | some x => if spaceOf x = 8 then (match sxReg (offOf x % 2 ^ 43) with | some r => regGet s die r | none => 0) else s.rd x 8
  | none => 0

/-- A dword stored there. -/
def pkWrite (s : State) (die a v : Nat) : State :=
  match sxPlace die a with
  | some x => if spaceOf x = 8 then sxRegWrite s die (offOf x % 2 ^ 43) v else frontStore s die x v 8
  | none => s

/-- Whether a packet's access to its address must wait: host memory is held, or a store finds the filter full (18 R452; 08
R214). -/
def pkHeld (s : State) (p : Nat) (x : Packet) : Bool :=
  match sxPlace (s.frontDie p) (x.d 2) with
  | some y => heldAt s p y || (x.typ != 3 && !filtersTake s [y])
  | none => false

/-- Whether the condition of a WAIT holds, or a re-read has met it (19 R462). -/
def waitHolds (s : State) (p : Nat) (x : Packet) : Bool := x.met || x.meets (pkRead s (s.frontDie p) (x.d 2))

/-- A WAIT reads its address: it completes, or reads again (19 R462). -/
def doPkWait (s : State) (p k : Nat) : State :=
  withPacket s p k 3 (fun x => if !pkHeld s p x && waitHolds s p x then pkDone s p k else s.due (.waitReread p k))

/-- WAIT (19 R462). -/
def execWait (s : State) : Outc :=
  match s.ev with
  | some (.wait p k) => evDo (.wait p k) (doPkWait s p k)
  | _ => .fault .noSuchUnit

/-- WAIT_REREAD (19 R462). -/
def execWaitReread (s : State) : Outc :=
  match s.ev with
  | some (.waitReread p k) => evDo (.waitReread p k) (doPkWait s p k)
  | _ => .fault .noSuchUnit

/-- SIGNAL: the store, then the vector unless 0x7FF (19 R462). -/
def doPkSignal (s : State) (p k : Nat) : State :=
  withPacket s p k 4 (fun x =>
    if pkHeld s p x then again s (.signal p k) else
    let s := pkWrite s (s.frontDie p) (x.d 2) (x.d 1)
    pkDone (if x.d 3 = 0x7FF then s else s.out (.msix (fnOf s p) (x.d 3))) p k)

/-- SIGNAL (19 R462). -/
def execSignal (s : State) : Outc :=
  match s.ev with
  | some (.signal p k) => evDo (.signal p k) (doPkSignal s p k)
  | _ => .fault .noSuchUnit

/-- TIMESTAMP: the time of the packet's start is stored (19 R462). -/
def doPkTimestamp (s : State) (p k : Nat) : State :=
  withPacket s p k 6 (fun x =>
    if pkHeld s p x then again s (.timestamp p k) else pkDone (pkWrite s (s.frontDie p) (x.d 2) x.time) p k)

/-- TIMESTAMP (19 R462). -/
def execTimestamp (s : State) : Outc :=
  match s.ev with
  | some (.timestamp p k) => evDo (.timestamp p k) (doPkTimestamp s p k)
  | _ => .fault .noSuchUnit

/-- NOP (19 R462). -/
def execNop (s : State) : Outc :=
  match s.ev with
  | some (.nop p k) => evDo (.nop p k) (withPacket s p k 7 (fun _ => pkDone s p k))
  | _ => .fault .noSuchUnit

/-- RESET_QUEUE: RD becomes WR, CDONE becomes 0 (19 R462). -/
def doPkReset (s : State) (p k : Nat) : State :=
  withPacket s p k 8 (fun x =>
    let c := x.control s
    pkDone (setQdone (setQrd s (s.frontDie p) c c.wr) (s.frontDie p) c 0) p k)

/-- RESET_QUEUE (19 R462). -/
def execResetQueue (s : State) : Outc :=
  match s.ev with
  | some (.resetQueue p k) => evDo (.resetQueue p k) (doPkReset s p k)
  | _ => .fault .noSuchUnit

/-! ### INVOKE -/

/-- What a status makes of a packet's invocation: done, tried again, or a halt (19 R462, R464). -/
def pkAnswered (s : State) (p k : Nat) (x : Packet) (a : Int) : State :=
  if a = 0 ∨ a = 1 then pkDone s p k
  else if a = -1 then (setPacket s p k { x with answer := none }).due (.invokeRetry p k)
  else refusePacket s p k x 7

/-- A status arrives for a packet's invocation. -/
def pkInvokeAnswer (s : State) (p k : Nat) (a : Int) : State :=
  match packetOf s p k with
  | some x => (setPacket s p k { x with answer := some a }).due (.queueInvoke p k)
  | none => s

/-- An INVOKE packet: as `rinv` of its owner, without a reply (19 R462); it leaves through the points of its way (17 R424). -/
def doPkInvoke (s : State) (p k : Nat) : State :=
  withPacket s p k 5 (fun x =>
    match x.answer with
    | some a => pkAnswered s p k x a
    | none =>
    let die := queueDie s p x.queue
    let tw := x.d 2
    let hw := x.d 3
    if invMalformed tw hw then pkAnswered s p k x (-4)
    else if invOutside s die tw ∧ !importServes s die x.owner tw then pkAnswered s p k x (-3)
    else
      let id := s.nextId
      let args := (List.range (bits hw 27 24)).map (fun n => BitVec.ofNat 64 (x.d (4 + n)))
      let (port, h, bs) := invPacket s die (die * 12800) 0 id tw hw args
      if portFenced s die port h then pkAnswered s p k x (-5)
      else match claimStep s (packetWaiter p k) x.owner (packetWay s (unitPlace die) die port h) with
      | .wait t => again t (.queueInvoke p k)
      | .thru t => (({ t with reqs := tset t.reqs id (.queue p k die port h bs 0 t.now) }.fresh).route die port h bs).due (.requestReplayTimeout id))

/-- INVOKE of a queue (19 R462). -/
def execQueueInvoke (s : State) : Outc :=
  match s.ev with
  | some (.queueInvoke p k) => evDo (.queueInvoke p k) (doPkInvoke s p k)
  | _ => .fault .noSuchUnit

/-- INVOKE_RETRY (19 R462). -/
def execInvokeRetry (s : State) : Outc :=
  match s.ev with
  | some (.invokeRetry p k) => evDo (.invokeRetry p k) (doPkInvoke s p k)
  | _ => .fault .noSuchUnit

/-! ### The scheduler (19 R466) -/

/-- The slots of a partition that may be mapped (19 R465). -/
def queueSlots (s : State) (p : Nat) : List Nat :=
  (s.diesOf p).flatMap (fun d => (List.range (s.die d).plat.qslots).map (fun t => d * 32 + t))

/-- Bind a slot to a queue, from now: the queue table gives the QCB that it has while it is mapped (19 R461). -/
def bindSlot (s : State) (p slot q : Nat) : State :=
  (unbindSlot s p slot).modQmap p (fun m => { m with
    qcbs := (match queueEntry s p q with | some a => tset m.qcbs q a | none => m.qcbs), slots := tset m.slots slot (q, s.now) })

/-- The effective priority of a pending queue: PRIO plus one for each 100 µs, at most 7. -/
def pendPrio (s : State) (p : Nat) (c : Qcb) : Nat := min 7 (c.prio + (s.timeNs (s.frontDie p) - c.psince) / 100000)

/-- The pending queues in the order of rule 1: effective priority, then PSINCE, then number. -/
def pendOrder (s : State) (p : Nat) : List (Nat × Qcb) :=
  sortBy (fun a b => pendPrio s p a.2 > pendPrio s p b.2 || (pendPrio s p a.2 == pendPrio s p b.2 &&
      (a.2.psince < b.2.psince || (a.2.psince == b.2.psince && a.1 ≤ b.1))))
    ((s.qmap p).pending.filterMap (fun q => (qcbOf s p q).map (fun c => (q, c))))

/-- Map a queue onto a slot: STATE := 1, the slot bound, its pending bit cleared, a qkick (19 R466); a queue that is
HALTED or DISABLED by now is only taken out of the vector. -/
def mapQueue (s : State) (p slot q : Nat) (c : Qcb) : State :=
  let s := clearPending s p q
  if c.state ≥ 2 then s else wakeQueue (bindSlot (setQstate s (s.frontDie p) c 1 (bits c.img 327 324)) p slot q) p q

/-- Unmap a queue: the slot unbound, STATE := 0, and a qkick where WR differs from RD (19 R466). -/
def unmapQueue (s : State) (p slot q : Nat) : State :=
  match qcbOf s p q with
  | none => unbindSlot s p slot
  | some c =>
    let s := unbindSlot s p slot
    let s := if c.state = 1 then setQstate s (s.frontDie p) c 0 (bits c.img 327 324) else s
    if c.wr ≠ c.rd then kickNow s p q else s

/-- Rule 1, with fuel for the pending queues. -/
def ruleOne (s : State) (p : Nat) : Nat → State
  | 0 => s
  | n + 1 =>
    match (queueSlots s p).find? (fun k => (tfind (s.qmap p).slots k).isNone), (pendOrder s p).head? with
    | some k, some (q, c) => ruleOne (mapQueue s p k q c) p n
    | _, _ => s

/-- Rule 2: mapped queues that are idle while a queue is pending. -/
def ruleTwo (s : State) (p : Nat) : State :=
  (s.qmap p).slots.foldl (fun s x =>
    match qcbOf s p x.2.1 with
    | some c =>
      if (s.qmap p).pending.isEmpty ∨ c.rd ≠ c.wr ∨ inFlight s p x.2.1 ≠ 0 then s else ruleOne (unmapQueue s p x.1 x.2.1) p 1
    | none => s) s

/-- The slot that a pending queue takes by rule 3: of the lowest PRIO among those held for at least 1 ms and not already
given way. -/
def victimSlot (s : State) (p prio : Nat) : Option Nat :=
  let l := (s.qmap p).slots.filterMap (fun x =>
    if s.now < x.2.2 + 4000000 ∨ (tfind (s.qmap p).leaving x.1).isSome then none
    else (qcbOf s p x.2.1).bind (fun c => if c.prio < prio then some (c.prio, x.1) else none))
  (l.foldl (fun (m : Option (Nat × Nat)) y => match m with | none => some y | some z => if y.1 < z.1 then some y else some z) none).map Prod.snd

/-- Rule 3: each pending queue, in the order of rule 1, displaces at most one. -/
def ruleThree (s : State) (p : Nat) : State :=
  (pendOrder s p).foldl (fun s x =>
    if (s.qmap p).leaving.any (fun y => y.2 == x.1) then s
    else match victimSlot s p (pendPrio s p x.2) with
    | some k => s.modQmap p (fun m => { m with leaving := tset m.leaving k x.1 })
    | none => s) s

/-- The slot of a displaced queue goes to the queue that displaced it; where that one is no longer pending, to the next of rule
1. -/
def takeSlot (s : State) (p slot q : Nat) : State :=
  match (if (s.qmap p).pending.contains q then qcbOf s p q else none) with
  | some c => mapQueue s p slot q c
  | none => ruleOne s p 1

/-- Displaced queues whose packets in flight have completed are unmapped, and those that displaced them take their slots. -/
def ruleLeave (s : State) (p : Nat) : State :=
  (s.qmap p).leaving.foldl (fun s x =>
    match tfind (s.qmap p).slots x.1 with
    | some (q, _) => if inFlight s p q = 0 then takeSlot (unmapQueue s p x.1 q) p x.1 x.2 else s
    | none => s.modQmap p (fun m => { m with leaving := terase m.leaving x.1 })) s

/-- SCHEDULER_RUN (19 R466): it runs again while a queue is pending. -/
def doScheduler (s : State) (p : Nat) : State :=
  if s.fenced p then s
  else if ((s.qmap p).pending ++ (s.qmap p).slots.map (fun x => x.2.1)).any (queueHeld s p) then again s (.schedulerRun p)
  else
    let s := ruleThree (ruleTwo (ruleOne (ruleLeave s p) p 1024) p) p
    if (s.qmap p).pending.isEmpty ∧ (s.qmap p).leaving.isEmpty then s else s.dueOnce (.schedulerRun p)

/-- SCHEDULER_RUN (19 R466). -/
def execSchedulerRun (s : State) : Outc :=
  match s.ev with
  | some (.schedulerRun p) => evDo (.schedulerRun p) (doScheduler s p)
  | _ => .fault .noSuchUnit

/-! ### wpk (19 R468) -/

/-- A hardware thread of Sextant: its die and number. -/
def sxOf (a : Agent) : Option (Nat × Nat) :=
  match a with
  | .sextant d t => some (d, t)
  | .thread _ => none

/-- What a pass of wpk's loop finds. -/
def wpkFinds (s : State) (d t src last : Nat) : Option Nat :=
  let p := s.partOf d
  match src with
  | 0 =>
    let w := match (tfind (s.qmap p).slots (d * 32 + t)).bind (fun x => qcbOf s p x.1) with
      | some c => c.wr
      | none => last
    if w ≠ last then some w else none
  | 1 => if (s.qmap p).pending.isEmpty then none else some (s.qmap p).pending.length
  | _ => if (s.die d).plat.evR = (s.die d).plat.evW then none else some (s.die d).plat.evW.toNat

/-- wpk (19 R468). -/
def wpkBody (e : Env) : Res :=
  let w := e.a.toNat
  let src := bits w 1 0
  match sxOf e.ag with
  | none => doneS e.s
  | some (d, t) =>
    if (src = 0 ∧ t > 31) ∨ src = 3 ∨ bits w 31 2 ≠ 0 then illegal e.i 12 0
    else if src = 0 ∧ (match tfind (e.s.qmap (e.s.partOf d)).slots (d * 32 + t) with | some x => queueHeld e.s (e.s.partOf d) x.1 | none => false) = true then
      .park .table .none e.s
    else
      let s := e.s.modSx d t (fun x => { x with flags := tset x.flags src false })
      match wpkFinds s d t src (bits w 63 32) with
      | some v => .ok { s := s, dst := .val (BitVec.ofNat 64 v) }
      | none => .park (.flag src) .none s

/-- wpk on a queue (19 R468). -/
def execWpkQueue (d a : BitVec 5) (st : State) : Outc := runIns st (.wpkQueue d a) { dst := some d, srcs := [(1, a)] } wpkBody
/-- wpk on the pending vector (19 R468). -/
def execWpkPending (d a : BitVec 5) (st : State) : Outc := runIns st (.wpkPending d a) { dst := some d, srcs := [(1, a)] } wpkBody
/-- wpk on the event ring (19 R468). -/
def execWpkEvent (d a : BitVec 5) (st : State) : Outc := runIns st (.wpkEvent d a) { dst := some d, srcs := [(1, a)] } wpkBody

/-! ### qkick (19 R469) -/

/-- qkick: a release at .sys at its issue, then the kick (19 R469). -/
def qkickBody (e : Env) : Res :=
  let w := e.a.toNat
  if bits w 63 10 ≠ 0 then illegal e.i 12 0
  else if queueHeld e.s (e.s.partOf e.ag.die) w then .park .table e.th.prog e.s
  else releasing e 5 (doneS (kickNow e.s (e.s.partOf e.ag.die) w))

/-- qkick (19 R469). -/
def execQkick (a : BitVec 5) (st : State) : Outc := runIns st (.qkick a) { srcs := [(1, a)] } qkickBody

/-! ### qstat (19 R470) -/

/-- The entry of a slot as qstat gives it. -/
def slotEntry (s : State) (p slot : Nat) : Nat := match tfind (s.qmap p).slots slot with | some (q, _) => 1024 + q | none => 0

/-- Bind or unbind a slot (19 R470, OP 2): the old entry, or −1. -/
def qstatBind (s : State) (p slot q : Nat) (v : Bool) : Nat × State :=
  let old := slotEntry s p slot
  if v then
    if slot % 32 ≥ (s.die (slot / 32)).plat.qslots ∨ (match slotOfQueue s p q with | some k => k != slot | none => false) = true then (2 ^ 64 - 1, s)
    else (old, bindSlot s p slot q)
  else
    let t := unbindSlot s p slot
    (old, if old ≠ 0 ∧ tget (s.sxThread (slot / 32) (slot % 32)).flags 0 false = true then setPending t p (old % 1024) else t)

/-- What a qstat operand does: none for a malformed one (19 R470). -/
def qstatDo (s : State) (p w : Nat) : Option (Nat × State) :=
  let slot := bits w 20 16 * 32 + bits w 25 21
  match bits w 63 60 with
  | 0 =>
    if bits w 59 4 ≠ 0 then none
    else some ((s.qmap p).pending.foldl (fun n q => if q / 64 = bits w 3 0 then n + 2 ^ (q % 64) else n) 0, s)
  | 1 =>
    if bits w 59 10 ≠ 0 then none
    else some ((if (s.qmap p).pending.contains (bits w 9 0) then 1 else 0), clearPending s p (bits w 9 0))
  | 2 => if bits w 59 26 ≠ 0 ∨ bits w 15 11 ≠ 0 ∨ s.dieIn (bits w 20 16) p = false then none else some (qstatBind s p slot (bits w 9 0) (bitAt w 10))
  | 3 => if bits w 59 26 ≠ 0 ∨ bits w 15 0 ≠ 0 ∨ s.dieIn (bits w 20 16) p = false then none else some (slotEntry s p slot, s)
  | _ => none

/-- qstat (19 R470). -/
def qstatBody (e : Env) : Res :=
  match qstatDo e.s (e.s.partOf e.ag.die) e.a.toNat with
  | none => illegal e.i 12 0
  | some (v, s) => .ok { s := answerValue s.fresh s.nextId e.rd (BitVec.ofNat 64 v) false, dst := .pend s.nextId }

/-- qstat, OP 0 (19 R470). -/
def execQstatReadPending (d a : BitVec 5) (st : State) : Outc := runIns st (.qstatReadPending d a) { dst := some d, srcs := [(1, a)] } qstatBody
/-- qstat, OP 1 (19 R470). -/
def execQstatClearPending (d a : BitVec 5) (st : State) : Outc := runIns st (.qstatClearPending d a) { dst := some d, srcs := [(1, a)] } qstatBody
/-- qstat, OP 2 (19 R470). -/
def execQstatBind (d a : BitVec 5) (st : State) : Outc := runIns st (.qstatBind d a) { dst := some d, srcs := [(1, a)] } qstatBody
/-- qstat, OP 3 (19 R470). -/
def execQstatReadSlot (d a : BitVec 5) (st : State) : Outc := runIns st (.qstatReadSlot d a) { dst := some d, srcs := [(1, a)] } qstatBody

end Sys2Proof.Machine
end

