-- ==== Sys2Proof/Machine/Partition.lean ====
section
/-!
DEFINITION. Partition: the seven steps of a partition reset (18 R450-R454), the clear of its memory (18 R453), module
reset (18 R439), boot (20 R481), scrubbing (18 R447), and the owner of a core (01 R18).
-/
namespace Sys2Proof.Machine

/-! ### What belongs to a partition -/

/-- Whether a slot's die is in a partition. -/
def slotIn (s : State) (p slot : Nat) : Bool := s.dieIn (dieOf (coreOf slot)) p

/-- The die from which a request comes. -/
def Req.die : Req → Nat
  | .spawn _ f _ _ _ _ _ _ => dieOf (coreOf f)
  | .gspawn _ f _ _ _ _ => dieOf (coreOf f)
  | .value d _ _ _ _ _ => d.agent.die
  | .cntDec _ _ _ d _ => d
  | .cntFree k _ _ _ => dieOf (coreOf k)
  | .cntBind k _ _ _ => dieOf (coreOf k)
  | .msg k _ _ => dieOf (coreOf k)
  | .ctxout _ f _ _ => dieOf (coreOf f)
  | .ctxin _ f _ _ => dieOf (coreOf f)
  | .barinit k _ _ _ _ _ => dieOf (coreOf k)
  | .bar k _ _ _ _ => dieOf (coreOf k)
  | .sent c _ _ _ _ _ _ _ _ => dieOf c
  | .reply k _ _ _ _ _ _ => dieOf (coreOf k)
  | .engine _ _ _ _ _ d _ _ _ _ _ => d
  | .done d _ _ _ _ _ _ => d
  | .queue _ _ d _ _ _ _ _ => d

/-- Whether a request is a Sextant thread's, which a partition reset does not stop. -/
def Req.ofSextant : Req → Bool
  | .value d _ _ _ _ _ => !d.agent.isThread
  | _ => false

/-- The die of an address of on-chip storage that a reset scrubs (18 R450 step 5): local store, cluster memory,
scratchpad, side store. -/
def onChipDie (a : Nat) : Option Nat :=
  match spaceOf a with
  | 1 => some (dieOf (offOf a / 65536))
  | 2 => some (offOf a / 2 ^ 20 / 200)
  | 3 => some (bits (offOf a) 29 25)
  | 5 => some (offOf a / 16384 / 1600)
  | _ => none

/-- Whether an address is on-chip storage of a partition. -/
def onChipOf (s : State) (p a : Nat) : Bool := match onChipDie a with | some d => s.dieIn d p | none => false

/-! ### Steps 1 to 4 -/

/-- Answer UNREACHABLE to a record that awaits a reply (16 R411). -/
def unreachable (s : State) (die : Nat) (r : InvRec) : State :=
  if bitAt r.token.toNat 63 then sendAnswer s die r.hdr (bIdent r.beats) (-5) else s

/-- The invocation unit of a die in step 1: every held record is answered and discarded, its counters are zero. -/
def stopUnit (s : State) (die : Nat) : State :=
  let u := (s.die die).inv
  let held := (u.queues.map Prod.snd).flatten ++ (u.spill.map Prod.snd).flatten
  let running := s.launches.filterMap (fun l => if l.2.home = die then l.2.inv else none)
  let s := (held ++ running).foldl (fun s r => unreachable s die r) s
  s.modInv die (fun u => { u with queues := [], spill := [] })

/-- Step 1, Stop: nothing is accepted, what waits is discarded, the mapped queues halt with a code that the spec does not
state (log 30). -/
def resetStop (s : State) (p : Nat) : State :=
  let s := s.modPart p (fun r => { r with st := 2 })
  let s := (s.diesOf p).foldl stopUnit s
  let s := { s with launches := (s.launches.filter (fun (l : Nat × Launch) => !(l.2.waiting && s.dieIn l.2.home p))).map (fun (l : Nat × Launch) =>
    if s.dieIn l.2.home p then (l.1, { l.2 with inv := none }) else l) }
  let s := (s.qmap p).slots.foldl (fun s (x : Nat × Nat × Nat) =>
    match qcbOf s p x.2.1 with
    | some c => haltQueue s p x.2.1 c (bits (Config.freeWord s.tick).toNat 3 0)
    | none => unbindSlot s p x.1) s
  s.tock

/-- Whether an access of a partition has passed its boundary: a host access of a partition without die 0, on its way
beyond the die. -/
def passedOut (s : State) (p : Nat) (x : Access) : Bool :=
  spaceOf x.addr == 4 && !s.dieIn 0 p && !x.done && (x.lvl ≥ 3 || x.point ≥ 1)

/-- Whether a request or identifier comes from a core of a partition. -/
def identIn (s : State) (p ident : Nat) : Bool := s.dieIn (dieOf (ident / 2 ^ 24)) p

/-- Step 2, Park: the operations of the partition's cores stop at their restart points (10 R248, 12 R318). -/
def resetPark (s : State) (p : Nat) : State :=
  (s.cores.filter (fun c => s.dieIn (dieOf c.1) p)).foldl (fun s c =>
    c.2.ops.foldl (fun s o => if (s.core c.1).ops.any (fun x => x.id == o.id) then stopOps s c.1 o else s) s) s

/-- Whether a claim is for a request of a partition, or for a packet on its way to a slice of one. -/
def claimOf (s : State) (p k : Nat) (c : Claim) : Bool :=
  (match tfind s.transfers k, tfind s.reqs k with
    | some t, _ => s.dieIn (dieOf t.core) p
    | none, some q => s.dieIn q.die p && !q.ofSextant
    | none, none => false) ||
  (packetWaiter p 0 ≤ k && k < packetWaiter (p + 1) 0) || (seqWho 0 ≤ k && k < walkWho 0 0 && slotIn s p (k - seqWho 0)) ||
  (s.diesOf p).any (fun d => (walkWho d 0 ≤ k && k < walkWho (d + 1) 0) ||
    (match (s.die d).xlat.mig.bind (fun m => m.engine) with | some (_, _, n) => n == k | none => false)) ||
  (2 ^ 100 ≤ k && c.path.any (fun w => w.1.1 != 4 && w.1.1 != 5 && s.dieIn w.1.2.1 p))

/-- Step 3, Drain or discard: requests that have passed the boundary go on without an answer, the others are discarded;
the packets of the queues go no further, and the die caches are written back and invalidated. -/
def resetDrain (s : State) (p : Nat) : State :=
  let mine := fun (x : Access) => x.agent.isThread && s.dieIn x.agent.die p
  let s : State := { s with
    net := (s.net.filter (fun q => !mine q.2 || passedOut s p q.2)).map (fun q =>
      if mine q.2 then (q.1, { q.2 with journal := none, dst := none }) else q),
    reqs := s.reqs.filter (fun q => !s.dieIn q.2.die p || q.2.ofSextant),
    transfers := s.transfers.filter (fun q => !s.dieIn (dieOf q.2.core) p),
    claims := s.claims.filter (fun q => !claimOf s p q.1 q.2),
    invals := s.invals.filter (fun q => !(q.agent.isThread && s.dieIn q.agent.die p)),
    dies := s.dies.map (fun d => (d.1, { d.2 with
      lines := if s.dieIn d.1 p then [] else d.2.lines.filter (fun l => l.key != 4096 + p),
      filters := if s.dieIn d.1 p then [] else (tmap d.2.filters (fun l => l.filter (fun f => !identIn s p f.1))).filter (fun f => !f.2.isEmpty),
      partDraws := if s.dieIn d.1 p then [] else d.2.partDraws.filter (fun k => k.1 / 64 != p) })) }
  s.modPart p (fun r => { r with packets := [] })

/-- Step 4, Fence: packets of the partition that wait at ports are discarded. -/
def resetFence (s : State) (p : Nat) : State :=
  { s with mynis := tmap s.mynis (fun m => { m with waiting := m.waiting.filter (fun w => !s.dieIn (hSdie w.2.1) p) }) }

/-! ### Steps 5 to 7 -/

/-- Step 5, Scrub and check: on-chip storage becomes zero, every bit EMPTY, and the arrays are checked (18 R454). -/
def resetScrub (s : State) (p : Nat) : State :=
  let keep := fun (l : List Nat) => l.filter (fun a => !onChipOf s p a)
  let s := { s with mem := s.mem.filter (fun c => !onChipOf s p c.1), full := keep s.full, poison := keep s.poison, eccBad := keep s.eccBad }
  s.modPart p (fun r => { r with failed := (s.diesOf p).filter (fun d => r.failed.contains d || Config.arrayFails d s.tick) })

/-- The platform registers of a die after its partition's reset (00 R9; 18 R451; 19 R471, R472; 20 R483, R488). -/
def resetPlat (p : Plat) : Plat :=
  { p with ctxbase := 0, qslots := 32, thrcfg := ({} : Plat).thrcfg, dmon := [], dmonsel := [], evW := 0, evR := 0, evOvf := false, dbgTgt := 0, dbgSel := 0, dbgData := 0, dbgStat := 0 }

/-- A frame of the die's context region is freed (18 R450 step 6). -/
def freedFrame (f : Frame) : Frame := if f.saved.isSome then { gen := f.gen + 1 } else f

/-- A counter becomes FREE (18 R450 step 6, 15 R381). -/
def freedCounter (c : CntEnt) : CntEnt := if c.st = .free then c else { gen := c.gen + 1 }

/-- The tables of a die in step 6; Sextant's threads and its SRAM stay. -/
def resetDie (d : Die) : Die :=
  { d with xlat := {}, lines := [], hostCopies := [], openRow := [], filters := [], watchUnits := [], waitLists := [],
           counters := tmap d.counters freedCounter, msgs := [], inv := {}, owners := [], partDraws := [], frames := tmap d.frames freedFrame, red := [],
           plat := resetPlat d.plat, qmap := {} }

/-- FLUSHED is set in every thread with a port bound to a queue of a core whose queues are emptied: its own, or that of the
neighbour that it sends to (11 R292). -/
def flushPorts (s : State) (emptied : Nat → Bool) : State :=
  { s with threads := s.threads.map (fun p =>
      if ((inPort p.2).isSome && emptied (coreOf p.1)) || (match outQueue p.1 p.2 with | some (c, _) => emptied c | none => false) then
        (p.1, { p.2 with pmap := p.2.pmap ||| 0x800000000000 })
      else p) }

/-- A command of a translation control block of the dies given: it ends with the block (09 R230). -/
def isCommand (inP : Nat → Bool) : Event → Bool
  | .fbcmdMapped d _ | .fbcmdDeny d _ | .fbcmdReplayAll d | .fbcmdInval d _ | .fbcmdMigrate d => inP d
  | _ => false

/-- Step 6, Tables: every table of the partition's dies returns to its reset values. -/
def resetTables (s : State) (p : Nat) : State :=
  let inP := fun (d : Nat) => s.dieIn d p
  let s := flushPorts { s with
    threads := s.threads.filter (fun q => !inP (dieOf (coreOf q.1))),
    claims := s.claims.filter (fun q => !claimOf s p q.1 q.2),
    agenda := s.agenda.filter (fun e => !isCommand inP e),
    cores := s.cores.filter (fun q => !inP (dieOf q.1)),
    octets := s.octets.filter (fun q => !inP (q.1 / 1600)),
    clusters := s.clusters.filter (fun q => !inP (q.1 / 200)),
    launches := s.launches.filter (fun q => !inP q.2.home),
    groups := s.groups.filter (fun q => !inP q.2.die),
    dies := s.dies.map (fun (d : Nat × Die) => if inP d.1 then (d.1, resetDie d.2) else d) } (fun c => inP (dieOf c))
  (s.modPart p (fun r => { r with imports := [], exports := [], handlers := [], packets := [], seedNo := s.tick + 1 })).tock

/-- The dies of a partition under the tenant-scope policy: those of its enabled functions with CLAMP (18 R443). -/
def clampSet (s : State) (p : Nat) : BitVec 32 :=
  (List.range 32).foldl (fun m v =>
    let x := s.vfNow v
    if bitAt x 63 ∧ bitAt x 40 ∧ bits x 36 32 = p then m ||| BitVec.ofNat 32 (bits x 31 0) else m) 0

/-- The VFCFG registers that name a partition take effect (18 R443). -/
def applyVfcfg (s : State) (p : Nat) : State :=
  let s := (List.range 32).foldl (fun s v =>
    if bits (s.vfReg v) 36 32 = p then { s with vfcfg := if s.vfReg v = 0 then terase s.vfcfg v else tset s.vfcfg v (BitVec.ofNat 64 (s.vfReg v)) } else s) s
  (List.range 32).foldl (fun s q =>
    if clampSet s q = (s.part q).clampDies then s else s.modPart q (fun r => { r with clampDies := clampSet s q })) s

/-- STATE after step 7 (18 R450, R453, R454, R455). -/
def stateAfter (s : State) (p : Nat) : Nat :=
  let r := s.part p
  if !r.failed.isEmpty then 4 else if s.pdies p = 0 then 0 else if r.zero then 3 else if r.rel then 0 else 1

/-- Step 7, Report: STATE, RESETS and CAUSE, the vectors of the functions, Sextant's events (18 R450, 19 R472). -/
def resetReport (s : State) (p : Nat) : State :=
  let st := stateAfter s p
  let cause := (s.part p).resetCause
  let s := s.modPart p (fun r => { r with st := st, resets := min (r.resets + 1) 0xFFFF, cause := cause, resetStep := 0, resetAt := s.now, hotReset := false, failDie := r.failed.headD r.failDie })
  let s := applyVfcfg s p
  let fns := (List.range 32).filter (fun v => bitAt (s.vfNow v) 63 && bits (s.vfNow v) 36 32 == p)
  let s := fns.foldl (fun s v => s.out (.msix v (bits (Config.freeWord s.tick).toNat 10 0))) s
  let s := s.tock.dues ((s.diesOf p).map (fun d => Event.eventRecord d (BitVec.ofNat 64 (4 * 2 ^ 56 + st * 2 ^ 16 + cause * 2 ^ 8 + p)) 0 0 0))
  if st = 3 then s.due (.zeroClear p) else s

/-- One step of the reset of a partition (18 R450). -/
def resetAct (s : State) (p n : Nat) : State :=
  match n with
  | 1 => (s.diesOf p).foldl noteStep (resetStop s p)
  | 2 => resetPark s p
  | 3 => resetDrain s p
  | 4 => resetFence s p
  | 5 => resetScrub s p
  | 6 => resetTables s p
  | _ => s

/-- PARTITION_RESET: its steps in order, one at a time. -/
def doReset (s : State) (p : Nat) : State :=
  let n := (s.part p).resetStep
  if n = 0 then s
  else if n ≥ 7 then (s.diesOf p).foldl noteStep (resetReport s p)
  else ((resetAct s p n).modPart p (fun r => { r with resetStep := n + 1 })).due (.partitionReset p)

/-- PARTITION_RESET (18 R450). -/
def execPartitionReset (s : State) : Outc :=
  match s.ev with
  | some (.partitionReset p) => evDo (.partitionReset p) (doReset s p)
  | _ => .fault .noSuchUnit

/-- ZERO_CLEAR: device memory of the partition, tag regions included (18 R453). -/
def doZeroClear (s : State) (p : Nat) : State :=
  if (s.part p).st ≠ 3 then s
  else
    let mine := fun (a : Nat) => spaceOf a == 0 && s.dieIn (homeDie a) p
    let s := { s with mem := s.mem.filter (fun c => !mine c.1), poison := s.poison.filter (fun a => !mine a), eccBad := s.eccBad.filter (fun a => !mine a) }
    s.modPart p (fun r => { r with st := if r.rel then 0 else 1 })

/-- ZERO_CLEAR (18 R453). -/
def execZeroClear (s : State) : Outc :=
  match s.ev with
  | some (.zeroClear p) => evDo (.zeroClear p) (doZeroClear s p)
  | _ => .fault .noSuchUnit

/-! ### Module reset and boot (18 R439, 20 R481) -/

/-- MODULE_RESET: State.reset, but for host memory, what the packages hold (log 31), the fused minimum, time and the
model's own counters; every partition draws new seeds. -/
def doModuleReset (s : State) : State :=
  { State.reset with
    mem := s.mem.filter (fun c => spaceOf c.1 == 0 || spaceOf c.1 == 4), poison := s.poison.filter (fun a => spaceOf a == 0 || spaceOf a == 4),
    eccBad := s.eccBad.filter (fun a => spaceOf a == 0 || spaceOf a == 4),
    parts := (List.range 32).map (fun p => (p, { seedNo := s.tick + 1, resetAt := s.now })),
    minVersion := s.minVersion, outbox := s.outbox, now := s.now, tick := s.tick + 1, nextId := s.nextId }

/-- MODULE_RESET (18 R439). -/
def execModuleReset (s : State) : Outc :=
  match s.ev with
  | some .moduleReset => evDo .moduleReset (doModuleReset s)
  | _ => .fault .noSuchUnit

/-- A Sextant hardware thread as boot starts it: where the firmware begins is a free value (log 6). -/
def bootThread (die t : Nat) : SxThread := { running := true, th := { pc := Config.sextantEntry die t, mode := .k } }

/-- DIE_BOOT: the image is verified; a die whose image fails stays in boot and its partition is RETIRED (20 R481). -/
def doBoot (s : State) (die version image : Nat) : State :=
  let p := s.partOf die
  if (s.die die).booted then s
  else if version ≥ s.minVersion ∧ Config.imageGood die image = true then
    s.modDie die (fun d => { d with booted := true, firmware := (version, image), sx := (List.range 48).map (fun t => (t, bootThread die t)) })
  else s.modPart p (fun r => { r with st := 4, failDie := die, failed := setAdd r.failed die })

/-- DIE_BOOT (20 R481). -/
def execDieBoot (s : State) : Outc :=
  match s.ev with
  | some (.dieBoot die v i) => evDo (.dieBoot die v i) (doBoot s die v i)
  | _ => .fault .noSuchUnit

/-- RAISE_SECURITY_MINIMUM: the fused minimum only rises (20 R481). -/
def execRaiseSecurityMinimum (s : State) : Outc :=
  match s.ev with
  | some (.raiseSecurityMinimum v) => evDo (.raiseSecurityMinimum v) { s with minVersion := max s.minVersion v }
  | _ => .fault .noSuchUnit

/-! ### Scrubbing (18 R445-R448) -/

/-- The line and sector of a die cache that an index names: 64 slices of 256 sets of 16 ways of 8 sectors (06 R148). -/
def cacheWord (s : State) (die i : Nat) : Option Nat :=
  ((s.die die).lines.find? (fun l => l.slice == i / 2 ^ 15 % 64 && l.set == i / 2 ^ 7 % 256 && l.way == i / 8 % 16 && l.valid.getLsbD (i % 8))).map
    (fun l => l.addr + 32 * (i % 8))

/-- The word of a scrub address, by the row of R445: 1 local store or cluster memory; 2 scratchpad, or die-cache data by index
from 2^30 on, whose mark the word keeps (DESIGN CHOICE, log 109: the caches hold no data of their own); 3 device memory,
5 side store. -/
def scrubPlace (s : State) (die struct addr : Nat) : Option Nat :=
  let on := fun (a : Nat) => if onChipDie a = some die then some (wordAddr a) else none
  match struct with
  | 1 => if addr < 2 ^ 64 then on (2 ^ 64 + addr) else on (2 * 2 ^ 64 + addr % 2 ^ 64)
  | 2 => if addr < 2 ^ 30 then on (3 * 2 ^ 64 + addr) else cacheWord s die (addr - 2 ^ 30)
  | 3 => if bits addr 42 38 = die ∧ addr < 2 ^ 43 then some (wordAddr addr) else none
  | 5 => on (5 * 2 ^ 64 + addr)
  | _ => none

/-- An uncorrectable error in an item that instructions read (18 R446): addr holds the slot and the item's TVAL. -/
def markItem (s : State) (die addr : Nat) : State :=
  let slot := addr / 2 ^ 16
  let n := addr % 2 ^ 16
  if dieOf (coreOf slot) ≠ die then s
  else s.modSlot slot (fun t => if n < 32 then (if n = 0 ∨ n ≥ t.win then t else t.setEnt n { t.ent n with ecc := true }) else { t with ecc := t.ecc ++ [n] })

/-- The words that an error makes bad: one, or the four of a sector (18 R445). -/
def scrubWords (s : State) (die struct addr : Nat) : List Nat :=
  match scrubPlace s die struct addr with
  | none => []
  | some w => if struct = 2 ∨ struct = 3 then (List.range 4).map (fun k => w - w % 32 + 8 * k) else [w]

/-- An uncorrectable error arises in stored words (18 R445): a read finds it until the engine or a store does. -/
def strike (s : State) (die struct addr : Nat) : State :=
  { s with eccBad := (scrubWords s die struct addr).foldl setAdd s.eccBad }

/-- The HOST lines of other partitions in the set of die 0's cache that an error in its arrays strikes are poisoned for
their own partitions; the index counts the sets of all slices (18 R448; DESIGN CHOICE, log 102). -/
def poisonHostSet (s : State) (die addr : Nat) : State :=
  if die ≠ 0 then s
  else
    ((s.die 0).lines.filter (fun l => l.host && l.key ≥ 4096 && l.key != 4096 + s.partOf 0 && l.slice * 256 + l.set == addr % 16384)).foldl (fun s l =>
      (List.range 32).foldl (fun s k => if l.valid.getLsbD (k / 4) then s.markPoison (aHost (l.line * 256 + 8 * k)) else s) s) s

/-- An error found in a row: poison-marked data, or a state array, which is an unrecoverable fault (18 R447, R448). -/
def uncorrectable (s : State) (die struct addr : Nat) : State :=
  let note := fun (s : State) (st : Bool) => s.modPlat die (fun p =>
    { p with uea := if st then min (p.uea + 1) 0xFFFF else p.uea, ued := if st then p.ued else min (p.ued + 1) 0xFFFF, derraddr := BitVec.ofNat 64 (struct * 2 ^ 56 + addr % 2 ^ 52) })
  let tell := fun (s : State) => s.due (.eventRecord die (BitVec.ofNat 64 (3 * 2 ^ 56 + struct % 256 * 2 ^ 48)) (BitVec.ofNat 64 addr) 0 0)
  match struct with
  | 4 => tell (note (markItem s die addr) false)
  | 7 => unrecoverable (note (poisonHostSet s die addr) true) (s.partOf die)
  | _ =>
    match scrubWords s die struct addr with
    | [] => s
    | l => tell (note (l.foldl (fun s w => s.markPoison w) s) false)

/-- A corrected error: counted; a device sector's fourth within a period is reported (18 R447). -/
def correctable (s : State) (die struct addr : Nat) : State :=
  let n := tget (s.die die).plat.corrected (addr / 32) 0 + 1
  let s := (s.modPlat die (fun p => { p with ce := min (p.ce + 1) 0xFFFFFFFF, corrected := if struct = 3 then tset p.corrected (addr / 32) n else p.corrected })).dieEv die 7 0
  if struct = 3 ∧ n = 4 then s.due (.eventRecord die (BitVec.ofNat 64 (3 * 2 ^ 56 + 3 * 2 ^ 48 + 1)) (BitVec.ofNat 64 addr) 0 0) else s

/-- The contended point of the bank at which the engine reads, with its row (18 R447; 17 R422; DEDUCED, log 104): the memory
controller of a device sector, the slice port of die-cache data, the port of cluster memory; storage of one core and scratchpad
have none. -/
def scrubWay (s : State) (die struct addr f : Nat) : List Stop :=
  if f > 2 then []
  else match struct, scrubPlace s die struct addr with
    | 3, some w => [(controller w, Config.rowOf w)]
    | 2, some _ => if addr < 2 ^ 30 then [] else [((0, die, (addr - 2 ^ 30) / 2 ^ 15 % 64), 0)]
    | 1, some w => if spaceOf w = 2 then [((2, die, offOf w / 2 ^ 20 % 200), 0)] else []
    | _, _ => []

/-- The scrub engine's number among the requests that wait at points. -/
def scrubWho (die struct addr : Nat) : Nat := 2 ^ 90 + (die * 8 + struct % 8) * 2 ^ 80 + wordAddr addr % 2 ^ 80

/-- Whether an engine's request passes its point at once: it does not wait there yet, and no other owner does. -/
def scrubFree (s : State) (die struct addr f : Nat) : Bool :=
  (scrubWay s die struct addr f).all (fun x => (tfind s.claims (scrubWho die struct addr)).isNone && !rivalAt s 0 x.1)

/-- A scrub request of owner 0 at its point (18 R447; 17 R424, R428). -/
def scrubTurn (s : State) (die struct addr f : Nat) : Passage :=
  if scrubFree s die struct addr f then
    .thru ((scrubWay s die struct addr f).foldl (fun s x => setRow (s.leavePoint die 0 x.1.1 0) x.1 x.2) s)
  else claimStep s (scrubWho die struct addr) 0 (scrubWay s die struct addr f)

/-- A hardware fault changes the number of the partition that an access or a transfer carries (18 R441). -/
def renumber (s : State) (id p : Nat) : State :=
  { s with net := s.net.map (fun q => if q.1 = id then (id, { q.2 with part := some p }) else q),
           transfers := s.transfers.map (fun q => if q.1 = id then (id, { q.2 with part := some p }) else q) }

/-- What a finding does: 0 nothing, 1 a corrected error, 2 an uncorrectable one, 3 the end of a DEVH period, 4 an
uncorrectable error that has arisen behind the engine (18 R445, R447), 5 a hardware fault that changes the partition number of
the access or transfer numbered addr to st (18 R441; log 103). -/
def scrubFinding (s : State) (die st addr f : Nat) : State :=
  match f with
  | 1 => correctable s die st addr
  | 2 => uncorrectable s die st addr
  | 3 => s.modPlat die (fun p => { p with corrected := [] })
  | 4 => strike s die st addr
  | 5 => renumber s addr (st % 32)
  | _ => s

/-- SCRUB_PASS: the engine's request contends as owner 0's, then its finding is handled (18 R447). -/
def doScrub (s : State) (die st addr f : Nat) : State :=
  match scrubTurn s die st addr f with
  | .wait s => again s (.scrubPass die st addr f)
  | .thru s => scrubFinding s die st addr f

/-- SCRUB_PASS (18 R447). -/
def execScrubPass (s : State) : Outc :=
  match s.ev with
  | some (.scrubPass die st addr f) => evDo (.scrubPass die st addr f) (doScrub s die st addr f)
  | _ => .fault .noSuchUnit

/-! ### The owner of a core (01 R18) -/

/-- CORE_OWNER_ASSIGN: only while the core has no live thread; its side store becomes zero, its queues are emptied and
their counts are 0 (12 R314; 11 R292; 15 R387). -/
def assignOwner (s : State) (core o : Nat) : State :=
  if s.coreLive core then s
  else
    let side := fun (a : Nat) => spaceOf a == 5 && offOf a / 2048 == core
    let s := { s with mem := s.mem.filter (fun c => !side c.1), poison := s.poison.filter (fun a => !side a), eccBad := s.eccBad.filter (fun a => !side a) }
    flushPorts (s.modCore core (fun c => { c with owner := o, ports := [] })) (fun c => c == core)

/-- CORE_OWNER_ASSIGN (01 R18). -/
def execCoreOwnerAssign (s : State) : Outc :=
  match s.ev with
  | some (.coreOwnerAssign core o) => evDo (.coreOwnerAssign core o) (if o = (s.core core).owner then s else assignOwner s core o)
  | _ => .fault .noSuchUnit

end Sys2Proof.Machine
end

