-- ==== Sys2Proof/Machine/Fabric.lean ====
section
/-!
DEFINITION. Fabric: the packets WRITE, READ, ATOMIC, COUNTER and ANSWER (16 R405; 20 R479), the flits of the Mynis ports and
their flow control (16 R415; 20 R477, R478), and the training and loss of links (20 R474, R486).
A packet that a peer sends acts at once when its row runs; it waits only for a translation, a migration, a full replay
filter, or the ready queue of a bound task.
-/
namespace Sys2Proof.Machine

/-! ### Ingress (16 R405) -/

/-- What the ingress of a data packet gives. -/
inductive Ingress where
  | refuse (reason : Nat) (s : State)
  | wait (s : State)
  | place (a owner : Nat) (s : State)

/-- Whether a packet of a type has a well-formed header and the beats it announces (16 R402). -/
def packetOk (typ : Nat) (h : Beat) (bs : List Beat) : Bool := hdrOk h && hTyp h == typ && bs.length == bbits h 123 120

/-- A failed check is counted in DENIES of the receiving die (16 R405, R414). -/
def denied (s : State) (die : Nat) : State := s.modInv die (fun u => { u with denies := upTo u.denies 16 })

/-- The ingress check of a DATA packet: the export entry, its LIMIT and its RIGHTS (16 R405, 06 R141). -/
def dataAdmits (s : State) (die : Nat) (h : Beat) (bs : List Beat) : Bool :=
  let x := s.exportEnt (s.partOf die) (hExp h)
  let r := bits x 148 146
  exportAdmits s die 1 h bs && hOff h + 2 ^ hSize h ≤ bits x 104 64 &&
    (match hTyp h with | 1 => bitAt r 1 | 2 => bitAt r 0 | _ => r == 7)

/-- The number by which a packet waits for a translation. -/
def packetNum (h : Beat) (bs : List Beat) : Nat := 2 ^ 64 + hSmod h * 2 ^ 48 + bIdent bs

/-- A data packet at the receiving die: fence, ingress check, and the translation of BASE + offset in the space of the
entry's OWNER (16 R405; 18 R452; 09 R225, R233); a fault of it is recorded with class 0 and FIRST 0 (DESIGN CHOICE, log 106). -/
def ingress (s : State) (die : Nat) (h : Beat) (bs : List Beat) (need : Need) (xacc : Nat) : Ingress :=
  if s.fenced (s.partOf die) then .refuse 3 s
  else if !dataAdmits s die h bs then .refuse 1 (denied s die)
  else
    let x := s.exportEnt (s.partOf die) (hExp h)
    let o := bits x 63 52
    let va := bits x 51 0 + hOff h
    let n := packetNum h bs
    if va ≥ 2 ^ 52 ∨ (s.die die).xlat.packDenied.contains n then
      .refuse 2 (s.modXlat die (fun y => { y with packDenied := y.packDenied.filter (fun k => k != n) }))
    else match translateUnit s { num := n, cls := 0, first := 0, cluster := die * 200, die := die, owner := o } va xacc with
    | .park _ t => .wait t
    | .denied _ => .refuse 2 s
    | .leaf e t =>
      match leafCheck e.leaf.toNat need with
      | some _ => .refuse 2 t
      | none =>
        let a := aDev (leafPa e.big e.leaf.toNat va)
        if recalled t a then .wait t else .place a o t

/-- A packet that is refused or done is answered; it leaves the receive buffer. -/
def answerPacket (s : State) (die : Nat) (h : Beat) (bs : List Beat) (status : Int) : State :=
  sendAnswer (leaveBuffer s h bs) die h (bIdent bs) status

/-- The name of a packet's request in a replay filter: its identifier, within its module (08 R214). -/
def filterKey (s : State) (die : Nat) (h : Beat) (bs : List Beat) : Nat :=
  if hSmod h = s.modnum die then bIdent bs else (hSmod h + 1) * 2 ^ 48 + bIdent bs

/-- The number by which a packet holds its place at the points of its way. -/
def packetClaim (s : State) (die : Nat) (h : Beat) (bs : List Beat) : Nat := 2 ^ 100 + hTyp h * 2 ^ 96 + filterKey s die h bs

/-- The writer record of a peer (08 R216). -/
def peerWriter (o : Nat) (h : Beat) : Writer := { cls := 4, owner := o, ident := hSmod h, tag := 0, core := 409600 }

/-- The answer to a READ or ATOMIC: RESP 1 with the data, and the mark of a word that is bad (20 R479; log 11). -/
def respond (s : State) (die : Nat) (h : Beat) (bs : List Beat) (v : Nat) (bad : Option Cause) : State :=
  let n := 2 ^ hSize h
  let mark := match bad with | none => 0 | some .eccUncorr => 1 | some _ => 2
  let data := beatsOf v n
  (leaveBuffer s h bs).route die (s.answerPort die)
    (mkHdr (hTyp h) (1 + data.length) (hSmod h) (s.modnum die) (hSdie h) die 0 (hSize h * 2 ^ 23 + 2 ^ 22 + mark))
    (mkBeat1 0 0 (bIdent bs) :: data)

/-! ### WRITE, READ, ATOMIC (20 R479) -/

/-- A WRITE performed at its home slice, once, after the points of its way (08 R203, R204, R214; 17 R421, R424): one of fewer
than 8 bytes on a bad word is refused and poisons the word (06 R165); a marked one marks its granule (11 R288; log 11). -/
def performWrite (s : State) (die : Nat) (h : Beat) (bs : List Beat) (a o : Nat) : State :=
  let n := 2 ^ hSize h
  let home := homeDie a
  let slice := homeSlice a
  let key := filterKey s die h bs
  match (filterOf s home slice).find? (fun p => p.1 == key) with
  | some (_, v) => answerPacket s die h bs v.toInt
  | none =>
    match claimStep s (packetClaim s die h bs) o (unitWrite s (unitPlace die) a n) with
    | .wait s => again s (.write die h bs)
    | .thru s =>
    if n < 8 && (s.poisoned a n || s.uncorr a n) then
      answerPacket (setFilter (s.markPoison a) home slice (filterOf s home slice ++ [(key, -4)])) die h bs (-4)
    else
      let s := unitLine s o die a n true
      let s := s.perfWrite (peerWriter o h) a (beatsVal (bs.drop 1) % 2 ^ (8 * n)) n
      let s := if hMark h ≠ 0 then markGranules s [a] else s
      answerPacket (setFilter s home slice (filterOf s home slice ++ [(key, 0)])) die h bs 0

/-- WRITE at a die. -/
def doWrite (s : State) (die : Nat) (h : Beat) (bs : List Beat) : State :=
  if !packetOk 1 h bs then dropPacket (leaveBuffer s h bs) die
  else match ingress s die h bs { w := true } 1 with
  | .refuse r t => answerPacket t die h bs (-(r : Int))
  | .wait t => again t (.write die h bs)
  | .place a o t => performWrite t die h bs a o

/-- WRITE (20 R479). -/
def execWrite (s : State) : Outc :=
  match s.ev with
  | some (.write die h bs) => evDo (.write die h bs) (doWrite s die h bs)
  | _ => .fault .noSuchUnit

/-- The REASON of 08 R490 for a refusal answered with a REASON of 08 R200. -/
def otherReason (r : Nat) : Nat := match r with | 1 => 21 | 2 => 22 | 3 => 20 | _ => 23

/-- An own-module peer's filter entry is acknowledged when its answer has come (08 R214). -/
def ackAnswer (s : State) (die : Nat) (h : Beat) (bs : List Beat) : State :=
  if hSmod h = s.modnum die then s.due (.replayAck (bIdent bs)) else s

/-- The FABRIC access that an answer is for. -/
def sentAccess (s : State) (die : Nat) (bs : List Beat) : Option (Nat × Access) :=
  s.net.find? (fun p => p.2.ident p.1 == bIdent bs && p.2.sent && !p.2.done && p.2.agent.die == die)

/-- The request of a unit that an answer is for: an engine's or a queue's by its packet. -/
def sentReq (s : State) (die : Nat) (bs : List Beat) : Option (Nat × Req) :=
  s.reqs.find? (fun p => match p.2 with
    | .engine _ _ _ _ _ d _ _ b _ _ => d == die && bIdent b == bIdent bs
    | .queue _ _ d _ _ b _ _ => d == die && bIdent b == bIdent bs
    | .done d _ _ _ b _ _ => d == die && bIdent b == bIdent bs
    | _ => false)

/-- The data of a response reaches the access that waits for it. -/
def accessData (s : State) (id : Nat) (x : Access) (v : Nat) (bad : Option Cause) : State :=
  match x.kind, bad with
  | .image, _ => answerImage s id x v bad none
  | _, some c => answerLoad s id x 0 (some (accMark c 0 x)) 0
  | .load sg, none => answerLoad s id x (extended sg x.size v) none 0
  | .fadd, none => answerLoad s id x (extended true x.size v) none (fadd32 v x.data).2
  | _, none => answerLoad s id x (extended (x.size == 4) x.size v) none 0

/-- A READ or ATOMIC with RESP 1 at the requester's die. -/
def takeResponse (s0 : State) (die : Nat) (h : Beat) (bs : List Beat) : State :=
  let s := ackAnswer (leaveBuffer s0 h bs) die h bs
  let v := beatsVal (bs.drop 1) % 2 ^ (8 * 2 ^ hSize h)
  let bad := match hMark h with | 0 => none | 1 => some Cause.eccUncorr | _ => some Cause.poison
  if s.fenced (s.partOf die) then s
  else match sentAccess s die bs with
  | some (id, x) => accessData s id x v bad
  | none =>
    match sentReq s die bs with
    | some (q, .engine ..) => engineAnswer s q (BitVec.ofNat 64 v) bad
    | _ => s

/-- READ at a die: a request, or the answer to one. -/
def doRead (s : State) (die : Nat) (h : Beat) (bs : List Beat) : State :=
  if !packetOk 2 h bs then dropPacket (leaveBuffer s h bs) die
  else if hResp h then takeResponse s die h bs
  else match ingress s die h bs { r := true } 0 with
  | .refuse r t => answerPacket t die h bs (-(r : Int))
  | .wait t => again t (.read die h bs)
  | .place a o t =>
    let n := 2 ^ hSize h
    match claimStep t (packetClaim t die h bs) o (unitRead t (unitPlace die) a n) with
    | .wait t => again t (.read die h bs)
    | .thru t =>
      let t := unitLine t o die a n true
      respond t die h bs (t.rd a n) (readError t [] a n)

/-- READ (20 R479). -/
def execRead (s : State) : Outc :=
  match s.ev with
  | some (.read die h bs) => evDo (.read die h bs) (doRead s die h bs)
  | _ => .fault .noSuchUnit

/-- An ATOMIC performed at its home slice, once, after the points of its way (06 R158, R159; 08 R214; 17 R424): a bad word is left as it is. -/
def performAtomic (s : State) (die : Nat) (h : Beat) (bs : List Beat) (a o : Nat) : State :=
  let n := 2 ^ hSize h
  let home := homeDie a
  let slice := homeSlice a
  let key := filterKey s die h bs
  match (filterOf s home slice).find? (fun p => p.1 == key) with
  | some (_, v) => respond s die h bs v.toNat none
  | none =>
    match claimStep s (packetClaim s die h bs) o (unitWrite s (unitPlace die) a n) with
    | .wait s => again s (.atomic die h bs)
    | .thru s =>
    match readError s [] a n with
    | some c => respond s die h bs 0 (some c)
    | none =>
      let s := unitLine s o die a n true
      let old := s.rd a n
      let v := bbits (bs.getD 1 0) 63 0 % 2 ^ (8 * n)
      let new := if hOp h = 31 then (fadd32 old v).1 else amoNew (hOp h) n old v
      let s := s.perfWrite (peerWriter o h) a new n
      respond (setFilter s home slice (filterOf s home slice ++ [(key, BitVec.ofNat 64 old)])) die h bs old none

/-- ATOMIC at a die: a request, or the answer to one. -/
def doAtomic (s : State) (die : Nat) (h : Beat) (bs : List Beat) : State :=
  if !packetOk 3 h bs then dropPacket (leaveBuffer s h bs) die
  else if hResp h then takeResponse s die h bs
  else match ingress s die h bs { r := true, w := true, a := true } 2 with
  | .refuse r t => answerPacket t die h bs (-(r : Int))
  | .wait t => again t (.atomic die h bs)
  | .place a o t => performAtomic t die h bs a o

/-- ATOMIC (20 R479). -/
def execAtomic (s : State) : Outc :=
  match s.ev with
  | some (.atomic die h bs) => evDo (.atomic die h bs) (doAtomic s die h bs)
  | _ => .fault .noSuchUnit

/-! ### COUNTER and ANSWER -/

/-- COUNTER at a die: the export entry of KIND INVOKE whose OWNER owns the counter (20 R479), the decrement applied once. -/
def doCounter (s : State) (die : Nat) (h : Beat) (bs : List Beat) : State :=
  let hd := BitVec.ofNat 64 (bbits (bs.getD 1 0) 63 0)
  let key := filterKey s die h bs
  let part := s.partOf die
  if !packetOk 4 h bs then dropPacket (leaveBuffer s h bs) die
  else if s.fenced part then answerPacket s die h bs (-3)
  else if (filterOf s die 64).any (fun p => p.1 == key) then answerPacket s die h bs 0
  else if !exportAdmits s die 2 h bs then answerPacket (denied s die) die h bs (-1)
  else match counterOf s hd with
  | none => answerPacket s die h bs (-5)
  | some c =>
    if c.owner ≠ bits (s.exportEnt part (hExp h)) 63 52 ∨ s.partOf (hDie hd) ≠ part then answerPacket (denied s die) die h bs (-1)
    else match inTurn s hd (bIdent bs / 2 ^ 24) (applyDec s part hd) with
    | .wait => again s (.counter die h bs)
    | .refused => answerPacket s die h bs (-5)
    | .done s => answerPacket (setFilter s die 64 (filterOf s die 64 ++ [(key, 0)])) die h bs 0

/-- COUNTER (20 R479). -/
def execCounter (s : State) : Outc :=
  match s.ev with
  | some (.counter die h bs) => evDo (.counter die h bs) (doCounter s die h bs)
  | _ => .fault .noSuchUnit

/-- A status for an access: an acceptance, or a refusal (08 R200, R490). -/
def accessStatus (s : State) (id : Nat) (x : Access) (a : Int) : State :=
  if a = 0 then acceptStore s id x
  else refuseAccess s id x (if (-a).toNat ≤ 4 then (-a).toNat else 7) (otherReason (-a).toNat)

/-- A status for a unit's request: an engine's write accepted or refused, a queue's invocation, the end of a launch or
group whose DONE counter lies at a peer (11 R285; 19 R462; 15 R371).  A write of an engine on a bad word leaves it bad, as one
within the module does. -/
def reqStatus (s : State) (die q : Nat) (r : Req) (a : Int) : State :=
  match r with
  | .engine .. => if a = 0 ∨ a = -4 then engineAnswer s q 0 none else engineRefused s q (otherReason (-a).toNat)
  | .queue p k .. => pkInvokeAnswer { s with reqs := terase s.reqs q } p k a
  | .done _ owner _ _ _ _ _ => if a = 0 then { s with reqs := terase s.reqs q } else doneRefused s q die owner
  | _ => s

/-- A status for a journal entry: a counter's or an invocation's (08 R200, 16 R401). -/
def entryStatus (s : State) (core k : Nat) (j : JEnt) (a : Int) (local_ : Bool) : State :=
  if j.typ = 1 then s.due (.postedAnswerArrival core k (if (-a).toNat ≤ 5 then (-a).toNat else 7))
  else if j.typ = 2 then invokeAnswer s core k j a local_
  else s

/-- Whether a REPLY that has come to a die is still to be looked at: a NOREPLY that follows it on its link comes after it. -/
def replyDue (s : State) (die : Nat) : Bool := s.agenda.any (fun e => match e with | .reply d _ _ => d == die | _ => false)

/-- ANSWER at the requester's die: the status goes to whom its identifier names; one that names none is discarded.  The
header is that of the request where the requester gave up (08 R214). -/
def doAnswer (s0 : State) (die : Nat) (h : Beat) (bs : List Beat) : State :=
  let local_ := hTyp h != 7
  let a := answerStatus bs
  if a = -7 ∧ replyDue s0 die then again s0 (.answer die h bs) else
  let s := if local_ then s0 else ackAnswer (leaveBuffer s0 h bs) die h bs
  if !local_ && !packetOk 7 h bs then dropPacket (leaveBuffer s0 h bs) die
  else match sentAccess s die bs with
  | some (id, x) => accessStatus s id x a
  | none =>
    match sentReq s die bs with
    | some (q, r) => reqStatus s die q r a
    | none =>
      match entryOfIdent s (bIdent bs) with
      | some (core, k, j) => if dieOf core = die then entryStatus s core k j a local_ else s
      | none => s

/-- ANSWER (16 R401, R402). -/
def execAnswer (s : State) : Outc :=
  match s.ev with
  | some (.answer die h bs) => evDo (.answer die h bs) (doAnswer s die h bs)
  | _ => .fault .noSuchUnit

/-! ### Flow control (16 R415) -/

/-- PAUSE: the class is no longer injected; class 0 is never paused. -/
def execPause (s : State) : Outc :=
  match s.ev with
  | some (.pause p c) => evDo (.pause p c)
      (if c = 0 ∨ c > 3 then s else s.modPort p (fun r => { r with pausedUs := tset r.pausedUs c true }))
  | _ => .fault .noSuchUnit

/-- RESUME: the packets kept for the class are injected, in order. -/
def doResume (s : State) (p c : Nat) : State :=
  let kept := (s.port p).waiting.filter (fun w => w.1 == c)
  let s := s.modPort p (fun r => { r with pausedUs := terase r.pausedUs c, waiting := r.waiting.filter (fun w => w.1 != c) })
  kept.foldl (fun s w => sendBeats s p (w.2.1 :: w.2.2)) s

/-- RESUME (16 R415). -/
def execResume (s : State) : Outc :=
  match s.ev with
  | some (.resume p c) => evDo (.resume p c) (doResume s p c)
  | _ => .fault .noSuchUnit

/-- PAUSE_REPEAT: the PAUSE is sent again while the buffer stays above 256 KiB (16 R415). -/
def doPauseRepeat (s : State) (p c : Nat) : State :=
  if tget (s.port p).pausedPeer c false && decide (bufFill (s.port p) c > 262144) then again (sendControl s p c true) (.pauseRepeat p c) else s

/-- PAUSE_REPEAT (16 R415). -/
def execPauseRepeat (s : State) : Outc :=
  match s.ev with
  | some (.pauseRepeat p c) => evDo (.pauseRepeat p c) (doPauseRepeat s p c)
  | _ => .fault .noSuchUnit

/-- A packet enters the receive buffer of its class: past 512 KiB the peer is told to pause (16 R415). -/
def enterBuffer (s : State) (p : Nat) (h : Beat) (bs : List Beat) : State :=
  let c := packetClass h
  let s := s.modPort p (fun r => { r with inbuf := r.inbuf ++ [(c, h, bs)] })
  if c ≠ 0 ∧ bufFill (s.port p) c > 524288 ∧ tget (s.port p).pausedPeer c false = false then
    (sendControl (s.modPort p (fun r => { r with pausedPeer := tset r.pausedPeer c true })) p c true).due (.pauseRepeat p c)
  else s

/-! ### Flits (20 R477, R478) -/

/-- The packets that beats complete, in order, with the beats of the one that goes on: an idle beat is zero, which no header
is. -/
def splitBeats : List Beat → List Beat → List (Beat × List Beat) × List Beat
  | cur, [] => ([], cur)
  | cur, b :: r =>
    if cur.isEmpty && b == 0 then splitBeats [] r
    else
      let c := cur ++ [b]
      if c.length > bbits (c.headD 0) 123 120 then
        let (l, rest) := splitBeats [] r
        ((c.headD 0, c.drop 1) :: l, rest)
      else splitBeats c r

/-- Whether a packet of a peer passes the port's own check: the ingress of an INVOKE, which must be for a die of the port's
partition (16 R405; DESIGN CHOICE, log 100). -/
def portAdmits (s : State) (die : Nat) (h : Beat) (bs : List Beat) : Bool :=
  hTyp h != 5 || !packetOk 5 h bs || (s.partOf (hDdie h) == s.partOf die && invokePasses s die h bs)

/-- The die that sees a packet from a port: that of the port for a request to memory or a counter, whose ingress the port is
(16 R405), else the one that the header names. -/
def portTarget (die : Nat) (h : Beat) : Nat := if hTyp h ≤ 4 && !(hTyp h ≤ 3 && hTyp h != 1 && hResp h) then die else hDdie h

/-- A packet that a port has received: to the die that sees it; one of a reserved TYPE, or for another module, is
dropped.  The ports of a partition in reset refuse (16 R402, R405; 18 R450, R452). -/
def receivePacket (s : State) (p : Nat) (x : Beat × List Beat) : State :=
  let (h, bs) := x
  let die := portDie p
  match (if hDmod h = s.modnum die then packetEvent (portTarget die h) h bs else none) with
  | none => dropPacket s die
  | some e =>
    if s.fenced (s.partOf die) then
      (match packetClass h with
       | 0 => s
       | 1 => sendAnswer s die h (bIdent bs) (-5)
       | _ => sendAnswer s die h (bIdent bs) (-3))
    else if !portAdmits s die h bs then sendAnswer (denied s die) die h (bIdent bs) (-3)
    else (enterBuffer s p h bs).due e

/-- The flits that a peer has acknowledged are forgotten; whether it has lost those after them is a free value, and they
are then sent again, in order (20 R478, R488). -/
def takeAck (s : State) (die p ack : Nat) : State :=
  let keep := (s.port p).unacked.filter (fun f => (f.1 + 65536 - ack) % 65536 - 1 < 32768 && f.1 != ack)
  let s := s.modPort p (fun r => { r with unacked := keep })
  if bitAt (Config.freeWord s.tick).toNat 0 then
    (keep.foldl (fun s f => (s.out (.flit p f.2)).dieEv die 9 0) s).tock
  else s.tock

/-- The PAUSE and RESUME bits of a control beat. -/
def takeControl (s : State) (p c : Nat) : State :=
  [1, 2, 3].foldl (fun s k =>
    let s := if bitAt c (92 + k) then s.due (.pause p k) else s
    if bitAt c (88 + k) then s.due (.resume p k) else s) s

/-- FLIT_RECEIVE: a flit whose CRC fails, or that does not follow the last good one, is discarded (20 R478). -/
def doFlit (s : State) (p : Nat) (beats : List Beat) : State :=
  let r := s.port p
  let c := (beats.headD 0).toNat
  let data := beats.drop 1
  if !r.up || beats.length != 16 then s
  else if Config.flitCrc (BitVec.ofNat 128 (c - c % 2 ^ 32) :: data) ≠ BitVec.ofNat 32 c then s
  else
    let s := takeControl (takeAck s (portDie p) p (bits c 111 96)) p c
    if BitVec.ofNat 16 (bits c 127 112) ≠ r.rxSeq + 1 then s
    else
      let start := bits c 35 32
      let body := if r.rest.isEmpty then (if start = 0 then [] else data.drop (start - 1)) else data
      let (l, rest) := splitBeats r.rest body
      let s := s.modPort p (fun r => { r with rxSeq := r.rxSeq + 1, rest := rest })
      l.foldl (fun s x => receivePacket s p x) s

/-- FLIT_RECEIVE (20 R478). -/
def execFlitReceive (s : State) : Outc :=
  match s.ev with
  | some (.flitReceive p beats) => evDo (.flitReceive p beats) (doFlit s p beats)
  | _ => .fault .noSuchUnit

/-! ### Links (20 R474, R477, R486) -/

/-- LINK_TRAINING: a port comes up with nothing in flight, or stays down (20 R477). -/
def execLinkTraining (s : State) : Outc :=
  match s.ev with
  | some (.linkTraining p ok) => evDo (.linkTraining p ok)
      (s.modPort p (fun r => { r with up := ok, txSeq := 0, rxSeq := 0, rest := [], unacked := [], pausedUs := [], pausedPeer := [], waiting := [] }))
  | _ => .fault .noSuchUnit

/-- FABRIC_LINK_LOST: what depends on the link is refused after the replays of its requesters (20 R477, R486). -/
def execFabricLinkLost (s : State) : Outc :=
  match s.ev with
  | some (.fabricLinkLost p) => evDo (.fabricLinkLost p) (s.modPort p (fun r => { r with up := false, rest := [], unacked := [], waiting := [] }))
  | _ => .fault .noSuchUnit

/-- HOST_LINK_TRAINING: one of the supported rates in GT/s and widths, else the link stays as it is (20 R474). -/
def execHostLinkTraining (s : State) : Outc :=
  match s.ev with
  | some (.hostLinkTraining rate width) => evDo (.hostLinkTraining rate width)
      (if [128, 64, 32].contains rate ∧ [16, 8].contains width then { s with cxl := some (rate, width) } else s)
  | _ => .fault .noSuchUnit

end Sys2Proof.Machine
end

