-- ==== Sys2Proof/Machine/Platform.lean ====
section
/-!
DEFINITION. Platform: the thermal and power steps (20 R483-R485), the debug commands (19 R473; 14 R364; 05 R122), the answers
to SPDM requests (20 R482), and the loader (02 R47-R49).
-/
namespace Sys2Proof.Machine

/-! ### Thermal and power steps (20 R483-R485) -/

/-- The hottest of the eight sensors of a THSTAT value. -/
def hottest (v : Nat) : Nat := (List.range 8).foldl (fun m k => max m (bits v (8 * k + 7) (8 * k))) 0

/-- STEP of a THRCFG value: 1 to 16, other values act as 2. -/
def thStepOf (c : Nat) : Nat := if 1 ≤ bits c 15 8 ∧ bits c 15 8 ≤ 16 then bits c 15 8 else 2

/-- The step to which a temperature raises h: min(7, 1 + ⌊(Tmax - T0) / STEP⌋), 0 below T0. -/
def thTarget (c tmax : Nat) : Nat := if tmax < bits c 7 0 then 0 else min 7 (1 + (tmax - bits c 7 0) / thStepOf c)

/-- Whether a temperature is at or below the release bound of step h. -/
def thReleased (c h tmax : Nat) : Bool := decide (tmax + bits c 23 16 ≤ bits c 7 0 + thStepOf c * (h - 1))

/-- The sensors of a die read new values. -/
def setSensors (s : State) (die : Nat) (v : BitVec 64) : State := s.modPlat die (fun p => { p with sensors := v })

/-- A die that has tripped is below its T0: the hold of its partition ends once none of its dies waits for that (20 R485). -/
def clearHold (s : State) (p : Nat) : State :=
  let cool := fun (d : Nat) => decide (hottest (s.die d).plat.sensors.toNat < bits (s.die d).plat.thrcfg.toNat 7 0)
  let hot := (s.part p).tripped.filter (fun d => !cool d)
  s.modPart p (fun r => { r with tripped := hot, thermalHold := !hot.isEmpty })

/-- The trip (20 R485): when Tmax reaches TCRIT the partition is reset with CAUSE 3 and takes no work. -/
def trip (s : State) (die : Nat) (v : BitVec 64) : State :=
  let p := s.partOf die
  let x := (s.die die).plat
  let crit := bits x.thrcfg.toNat 31 24
  let s := setSensors s die v
  if hottest v.toNat ≥ crit ∧ (hottest x.sensors.toNat < crit ∨ (s.part p).thermalHold = false) then
    (s.diesOf p).foldl noteStep (unrecoverable (s.modPart p (fun r =>
      { r with thermalHold := true, tripped := setAdd r.tripped die, hotReset := r.st != 3 && r.st != 4 })) p)
  else s

/-- The sensors of a die are read: the trip, the end of a hold, and the dwell, which runs while Tmax stays at or below the
release bound (20 R484, R485). -/
def sense (s0 : State) (die : Nat) (v : BitVec 64) : State :=
  let s := clearHold (trip s0 die v) (s0.partOf die)
  let x := (s.die die).plat
  let low := x.thH ≠ 0 ∧ thReleased x.thrcfg.toNat x.thH (hottest v.toNat) = true
  s.modPlat die (fun p => { p with thBelow := if low then some (x.thBelow.getD s.now) else none })

/-- The rise of h (20 R484). -/
def rise (s0 : State) (die : Nat) (v : BitVec 64) : State :=
  let s := sense s0 die v
  let x := (s.die die).plat
  let h := thTarget x.thrcfg.toNat (hottest v.toNat)
  if h > x.thH then noteStep (setThermal s die h none) die else s

/-- The fall of h by one, once Tmax has stayed at or below the release bound for DWELL, 4,000 cycles to a µs; the next
fall has a dwell of its own (20 R484). -/
def fall (s0 : State) (die : Nat) (v : BitVec 64) : State :=
  let s := sense s0 die v
  let x := (s.die die).plat
  let c := x.thrcfg.toNat
  if thTarget c (hottest v.toNat) > x.thH then s.due (.thermalStepRise die v)
  else match x.thBelow with
  | none => s
  | some t =>
    if s.now < t + bits c 47 32 * 4000 then s
    else
      let low := x.thH ≥ 2 ∧ thReleased c (x.thH - 1) (hottest v.toNat) = true
      noteStep (setThermal s die (x.thH - 1) (if low then some s.now else none)) die

/-- THERMAL_STEP_RISE (20 R484). -/
def execThermalStepRise (s : State) : Outc :=
  match s.ev with
  | some (.thermalStepRise die v) => evDo (.thermalStepRise die v) (rise s die v)
  | _ => .fault .noSuchUnit

/-- THERMAL_STEP_FALL (20 R484). -/
def execThermalStepFall (s : State) : Outc :=
  match s.ev with
  | some (.thermalStepFall die v) => evDo (.thermalStepFall die v) (fall s die v)
  | _ => .fault .noSuchUnit

/-- THERMAL_TRIP (20 R485). -/
def execThermalTrip (s : State) : Outc :=
  match s.ev with
  | some (.thermalTrip die v) => evDo (.thermalTrip die v) (sense s die v)
  | _ => .fault .noSuchUnit

/-- POWER_STEP_CHANGE: one step for every die (20 R484). -/
def execPowerStepChange (s : State) : Outc :=
  match s.ev with
  | some (.powerStepChange w) => evDo (.powerStepChange w) ((List.range 32).foldl noteStep { s with powerW := w.toNat })
  | _ => .fault .noSuchUnit

/-- THROTTLE_STEP_APPLY: a changed step is in effect for the rotations and table periods that begin from now (20 R484). -/
def execThrottleStepApply (s : State) : Outc :=
  match s.ev with
  | some (.throttleStepApply die) => evDo (.throttleStepApply die) (s.modPlat die (fun p => { p with thK := p.thNext.getD p.thK, thNext := none }))
  | _ => .fault .noSuchUnit

/-! ### Debug commands (19 R473) -/

/-- The outcome of a debug command: RESULT, and the state it leaves. -/
abbrev Dbg := Nat × State

/-- The target of a die's debug interface: slot, and its thread if it holds one. -/
def dbgSlot (s : State) (die : Nat) : Option Nat := slotOfCoord (setBits (s.die die).plat.dbgTgt.toNat 28 24 die)

/-- The end of a command: RESULT is set and BUSY clears. -/
def dbgEnd (die : Nat) (r : Dbg) : State :=
  r.2.modPlat die (fun p => { p with dbgStat := BitVec.ofNat 64 (setBits (setBits p.dbgStat.toNat 3 1 r.1) 0 0 0) })

/-- STATE and COUNT of a register entry read (05 R122). -/
def dbgEntry (s : State) (die : Nat) (e : RegEnt) : State :=
  let st := match e.st with | .present => 0 | .pending => 1 | .released => 2
  s.modPlat die (fun p => { p with dbgStat := BitVec.ofNat 64 (setBits (setBits p.dbgStat.toNat 5 4 st) 11 8 e.cnt.toNat) })

/-- A value read into DBGDATA. -/
def dbgGive (s : State) (die v : Nat) : Dbg := (0, s.modPlat die (fun p => { p with dbgData := BitVec.ofNat 64 v }))

/-- A dword of an image. -/
def dwordOf (v h : Nat) : Nat := bits v (64 * h + 63) (64 * h)

/-- An image with a dword replaced. -/
def setDword (v h x : Nat) : Nat := setBits v (64 * h + 63) (64 * h) x

/-- The CSRs that a thread holds, not its core or the module (03 R78). -/
def csrOfThread (n : Nat) : Bool := csrKnown n && !([0xC00, 0xC01, 0x5C8, 0x5C9, 0xDC0, 0xDC1].contains n)

/-- The run state of a thread. -/
def runState (t : Thread) : Nat := if t.stopped then 2 else if t.park.isSome then 1 else 0

/-- Whether the table has a selector, and a write of it is not marked Never (19 R473). -/
def dbgWritable (sel : Nat) : Bool :=
  (1 ≤ sel && sel < 32) || (0x100 ≤ sel && sel < 0x120) || (0x200 ≤ sel && sel < 0x220) || (0x300 ≤ sel && sel < 0x310) ||
    (0x1000 ≤ sel && sel < 0x2000 && csrOfThread (sel - 0x1000)) || sel == 0x2000 || sel == 0x2001 || (0x10000 ≤ sel && sel < 0x12000)

/-- Whether the table has a selector (19 R473). -/
def dbgKnown (sel : Nat) : Bool :=
  dbgWritable sel || sel == 0x2002 || (0x2100 ≤ sel && sel < 0x2120) || sel == 0x2180 || (0x2200 ≤ sel && sel < 0x2210) ||
    (0x40000 ≤ sel && sel < 0x50000)

/-- What an item of a thread reads, none for a selector outside the table (19 R473). -/
def dbgItem (s : State) (slot : Nat) (t : Thread) (sel : Nat) : Option Nat :=
  if 0x100 ≤ sel ∧ sel < 0x120 then some (dwordOf (t.desc ((sel - 0x100) / 2)).toNat (sel % 2))
  else if 0x200 ≤ sel ∧ sel < 0x220 then some (dwordOf (t.gen ((sel - 0x200) / 4)).toNat (sel % 4))
  else if 0x300 ≤ sel ∧ sel < 0x310 then some (dwordOf (t.seg ((sel - 0x300) / 2)).toNat (sel % 2))
  else if 0x1000 ≤ sel ∧ sel < 0x2000 ∧ csrOfThread (sel - 0x1000) = true then some (csrRead s (.thread slot) t (sel - 0x1000)).toNat
  else if sel = 0x2000 then some t.pc.toNat
  else if sel = 0x2001 then some (if t.mode = .k then 1 else 0)
  else if sel = 0x2002 then some (runState t)
  else if 0x2100 ≤ sel ∧ sel < 0x2120 then
    some (match t.held[sel - 0x2100]? with | some o => o.next * 2 ^ 48 + o.pc.toNat * 2 ^ 32 + o.word.toNat | none => 0)
  else if sel = 0x2180 then some t.held.length
  else if 0x2200 ≤ sel ∧ sel < 0x2210 then some (tget t.ring (sel - 0x2200) 0).toNat
  else none

/-- The header of a context frame: valid, OWNER, GEN. -/
def frameHeader (f : Frame) : Nat := if f.saved.isSome then 2 ^ 63 + f.owner * 2 ^ 48 + f.gen.toNat else f.gen.toNat

/-- DBG_READ: a selector outside the table comes before an empty slot; a read has no side effect (14 R363, 05 R122; 19 R473). -/
def dbgReadAt (s : State) (die sel : Nat) : Dbg :=
  if !dbgKnown sel then (2, s)
  else if 0x40000 ≤ sel ∧ sel < 0x50000 then dbgGive s die (frameHeader (tget (s.die die).frames (sel - 0x40000) {}))
  else match dbgSlot s die with
  | none => (3, s)
  | some slot =>
    if 0x10000 ≤ sel ∧ sel < 0x12000 then dbgGive s die (s.rd (aLocal (coreOf slot) (8 * (sel - 0x10000))) 8)
    else match tfind s.threads slot with
    | none => (3, s)
    | some t =>
      if 1 ≤ sel ∧ sel < 32 then
        (if sel ≥ t.win then (2, s)
         else
          let e := t.ent sel
          dbgGive (dbgEntry s die e) die (if e.st = .present then e.val.toNat else 0))
      else match dbgItem s slot t sel with
      | none => (2, s)
      | some v => dbgGive s die v

/-- DBG_READ (19 R473). -/
def execDbgRead (s : State) : Outc :=
  match s.ev with
  | some (.dbgRead die) => evDo (.dbgRead die) (dbgEnd die (dbgReadAt s die (s.die die).plat.dbgSel.toNat))
  | _ => .fault .noSuchUnit

/-- Whether a slot takes a debug write: its thread is stopped, or its HOLD is 1 (14 R364). -/
def dbgMayWrite (s : State) (slot : Nat) : Bool :=
  match tfind s.threads slot with
  | some t => t.stopped || t.hold
  | none => bitAt (tget (s.core (coreOf slot)).attr (slot % 64) 0).toNat 1

/-- A write of an item of a thread, none for a selector or value that is not accepted (19 R473). -/
def dbgPutItem (s : State) (slot : Nat) (t : Thread) (sel : Nat) (v : BitVec 64) : Option State :=
  let put := fun (u : Thread) => some (s.setTh (.thread slot) u)
  if 1 ≤ sel ∧ sel < 32 then (if sel < t.win then put (writeEnt t sel v 0) else none)
  else if 0x100 ≤ sel ∧ sel < 0x120 then
    (let n := (sel - 0x100) / 2
     let d : Desc := BitVec.ofNat 128 (setDword (t.desc n).toNat (sel % 2) v.toNat)
     if n < t.tlim ∧ (dNull d = true ∨ descOk d = true) then put (t.setDesc n d) else none)
  else if 0x200 ≤ sel ∧ sel < 0x220 then
    (let n := (sel - 0x200) / 4
     let g : Gen := BitVec.ofNat 256 (setDword (t.gen n).toNat (sel % 4) v.toNat)
     if genMalformed g = false ∧ genFmtOk g = true then put ((t.setGen n g).wrote (0x200 + n)) else none)
  else if 0x300 ≤ sel ∧ sel < 0x310 then
    (let n := (sel - 0x300) / 2
     let g := BitVec.ofNat 128 (setDword (t.seg n).toNat (sel % 2) v.toNat)
     if sgMalformed g then none else put ({ t with sgs := if g = 0 then terase t.sgs n else tset t.sgs n g }.wrote (0x300 + n)))
  else if 0x1000 ≤ sel ∧ sel < 0x2000 ∧ csrOfThread (sel - 0x1000) = true then
    (let n := sel - 0x1000
     if bits n 11 10 = 3 ∨ (n = 0x800 ∧ (pmapRefusal s slot t v.toNat).isSome = true) then none else some (csrWrite s (.thread slot) t n v))
  else if sel = 0x2000 then (if v.toNat % 4 = 0 then put { t with pc := v } else none)
  else if sel = 0x2001 then (if v = 0 then put { t with mode := .u } else if v = 1 then put { t with mode := .k } else none)
  else none

/-- DBG_WRITE: a selector outside the table or marked Never, an empty slot, a slot that runs, and a value that is not
accepted are told apart in that order (14 R364; 19 R473). -/
def dbgWriteAt (s : State) (die sel : Nat) (v : BitVec 64) : Dbg :=
  if !dbgWritable sel then (2, s)
  else match dbgSlot s die with
  | none => (3, s)
  | some slot =>
    if 0x10000 ≤ sel ∧ sel < 0x12000 then
      (if dbgMayWrite s slot then (0, s.perfWrite sxWriter (aLocal (coreOf slot) (8 * (sel - 0x10000))) v.toNat 8) else (1, s))
    else match tfind s.threads slot with
    | none => (3, s)
    | some t =>
      if !dbgMayWrite s slot then (1, s)
      else match dbgPutItem s slot t sel v with
      | none => (2, s)
      | some s => (0, s)

/-- DBG_WRITE (19 R473). -/
def execDbgWrite (s : State) : Outc :=
  match s.ev with
  | some (.dbgWrite die) => evDo (.dbgWrite die) (dbgEnd die (dbgWriteAt s die (s.die die).plat.dbgSel.toNat (s.die die).plat.dbgData))
  | _ => .fault .noSuchUnit

/-- A stopped thread goes on at tepc with INH cleared, as `tret` would have it: at no multiple of 4 it traps MISALIGNED
(14 R350, R364). -/
def resumeStopped (s : State) (slot : Nat) (t : Thread) : State :=
  let s := s.setTh (.thread slot) { t with stopped := false }
  if t.csr.tepc.toNat % 4 ≠ 0 then s.takeTrap (.thread slot) .misaligned false t.csr.tepc (info142 0 15 false (bits t.csr.tepc.toNat 63 61))
  else resumeHeld (s.setTh (.thread slot) (leaveTrap (.thread slot) { t with stopped := false })) slot

/-- DBG_RELEASE (14 R364). -/
def dbgReleaseAt (s : State) (die : Nat) : Dbg :=
  match dbgSlot s die with
  | none => (3, s)
  | some slot =>
    match tfind s.threads slot with
    | none => (3, s)
    | some t => if t.stopped then (0, resumeStopped s slot t) else (1, s)

/-- DBG_RELEASE (14 R364). -/
def execDbgRelease (s : State) : Outc :=
  match s.ev with
  | some (.dbgRelease die) => evDo (.dbgRelease die) (dbgEnd die (dbgReleaseAt s die))
  | _ => .fault .noSuchUnit

/-- The ELASTIC bit of a slot. -/
def slotElastic (s : State) (slot : Nat) : Bool :=
  match tfind s.threads slot with
  | some t => t.elastic
  | none => bitAt (tget (s.core (coreOf slot)).attr (slot % 64) 0).toNat 0

/-- HOLD set or cleared, as the attribute write of `rotw` does it (14 R368). -/
def dbgHoldAt (s : State) (die : Nat) (b : Bool) : Dbg :=
  match dbgSlot s die with
  | none => (3, s)
  | some slot => (0, setAttr s (coreOf slot) (slot % 64) b (slotElastic s slot))

/-- DBG_HOLD (19 R473). -/
def execDbgHold (s : State) : Outc :=
  match s.ev with
  | some (.dbgHold die) => evDo (.dbgHold die) (dbgEnd die (dbgHoldAt s die true))
  | _ => .fault .noSuchUnit

/-- DBG_UNHOLD (19 R473). -/
def execDbgUnhold (s : State) : Outc :=
  match s.ev with
  | some (.dbgUnhold die) => evDo (.dbgUnhold die) (dbgEnd die (dbgHoldAt s die false))
  | _ => .fault .noSuchUnit

/-! ### SPDM (20 R482) -/

/-- What the measurements cover (20 R482): the ROM, the firmware of each die, the fuse state that the model holds, the security
minimum, and the VFCFG registers as they stand, in effect or not. -/
def measured (s : State) : List Nat :=
  Config.rom :: s.minVersion :: ((List.range 32).map (s.vfReg) ++
    (List.range 32).flatMap (fun d => [(s.die d).booted.toNat, (s.die d).firmware.1, (s.die d).firmware.2]))

/-- An answer leaves: its bytes are a free value of the message, what was asked, and what it depends on (log 6). -/
def spdmAnswer (s : State) (msg asked : Nat) (depends : List Nat) : State := s.out (.spdm msg (Config.spdm msg asked depends))

/-- GET_CERTIFICATE: the chain of the device identity does not change. -/
def execGetCertificate (s : State) : Outc :=
  match s.ev with
  | some (.getCertificate slot) => evDo (.getCertificate slot) (spdmAnswer s 0 slot [])
  | _ => .fault .noSuchUnit

/-- CHALLENGE: signed with the Alias key over the nonce and the measurements. -/
def execChallenge (s : State) : Outc :=
  match s.ev with
  | some (.challenge n) => evDo (.challenge n) (spdmAnswer s 1 n.toNat (measured s))
  | _ => .fault .noSuchUnit

/-- GET_MEASUREMENTS. -/
def execGetMeasurements (s : State) : Outc :=
  match s.ev with
  | some (.getMeasurements i) => evDo (.getMeasurements i) (spdmAnswer s 2 i (measured s))
  | _ => .fault .noSuchUnit

/-- KEY_EXCHANGE: a session is established. -/
def execKeyExchange (s : State) : Outc :=
  match s.ev with
  | some (.keyExchange k) => evDo (.keyExchange k) (spdmAnswer { s with sessions := s.sessions + 1 } 3 k [s.sessions])
  | _ => .fault .noSuchUnit

/-! ### The loader (02 R47, R49) -/

/-- A load request (02 R49); its first core by number. -/
structure LoadReq where
  image : Nat
  length : Nat
  owner : Nat
  part : Nat
  origin : Nat
  cores : Nat
  hnd : Bool

/-- The header of an image (02 R47). -/
structure ImageHdr where
  exb : Nat
  tvec : Nat
  bfmt : Nat
  bmask : Nat
  nseg : Nat
  nhnd : Nat
  nlch : Nat
  llen : Nat

/-- The request at a host address, none where it is malformed. -/
def loadReq (s : State) (a : Nat) : Option LoadReq :=
  let d := fun (k : Nat) => s.rd (aHost (a + 8 * k)) 8
  if a % 64 ≠ 0 ∨ a ≥ 2 ^ 52 then none
  else if d 0 ≥ 2 ^ 52 || bits (d 2) 63 21 != 0 || bits (d 2) 15 12 != 0 || d 3 ≥ 2 ^ 29 || bits (d 3) 5 0 != 0 || d 4 ≥ 2 ^ 14 ||
      d 5 > 1 || d 6 != 0 || d 7 != 0 then none
  else (coreOfCoord (d 3)).map (fun c =>
    { image := d 0, length := d 1, owner := bits (d 2) 11 0, part := bits (d 2) 20 16, origin := c, cores := d 4 + 1, hnd := d 5 == 1 })

/-- n bytes of an image from an offset. -/
def imgRd (s : State) (r : LoadReq) (o n : Nat) : Nat := s.rd (aHost (r.image + o)) n

/-- The header of a request's image, none where it is malformed. -/
def imageHdr (s : State) (r : LoadReq) : Option ImageHdr :=
  let g := imgRd s r
  let h : ImageHdr := { exb := g 6 2, tvec := g 8 8, bfmt := g 16 8, bmask := g 24 2, nseg := g 26 2, nhnd := g 28 2, nlch := g 30 2, llen := g 32 8 }
  if g 0 4 == 0x4E574D45 && g 4 2 == 1 && h.exb ≤ 256 && (h.tvec == 0 || (h.tvec % 4 == 0 && h.tvec < h.exb * 256)) && h.llen % 16 == 0 &&
      h.llen ≤ 65536 && h.exb * 256 ≤ h.llen && g 40 24 == 0 && 64 + h.llen ≤ r.length then some h
  else none

/-- The segment records: number, offset of the data, length; and the offset after them. -/
def segRecs (s : State) (r : LoadReq) : Nat → Nat → Option (List (Nat × Nat × Nat) × Nat)
  | 0, o => some ([], o)
  | k + 1, o =>
    let n := imgRd s r o 8
    let l := imgRd s r (o + 8) 8
    let next := o + 16 + ceilDiv l 16 * 16
    if n = 0 ∨ n > 7 ∨ next > r.length then none
    else (segRecs s r k next).map (fun p => ((n, o + 16, l) :: p.1, p.2))

/-- The launch records of an image: offsets in the image. -/
def launchRecs (s : State) (r : LoadReq) (h : ImageHdr) (o : Nat) : Option (List Nat) :=
  if o + 8 * h.nlch > r.length then none
  else
    let l := (List.range h.nlch).map (fun k => imgRd s r (o + 8 * k) 8)
    if l.all (fun x => x % 16 == 0 && x + 96 ≤ h.llen) then some (l.map (fun x => 64 + x)) else none

/-- A segment write: offset of the data, its length, the segment image, the core from which it acts. -/
structure LoadJob where
  src : Nat
  len : Nat
  seg : BitVec 128
  core : Nat
  deriving DecidableEq

/-- The segment images that launch records name as segN, each with the record's ORIGIN core, where that lies among the
request's cores; none where a record is malformed. -/
def namedSegs (s : State) (r : LoadReq) (h : ImageHdr) (n : Nat) : List Nat → Option (List (BitVec 128 × Nat))
  | [] => some []
  | o :: l =>
    match namedSegs s r h n l with
    | none => none
    | some q =>
      let p := imgRd s r (o + 8 * (4 + n)) 8
      match coreOfCoord (bits (imgRd s r (o + 8) 8) 28 0) with
      | none => none
      | some c =>
        if p = 0 ∨ c < r.origin ∨ c ≥ r.origin + r.cores then some q
        else if p + 16 > h.llen then none
        else some ((BitVec.ofNat 128 (imgRd s r (64 + p) 16), c) :: q)

/-- The segment writes of a request (02 R49 step 3): one for each record, distinct image and ORIGIN core. -/
def loadJobs (s : State) (r : LoadReq) (h : ImageHdr) : Option (List LoadJob) :=
  match segRecs s r h.nseg (64 + h.llen) with
  | none => none
  | some (recs, o) =>
    match launchRecs s r h (o + 32 * h.nhnd) with
    | none => none
    | some ls =>
      (recs.mapM (fun (p : Nat × Nat × Nat) => (namedSegs s r h p.1 ls).map (fun q => q.eraseDups.map (fun x => (⟨p.2.1, p.2.2, x.1, x.2⟩ : LoadJob))))).map List.flatten

/-- The end of a load: STEP and CODE. -/
def loadEnd (s : State) (step code : Nat) : State := { s with ldstat := BitVec.ofNat 64 (step * 16 + code), loader := {} }

/-- Whether every core of a request may be loaded (02 R49 step 1). -/
def loadCoresOk (s : State) (r : LoadReq) : Bool :=
  (List.range r.cores).all (fun n => let c := r.origin + n
    c < 409600 && s.ownerOf c == r.owner && s.partOf (dieOf c) == r.part && !s.coreLive c)

/-- Step 2 on a core: local store, `exb`, the marked `bfmt` fields, the trap vector. -/
def loadCore (s : State) (r : LoadReq) (h : ImageHdr) (c : Nat) : State :=
  let s := s.wrBytes (aLocal c 0) (s.rdBytes (aHost (r.image + 64)) h.llen)
  let fmt := (List.range 16).foldl (fun v n => if bitAt h.bmask n then setBits v (4 * n + 3) (4 * n) (bits h.bfmt (4 * n + 3) (4 * n)) else v) (s.core c).bfmt.toNat
  s.modCore c (fun x => { x with exb := h.exb, bfmt := BitVec.ofNat 64 fmt, trapVec := BitVec.ofNat 64 h.tvec, codeLog := [] })

/-- The loader's number among those that wait for a translation. -/
def loaderNum : Nat := 2 ^ 66

/-- Where the next bytes of a segment write go (02 R49 step 3). -/
def loadPlace (s : State) (r : LoadReq) (j : LoadJob) (at_ : Nat) : Loc :=
  let a := sgBase j.seg + at_
  let die := dieOf j.core
  match sgKind j.seg with
  | 0 => .place (aLocal j.core a) false s
  | 1 => .place (aCluster (clusterOf j.core) a) false s
  | 2 => if s.dieIn (bits a 29 25) r.part then .place (aDie a) false s else .denied 5
  | 3 =>
    if (s.die die).xlat.packDenied.contains loaderNum then .denied 5
    else (match translateUnit s { num := loaderNum, cls := 0, first := 0, cluster := clusterOf j.core, die := die, owner := r.owner } a 1 with
      | .park _ t => .wait t
      | .denied _ => .denied 5
      | .leaf e t =>
        let p := leafPa e.big e.leaf.toNat a
        if (leafCheck e.leaf.toNat { w := true }).isSome ∨ paInPart s r.part p 1 = false then .denied 5
        else if recalled t (aDev p) then .wait t
        else .place (aDev p) (bitAt e.leaf.toNat 6) t)
  | _ => .denied 5

/-- A denial that the loader has met is forgotten. -/
def loadDenied (s : State) (die : Nat) : State := s.modXlat die (fun y => { y with packDenied := y.packDenied.filter (fun k => k != loaderNum) })

/-- The writer record of the loader, which acts as the request's OWNER from a core (02 R49; 08 R216). -/
def loadWriter (r : LoadReq) (core : Nat) : Writer := { cls := 0, owner := r.owner, ident := coordOf (core * 64), tag := 0, core := core }

/-- Bytes of the next write of a segment: to the end of its 256-byte line. -/
def loadUnit (j : LoadJob) (at_ : Nat) : Nat := min (j.len - at_) (256 - (sgBase j.seg + at_) % 256)

/-- Write bytes of an image as OWNER from a core, under an identifier of its own (02 R49; 08 R214). -/
def loadBytes (s : State) (r : LoadReq) (core src a n : Nat) (sh : Bool) : State :=
  let m := (List.range n).map (fun i => (a + i, imgRd s r (src + i) 1))
  let s := writeBytes s (loadWriter r core) (fun s a n => unitLine s r.owner (dieOf core) a n sh) m
  (enterFilter s a (identCls 4 (dieOf core) s.nextId)).fresh

/-- Step 3: the next line of the next segment write, which passes the points of its way (17 R424); a later step where none is
left. -/
def loadSegs (s : State) (r : LoadReq) (jobs : List LoadJob) (e : Event) : State :=
  let l := s.loader
  match jobs[l.job]? with
  | none => again { s with loader := { l with step := 4, job := 0, at_ := 0 } } e
  | some j =>
    if sgMalformed j.seg || sgLimit j.seg < j.len then loadEnd s 3 5
    else if l.at_ ≥ j.len then again { s with loader := { l with job := l.job + 1, at_ := 0 } } e
    else match loadPlace s r j l.at_ with
    | .denied _ => loadEnd (loadDenied s (dieOf j.core)) 3 5
    | .wait t => again t e
    | .place a sh t =>
      let n := loadUnit j l.at_
      match claimStep t loaderNum r.owner (unitWrite t (clusterOf j.core) a n) with
      | .wait t => again t e
      | .thru t => again { loadBytes t r j.core (j.src + l.at_) a n sh with loader := { l with at_ := l.at_ + n } } e

/-- The ring of a handler image: none is needed, or free memory of the partition for RINGN records on each of its dies
(log 9). -/
def loadRing (s : State) (part v : Nat) : Option Nat :=
  if bits v 63 48 = 0 then some 0
  else match Config.ringSpace s.tick (bits v 63 48) with
  | some a => if a % 128 = 0 ∧ paInPart s part a (bits v 63 48 * 128 * (s.diesOf part).length) = true then some a else none
  | none => none

/-- Step 4: the handler records from one on, with their codes of refusal. -/
def loadHandlers (s : State) (r : LoadReq) (o : Nat) : Nat → State
  | 0 => loadEnd s 0 2
  | k + 1 =>
    let i := imgRd s r o 8
    let v := imgRd s r (o + 16) 16
    if i ≥ 4096 ∨ imgRd s r (o + 8) 8 ≠ 0 ∨ bits v 115 64 ≠ 0 ∨ bits v 43 32 ≠ 0 ∨ o + 32 > r.length then loadEnd s 4 3
    else if handlerBad v then loadEnd s 4 6
    else match loadRing s r.part v with
    | none => loadEnd s 4 7
    | some a =>
      let w := setBits (setBits v 115 64 a) 43 32 r.owner
      loadHandlers (s.modPart r.part (fun p => { p with handlers := if w = 0 then terase p.handlers i else tset p.handlers i (BitVec.ofNat 128 w) })).tock r (o + 32) k

/-- One act of the loader on a well-formed request and image. -/
def loadAct (s : State) (r : LoadReq) (h : ImageHdr) (e : Event) : State :=
  match s.loader.step with
  | 1 =>
    if !loadCoresOk s r then loadEnd s 1 4
    else
      let s := (List.range r.cores).foldl (fun s n => loadCore s r h (r.origin + n)) s
      again { s with loader := { s.loader with step := 3 } } e
  | 3 => match loadJobs s r h with
    | none => loadEnd s 3 3
    | some jobs => loadSegs s r jobs e
  | _ =>
    match (if r.hnd then segRecs s r h.nseg (64 + h.llen) else some ([], 0)) with
    | none => loadEnd s 4 3
    | some (_, o) => loadHandlers s r o (if r.hnd then h.nhnd else 0)

/-- LOAD_REQUEST: a request starts the loader, which then goes on by acts of its own; a request made while it is busy is
ignored, and host memory that is held is waited for (02 R49; 18 R452). -/
def doLoad (s : State) (part : Nat) (a : BitVec 64) (own : Bool) : State :=
  let e := Event.loadRequest part a true
  let busy := bits s.ldstat.toNat 3 0 == 1
  if own != busy then s
  else if s.holdsHost part then again s (.loadRequest part a own)
  else
    let s := if busy then s else { s with ldstat := 1, loader := { addr := a, step := 1 } }
    match loadReq s a.toNat with
    | none => loadEnd s 1 3
    | some r =>
      match imageHdr s r with
      | none => loadEnd s 1 3
      | some h => loadAct s r h e

/-- LOAD_REQUEST (02 R49). -/
def execLoadRequest (s : State) : Outc :=
  match s.ev with
  | some (.loadRequest part a own) => evDo (.loadRequest part a own) (doLoad s part a own)
  | _ => .fault .noSuchUnit

end Sys2Proof.Machine
end

