-- ==== Sys2Proof/Machine/Stream.lean ====
section
/-!
DEFINITION. Stream: the moves of port words (11 R293), the copy stream (11 R295), and contributions to the ordered
reduction engine with their delivery (11 R299-R301; 08 R206, R210; 09 R237).
-/
namespace Sys2Proof.Machine

/-! ### Port queues (11 R293) -/

/-- The words on their way whose turn it is and whose value is there; a late word holds back those after it. -/
def readyWords : List (Nat × Option PortWord) → List PortWord
  | (_, some w) :: r => w :: readyWords r
  | _ => []

/-- Words enter a receive queue: they are held and the tail moves on (15 R387). -/
def PortQ.enter (q : PortQ) : PortQ :=
  let w := readyWords q.coming
  { q with words := q.words ++ w, coming := q.coming.drop w.length, tail := (q.tail + w.length) % 16 }

/-- PORT_WORD_ARRIVAL (11 R293). -/
def execPortWordArrival (s : State) : Outc :=
  match s.ev with
  | some (.portWordArrival core q) => evDo (.portWordArrival core q) (noteWaits (s.modCore core (fun c => c.setQueue q (c.queue q).enter)))
  | _ => .fault .noSuchUnit

/-- PORT_ROOM_RETURN: pops are seen by the sender (11 R293). -/
def execPortRoomReturn (s : State) : Outc :=
  match s.ev with
  | some (.portRoomReturn core q) => evDo (.portRoomReturn core q) (noteWaits (s.modCore core (fun c => c.setQueue q { c.queue q with unseen := 0 })))
  | _ => .fault .noSuchUnit

/-! ### sbind (11 R295) -/

/-- COUNT of a stream. -/
def streamCount (xs : BitVec 64) : Nat := bits xs.toNat 31 0
/-- Bytes from word to word. -/
def streamStride (xs : BitVec 64) : Nat := if bits xs.toNat 47 32 = 0 then 8 else bits xs.toNat 47 32

/-- Whether a thread has a stream that still pushes. -/
def streaming (s : State) (slot tag : Nat) : Bool :=
  s.transfers.any (fun p => p.2.slot == slot && p.2.tag == tag && p.2.ended.isNone && (match p.2.ins with | .sbind _ _ => true | _ => false))

/-- sbind (11 R295). -/
def sbindBody (e : Env) : Res :=
  match e.ag with
  | .sextant _ _ => doneS e.s
  | .thread slot =>
    let n := streamCount e.b
    if n = 0 ∨ bits e.b.toNat 63 48 ≠ 0 ∨ bits e.b.toNat 47 32 % 8 ≠ 0 then tileTrap e.i (.tileShape, 9, 0)
    else
      let size := (n - 1) * streamStride e.b + 8
      match ptrCheck e.s slot e.th { size := size, align := 8, r := true, acc := 10 } e.a with
      | .error (c, v, i) => .trap c v i
      | .ok (kind, a) =>
        if (inPort e.th).map Prod.snd ≠ some 4 then illegal e.i 2 0
        else match watchFind e.th e.a.toNat size true false with
          | some k => watchTrap k 10 e.a
          | none =>
            if streaming e.s slot e.th.tag then .park .stream e.th.prog e.s
            else issueTransfer e { slot := slot, tag := e.th.tag, core := coreOf slot, ins := e.i, owner := e.s.ownerOf (coreOf slot), ea := e.a, kind := kind, at_ := a, len := size, xs := e.b, segs := e.th.sgs } .none

/-- sbind (11 R295). -/
def execSbind (a b : BitVec 5) (st : State) : Outc := runIns st (.sbind a b) { srcs := [(1, a), (2, b)] } sbindBody

/-- The mark of a stream's word (11 R293). -/
def streamMark (c : Cause) : Mark := { cause := c, tval := 0, tinfo := info142 0 10 true 0 }

/-- A stream pushes a word into its core's queue (11 R295); a marked one makes its status POISONED (11 R288). -/
def pushStream (s : State) (id : Nat) (t : Transfer) (v : BitVec 64) (m : Option Cause) : State :=
  let w : PortWord := { val := v, mark := m.map streamMark, slot := t.slot }
  let s := noteWaits (s.modCore t.core (fun c =>
    let q := c.queue 4
    c.setQueue 4 { q with words := q.words ++ [w], tail := (q.tail + 1) % 16 }))
  let t := { t with unit := t.unit + 1, bytes := t.bytes + 8, seen := [], fault := none, first := if m.isSome then some (0, 0) else t.first }
  let s := (putTransfer s id t).monEv (.thread t.slot) 7 (t.bytes / 32 - (t.bytes - 8) / 32)
  if t.unit < streamCount t.xs then again s (.sbindStreamPush id)
  else endTransfer s id t (if t.first.isSome then 2 else 1) 0 0 0

/-- SBIND_STREAM_PUSH: the next word is read and pushed while the queue has room (11 R295). -/
def doStream (s : State) (id : Nat) : State :=
  let e := Event.sbindStreamPush id
  match tfind s.transfers id with
  | none => s
  | some t =>
    let a := t.at_ + t.unit * streamStride t.xs
    if t.ended.isSome then s
    else match misnumbered s t with
    | some p => discardTransfer s id t p
    | none =>
    if !running s id t || t.wait.isSome || faultWaits s id t || ((s.core t.core).queue 4).used ≥ 8 then again s e
    else match tfind t.seen a with
    | some (v, bad) => pushStream s id t v (if bad then some (t.err.getD .poison) else none)
    | none =>
      match locate s id t t.source false a with
      | .wait s => again s e
      | .denied r => stopTransfer s id t 3 (some (copyMark .addrDenied r 10 (t.source.ptr a))) []
      | .place p sh s =>
        if spaceOf p = 7 then engineFabric s id t t.source a 8 a []
        else if engineBlocked s id t p 8 then again s e
        else onWay s id t false p 8 (fun s =>
          let s := engineLine s t p 8 sh
          let vs := visibleStores s s.nextId (engineAccess id t p 8)
          match readError s vs p 8 with
          | some c => pushStream s id t 0 (some c)
          | none => pushStream s id t (BitVec.ofNat 64 (seenVal s vs p 8)) none)

/-- SBIND_STREAM_PUSH (11 R295). -/
def execSbindStreamPush (s : State) : Outc :=
  match s.ev with
  | some (.sbindStreamPush id) => evDo (.sbindStreamPush id) (doStream s id)
  | _ => .fault .noSuchUnit

/-! ### The reduction control block (11 R299) -/

/-- A control block's fields. -/
structure RedBlk where
  dst : BitVec 64
  n : Nat
  int : Bool
  ok : Bool
  rows : Nat
  cols : Nat
  buf : BitVec 64
  dpitch : Nat
  arrived : Nat

/-- The control block at a place. -/
def redBlk (s : State) (p : Nat) : RedBlk :=
  let d := fun (k : Nat) => s.rd (p + 8 * k) 8
  { dst := BitVec.ofNat 64 (d 0), n := bits (d 1) 24 0, int := bitAt (d 1) 25,
    ok := bitAt (d 1) 26 && bits (d 1) 31 27 == 0 && bits (d 1) 63 48 == 0 && bits (d 3) 63 57 == 0,
    rows := bits (d 1) 39 32, cols := bits (d 1) 47 40, buf := BitVec.ofNat 64 (d 2), dpitch := bits (d 3) 31 0, arrived := bits (d 3) 56 32 }

/-- Bytes of a contribution. -/
def RedBlk.part (b : RedBlk) : Nat := b.rows * b.cols * 4
/-- Bytes of the staging area, after which the bitmap stands. -/
def RedBlk.area (b : RedBlk) : Nat := b.n * b.part
/-- Bytes of the bitmap. -/
def RedBlk.map (b : RedBlk) : Nat := ceilDiv b.n 256 * 32
/-- Bytes of the delivered rows, from the first to the last. -/
def RedBlk.out (b : RedBlk) : Nat := (b.rows - 1) * b.dpitch + 4 * b.cols

/-- The die that holds a block (11 R299). -/
def redDie (place : Nat) : Nat := if spaceOf place = 2 then offOf place / 2 ^ 20 / 200 else bits (offOf place) 29 25

/-- A pointer of a block through a contribution's segments, as kind and place; a DEVICE target by its address in the
owner's space (11 R299). -/
def redTarget (s : State) (t : Transfer) (ea : BitVec 64) (n : Nat) (r : Bool) (kinds : List Nat) : Option (Nat × Nat) :=
  match ptrCheck s t.slot { pc := 0, sgs := t.segs } { size := n, align := 1, r := r, w := true, kinds := kinds, acc := 10 } ea with
  | .ok (kind, a) => some (kind, if kind = 3 then a else placeOfKind t.core kind a)
  | .error _ => none

/-- The writer record of the reduction engine: the spec gives its class and no identifier (08 R216), a free value. -/
def redWriter (s : State) (owner : Nat) : Writer :=
  { cls := 2, owner := owner, ident := bits (Config.freeWord s.tick).toNat 28 0, tag := 0, core := 409600 }

/-- Leaf of an element of a tile (11 R300): its FP32 or INT32 word, flags. -/
def redLeaf (s : State) (core : Nat) (o : Opnd) (int : Bool) (i j : Nat) : Nat × FlagSet :=
  if !o.valid i j then (0, 0)
  else if int then (intEnc 9 (intValue o.fmt (o.codeAt s core i j)), 0)
  else roundTo 1 .rne (o.val s core .zero i j)

/-- Whether an element of a tile reads a bad word. -/
def leafBad (s : State) (core : Nat) (o : Opnd) (i j : Nat) : Bool := (firstFault s core (o.rect i 1 j 1)).isSome

/-- Set ARRIVED of a block. -/
def setArrived (s : State) (w : Writer) (p n : Nat) : State :=
  s.perfWrite w (p + 24) (setBits (s.rd (p + 24) 8) 56 32 n) 8

/-- An accepted contribution: the leaves staged, the bit set, ARRIVED one more (11 R300). -/
def stage (s : State) (id : Nat) (t : Transfer) (b : RedBlk) (o : Opnd) (blk buf : Nat) : Transfer × State :=
  let w := redWriter s t.owner
  let at_ := buf + t.xs.toNat * b.part
  let ij := (List.range b.rows).flatMap (fun i => (List.range b.cols).map (fun j => (i, j)))
  let leaves := ij.map (fun p => redLeaf s t.core o b.int p.1 p.2)
  let bad := ij.filter (fun p => leafBad s t.core o p.1 p.2)
  let s1 := s.perfWrite w at_ (packCodes 32 (leaves.map Prod.fst)) b.part
  let s1 := markGranules s1 (bad.map (fun p => at_ + 4 * (p.1 * b.cols + p.2)))
  let bit := buf + b.area + t.xs.toNat / 8
  let s1 := s1.perfWrite w bit (s1.rd bit 1 ||| 2 ^ (t.xs.toNat % 8)) 1
  let s1 := setArrived s1 w blk (b.arrived + 1)
  let t := { t with unit := 1, bytes := b.part, first := bad.head?, flags := leaves.foldl (fun g x => g ||| x.2) t.flags }
  (t, putTransfer s1 id t)

/-- A contribution at its die's engine: the checks, then the staging (11 R299, R300). -/
def contribute (s : State) (id : Nat) (t : Transfer) : State :=
    let blk := placeOfKind t.core t.kind t.at_
    let b := redBlk s blk
    let o := mkOpnd 0 t.desc t.code.toNat false false
    let no := fun (sub : Nat) => endTransfer s id t 9 sub 0 0
    let die := redDie blk
    if !b.ok then no 1
    else if t.xs.toNat ≥ b.n then no 2
    else match redTarget s t b.buf (b.area + b.map) true [2], redTarget s t b.dst b.out false [1, 2, 3] with
    | none, _ => no 6
    | some (_, buf), dst =>
      if bitAt (s.rd (buf + b.area + t.xs.toNat / 8) 1) (t.xs.toNat % 8) then no 3
      else if dRows t.desc ≠ b.rows ∨ dCols t.desc ≠ b.cols then no 4
      else if b.int ∧ !fmtInt t.code.toNat then no 5
      else match dst with
      | none => no 6
      | some d =>
        let round := tfind (s.die die).red blk
        if (match round with | some r => r.dst != d || r.buf != buf | none => false) then no 7
        else
          let (t, s) := stage s id t b o blk buf
          let r : RedRound := round.getD { dst := d, buf := buf, owner := t.owner }
          let full := b.arrived + 1 == b.n
          let s := s.modDie die (fun x => { x with red := tset x.red blk { r with last := if full then some id else none } })
          if full then s.due (.reductionDelivery die blk)
          else match t.first with
            | some (i, j) => endTransfer s id t 2 0 i j
            | none => endTransfer s id t 1 0 0 0

/-- RED_CONTRIBUTION_ARRIVAL: the contribution crosses to the die of its block (17 R422), then meets the engine there. -/
def doRed (s : State) (id : Nat) : State :=
  match tfind s.transfers id with
  | none => s
  | some t =>
    let e := Event.redContributionArrival id
    let o := mkOpnd 0 t.desc t.code.toNat false false
    if t.ended.isSome ∨ t.unit ≠ 0 then s
    else match misnumbered s t with
    | some p => discardTransfer s id t p
    | none =>
    if !running s id t || o.foot.any (fun r => engineBlocked s id t (aLocal t.core r.1) r.2) then again s e
    else match claimStep s id t.owner (plain (crossed (clusterOf t.core) (diePlace (redDie (placeOfKind t.core t.kind t.at_))))) with
      | .wait s => again s e
      | .thru s => contribute s id t

/-- RED_CONTRIBUTION_ARRIVAL (11 R300). -/
def execRedContributionArrival (s : State) : Outc :=
  match s.ev with
  | some (.redContributionArrival id) => evDo (.redContributionArrival id) (doRed s id)
  | _ => .fault .noSuchUnit

/-- red (11 R300). -/
def redBody (tile : BitVec 4) (e : Env) : Res :=
  match e.ag with
  | .sextant _ _ => doneS e.s
  | .thread slot =>
    let core := coreOf slot
    match opndOf e.s core e.th {} tile.toNat 0 false false with
    | .error b => tileTrap e.i b
    | .ok o =>
      match tileChecks (e.s.core core) { fmtOk := fun _ => true, shapeOk := fun _ => true } [o] with
      | some b => tileTrap e.i b
      | none =>
        match ptrCheck e.s slot e.th { size := 32, align := 32, r := true, w := true, a := true, kinds := [1, 2], acc := 10 } e.a with
        | .error (c, v, i) => .trap c v i
        | .ok (kind, a) =>
          match watchFind e.th e.a.toNat 32 true true with
          | some k => watchTrap k 10 e.a
          | none =>
            issueTransfer e { slot := slot, tag := e.th.tag, core := core, ins := e.i, owner := e.s.ownerOf core, desc := o.d, code := BitVec.ofNat 4 o.fmt, ea := e.a, kind := kind, at_ := a, xs := e.b, segs := e.th.sgs } .none

/-- red (11 R300). -/
def execRed (t : BitVec 4) (a b : BitVec 5) (st : State) : Outc :=
  runIns st (.red t a b) { srcs := [(1, a), (2, b)], tiles := [(0, t)], items := [0x100 + t.toNat] } (redBody t)

/-! ### Delivery (11 R301, 08 R206, R210; 09 R237) -/

/-- The requester record of a delivery: the engine's die; FIRST of class 2 is not given (09 R228), a free value. -/
def redAsker (s : State) (id die owner : Nat) : Asker :=
  { num := 2 ^ 32 + id, cls := 2, first := bits (Config.freeWord s.tick).toNat 28 0, cluster := die * 200, die := die, owner := owner }

/-- The outcome of translating the pages of a delivery. -/
inductive Pages where
  | all (l : Tbl Nat) (s : State)
  | wait (e : Nat × Nat) (s : State)
  | denied

/-- Translate every page of a delivery before any unit is taken: page numbers to frames, one more for a SHARED page (09 R220,
R237). -/
def redPages (q : Asker) : List Nat → State → Tbl Nat → Pages
  | [], s, l => .all l s
  | v :: r, s, l =>
    match translate s q (v * 65536) 6 with
    | .park (.page d n) s => .wait (d, n) s
    | .park _ s => .wait (q.die, 257) s
    | .denied _ => .denied
    | .leaf e s =>
      match leafCheck e.leaf.toNat { w := true } with
      | some _ => .denied
      | none => redPages q r s (tset l v (leafPa e.big e.leaf.toNat (v * 65536) + (if bitAt e.leaf.toNat 6 then 1 else 0)))

/-- The round is over: bitmap and ARRIVED cleared (11 R301). -/
def clearRound (s : State) (die blk : Nat) (b : RedBlk) (r : RedRound) : State :=
  let w := redWriter s r.owner
  let s := s.perfWrite w (r.buf + b.area) 0 b.map
  (setArrived s w blk 0).modDie die (fun x => { x with red := terase x.red blk })

/-- The delivered word of an element, its flags and mark: Tree over the contributors (04 R104). -/
def redSum (s : State) (b : RedBlk) (buf i j : Nat) : Nat × FlagSet × Bool :=
  let at_ := fun (c : Nat) => buf + c * b.part + 4 * (i * b.cols + j)
  let (v, f) := treeSum (if b.int then 9 else 1) ((List.range b.n).map (fun c => s.rd (at_ c) 4))
  (v, f, (List.range b.n).any (fun c => s.poisoned (at_ c) 4 || s.uncorr (at_ c) 4))

/-- The elements of a round: row and column. -/
def RedBlk.cells (b : RedBlk) : List (Nat × Nat) := (List.range b.rows).flatMap (fun i => (List.range b.cols).map (fun j => (i, j)))
/-- Where an element of a round stands after its destination. -/
def RedBlk.offset (b : RedBlk) (p : Nat × Nat) : Nat := p.1 * b.dpitch + 4 * p.2

/-- The offsets of a round's bytes. -/
def RedBlk.offsets (b : RedBlk) : List Nat := b.cells.flatMap (fun p => (List.range 4).map (fun k => b.offset p + k))

/-- The first byte's place in each line that a delivery writes. -/
def roundLines (b : RedBlk) (place : Nat → Nat × Bool) : List Nat :=
  (((b.offsets.map (fun o => (place o).1)).foldl (fun (l : List (Nat × Nat)) a => if l.any (fun q => q.1 == a / 256) then l else l ++ [(a / 256, a)]) [])).map Prod.snd

/-- Deliver a round to the places of its elements' bytes, each granule in one step and each line's write under an identifier of the
engine's (11 R301; 08 R206, R214). -/
def deliverRound (s : State) (die blk : Nat) (b : RedBlk) (r : RedRound) (id : Nat) (t : Transfer) (place : Nat → Nat × Bool) : State :=
  let sums := b.cells.map (fun p => (p, redSum s b r.buf p.1 p.2))
  let w := redWriter s r.owner
  let four := fun (p : Nat × Nat) => (List.range 4).map (fun k => place (b.offset p + k))
  let m := sums.foldl (fun m x => ((four x.1).zipIdx).foldl (fun (m : Tbl Nat) y => tset m y.1.1 (x.2.1 / 256 ^ y.2 % 256)) m) []
  let shared := fun (a : Nat) => b.offsets.any (fun o => (place o).1 == a && (place o).2)
  let s := writeBytes s w (fun s a n => unitLine s r.owner die a n (shared a)) m
  let s := (roundLines b place).foldl (fun s a => (enterFilter s a (identCls 2 die s.nextId)).fresh) s
  let bad := sums.filter (fun x => x.2.2.2)
  let s := markGranules s (bad.flatMap (fun x => (four x.1).map Prod.fst))
  let t := { t with flags := sums.foldl (fun g x => g ||| x.2.2.1) t.flags, bytes := b.part, first := t.first.or (bad.head?.map Prod.fst) }
  let s := clearRound (putTransfer s id t) die blk b r
  match t.first with
  | some (i, j) => endTransfer s id t 2 0 i j
  | none => endTransfer s id t 1 0 0 0

/-- A delivery passes the points of its lines, waits while a filter lacks room for it, then happens (17 R424; 08 R214). -/
def passRound (s : State) (die blk : Nat) (b : RedBlk) (r : RedRound) (id : Nat) (t : Transfer) (place : Nat → Nat × Bool) : State :=
  if !filtersTake s (roundLines b place) then again s (.reductionDelivery die blk)
  else match claimStep s id r.owner ((roundLines b place).flatMap (fun a => unitWrite s (unitPlace die) a 4)) with
  | .wait s => again s (.reductionDelivery die blk)
  | .thru s => deliverRound s die blk b r id t place

/-- REDUCTION_DELIVERY: every page is translated, then the round is delivered at one moment (11 R301, 09 R237). -/
def doDelivery (s : State) (die blk : Nat) : State :=
  let e := Event.reductionDelivery die blk
  match tfind (s.die die).red blk with
  | none => s
  | some r =>
    match r.last.bind (fun id => (tfind s.transfers id).map (fun t => (id, t))) with
    | none => s
    | some (id, t) =>
      let b := redBlk s blk
      let denied := fun (s : State) => endTransfer (clearRound s die blk b r) id t 9 8 0 0
      if faultWaits s id t then again s e
      else if r.dst.1 ≠ 3 then passRound s die blk b r id t (fun o => (r.dst.2 + o, false))
      else if t.deny ≠ 0 then denied s
      else
        let pages := ((List.range b.rows).flatMap (fun i => unitsOf (r.dst.2 + i * b.dpitch) (4 * b.cols) 16)).eraseDups
        match redPages (redAsker s id die r.owner) pages s [] with
        | .denied => denied s
        | .wait f s => again (putTransfer s.tock id { t with fault := some f }) e
        | .all l s =>
          let frame := fun (o : Nat) => tget l ((r.dst.2 + o) / 65536) 0
          if (l.map Prod.snd).any (fun f => recalled s (aDev f)) then again s e
          else passRound s die blk b r id { t with fault := none }
            (fun o => (aDev (frame o / 65536 * 65536 + (r.dst.2 + o) % 65536), bitAt (frame o) 0))

/-- REDUCTION_DELIVERY (11 R301). -/
def execReductionDelivery (s : State) : Outc :=
  match s.ev with
  | some (.reductionDelivery die addr) => evDo (.reductionDelivery die addr) (doDelivery s die addr)
  | _ => .fault .noSuchUnit

end Sys2Proof.Machine
end

