-- ==== Sys2Proof/Machine/CoreEvents.lean ====
section
/-!
DEFINITION. CoreEvents: the positions of a core (05 R107-R112; 20 R484), the wakes of parked threads (05 R113, R114), and the
cycles of a Sextant (19 R458).
A position or cycle selects an agent; the next step fetches and issues its instruction.
-/
namespace Sys2Proof.Machine

/-! ### Taking a pending trap (14 R345) -/

/-- A pending asynchronous trap is taken: it leaves the list, and the journal entry that holds it frees (08 R200). -/
def takePending (s : State) (a : Agent) (x : AsyncTrap) : State :=
  let s := s.modTh a (fun t => { t with traps := t.traps.erase x })
  let s := match x.journal with | some k => freeEntry s a.core k | none => s
  s.takeTrap a x.mark.cause true x.mark.tval x.mark.tinfo

/-- The agent's turn: a pending trap that is allowed is taken, otherwise its next instruction is selected; a wfi that a trap
has roused retires first (14 R351). -/
def turn (s : State) (a : Agent) : State :=
  match (s.getTh a).bind (fun t => if t.prog = .roused then none else nextTrap t) with
  | some x => takePending s a x
  | none => { s with selected := some a }

/-! ### Positions (05 R107-R112) -/

/-- A committed table takes effect (05 R107). -/
def switchTable (s : State) (core : Nat) : State :=
  s.modCore core (fun c => { c with rot := c.commit.getD c.rot, commit := none })

/-- ROTATION_TABLE_SWITCH: at position 0 of a rotation (05 R107). -/
def execRotationTableSwitch (s : State) : Outc :=
  match s.ev with
  | some (.rotationTableSwitch core) => evDo (.rotationTableSwitch core) (if (s.core core).pos % 64 = 0 then switchTable s core else s)
  | _ => .fault .noSuchUnit

/-- Whether a thread's next word enters the matrix queue (12 R310). -/
def nextMatrix (s : State) (core : Nat) (t : Thread) : Bool :=
  match decodeWord (codeWord s core t t.pc.toNat).1 with
  | .ok (.gfill _ _) => true
  | .ok (.mdld _ _) => true
  | .ok (.mdclr _) => true
  | .ok i => (matWord i).isSome
  | .error _ => false

/-- Whether a slot is eligible at a position (05 R109; 18 R450 step 2): an elastic thread whose next word enters the matrix
queue is not so at a spare one (12 R310). -/
def eligible (s : State) (core p : Nat) (spare : Bool) (k : Nat) : Bool :=
  match tfind s.threads (core * 64 + k) with
  | none => false
  | some t =>
    !t.hold && t.park.isNone && !t.stopped && t.wakePos ≤ p && (match tfind (s.core core).slotIssue k with | some q => q + 8 ≤ p | none => true) &&
      !s.parkedByReset core && !(spare && nextMatrix s core t)

/-- Select(p) (05 R110): the slot, and whether it takes a spare position. -/
def selectSlot (s : State) (core p : Nat) : Option (Nat × Bool) :=
  let c := s.core core
  let e := c.rotEntry p
  if bitAt e 7 && eligible s core p false (bits e 5 0) then some (bits e 5 0, false)
  else
    ((List.range' 1 64).map (fun i => (c.lastServed + i) % 64)).find? (fun k =>
      (match tfind s.threads (core * 64 + k) with | some t => t.elastic | none => false) && eligible s core p true k)
      |>.map (fun k => (k, true))

/-- The clock and the table move on by one position, with the gap of the throttle step (05 R107, R112; 20 R484). -/
def nextPosition (s : State) (core : Nat) : State :=
  let c := s.core core
  let k := if c.pos % 64 = 0 then (s.die (dieOf core)).plat.thK else c.step
  let gap := c.pos % 8 < k
  let s := { s with now := max s.now c.nextAt }.modCore core (fun r => { r with pos := c.pos + 1, nextAt := c.nextAt + (if gap then 4 else 2), step := k })
  if gap then s.monEv (.thread (core * 64 + bits (c.rotEntry c.pos) 5 0)) 8 1 else s

/-- A slot issues at a position (05 R109, R110; 20 R487). -/
def issueAt (s : State) (core p k : Nat) (spare : Bool) : State :=
  let a := Agent.thread (core * 64 + k)
  let s := if spare then (s.modCore core (fun c => { c with lastServed := k })).monEv a 3 1 else s
  turn ((s.modCore core (fun c => { c with slotIssue := tset c.slotIssue k p })).monEv a 1 1) a

/-- ROTATION_POSITION (05 R110): at most one slot issues. -/
def doRotation (s0 : State) (core : Nat) : State :=
  let s := if (s0.core core).pos % 64 = 0 ∧ (s0.core core).commit.isSome = true then switchTable s0 core else s0
  let p := (s.core core).pos
  let t := nextPosition s core
  match selectSlot s core p with
  | some (k, spare) => issueAt t core p k spare
  | none => t

/-- ROTATION_POSITION (05 R110). -/
def execRotationPosition (s : State) : Outc :=
  match s.ev with
  | some (.rotationPosition core) => evDo (.rotationPosition core) (doRotation s core)
  | _ => .fault .noSuchUnit

/-! ### Wakes (05 R113, R114) -/

/-- Whether a register field names an entry that no longer waits (05 R120, 06 R164). -/
def entryReady (t : Thread) (k : Nat) : Bool := (t.ent k).st != .pending || (t.ent k).mark.isSome

/-- Whether the request that a thread waits for has been answered. -/
def answered (t : Thread) (id : Nat) : Bool :=
  match t.prog with
  | .asked k => k != id
  | .words _ (some k) => k != id
  | _ => true

/-- Whether a thread's ports have the words and the room that its instruction needs (11 R293). -/
def portMet (s : State) (a : Agent) (t : Thread) (n : Nat) (push : Bool) : Bool :=
  decide (n ≤ (inWords s a t).length) && (!push || hasRoom s a.num t)

/-- Whether a bank is free to a slot that waits for it (14 R356, R357). -/
def bankMet (s : State) (slot b : Nat) : Bool :=
  let l := s.lock (coreOf slot) b
  match l.holder with
  | some h => h == slot
  | none => !l.waiters.any (fun w => w.1 == slot)

/-- Whether the condition of a parked thread is met.  feRetry, qwait and rwait are ended by rows of their own, or once their
condition has held; msend, copyQueue and held are seen to by the wake itself. -/
def parkMet (s : State) (a : Agent) (t : Thread) (p : Park) : Bool :=
  let core := s.core a.core
  match p with
  | .reg k => entryReady t k
  | .counters l sc c n => t.cnt.l ≤ l && t.cnt.s ≤ sc && t.cnt.c ≤ c && t.cnt.t ≤ n
  | .counterFull w => (match w with | 0 => t.cnt.l | 1 => t.cnt.s | 2 => t.cnt.c | _ => t.cnt.t) < 63
  | .journal => (freeJournal s a.core).isSome
  | .page die e => e ≥ 256 || !waitsOn s die e a.num
  | .dropped die n => (s.die die).xlat.replays != n
  | .answer id => answered t id
  | .port n push => portMet s a t n push
  | .fence => (match t.prog with | .probes sc last _ bs => probesDone s a t sc last bs | _ => delivered s a t s.nextId)
  | .barrier addr gen => barrierOver s addr gen
  | .table => true
  | .tileQueue => queueRoom core false
  | .matQueue => queueRoom core true
  | .stream => !streaming s a.num t.tag
  | .bank b => bankMet s a.num b
  | .sequencer => !t.seqr.reissuing
  | .mrecv x => mrecvHas s a.num t x
  | .phase x => phaseOver s a.num t x
  | .qwait _ _ | .rwait _ _ _ => (match t.prog with | .met | .expired _ _ => true | _ => false)
  | .wfi => !t.traps.isEmpty
  | .drain quit => t.cnt.s == 0 && (!quit || (t.cnt.l == 0 && t.cnt.c == 0 && t.cnt.t == 0 && !hasJournal s a.num t.tag))
  | .sweep => !sweeping s (s.partOf a.die) (s.ownerOf a.core)
  | .recall unit => !(migFrames s).contains unit
  | .frame f => (match (tget (s.die a.die).frames f {}).saved with | some u => !frameBusy u | none => true)
  | .flag src => (match a with | .sextant d n => tget (s.sxThread d n).flags src false | .thread _ => true)
  | .msend _ | .copyQueue | .held | .feRetry _ => false

/-- The parked senders that a die's message store could take in now. -/
def sendersAt (s : State) (home : Nat) : List (Nat × Thread) :=
  s.threads.filter (fun p => match p.2.park with
    | some (.msend x) => msgHome s p.1 p.2 == home && msendOpen s p.1 p.2 x
    | _ => false)

/-- The wake of a thread parked at an admission unit that has room (17 R422, class 6): the owners of the threads w and of the
reissues that wait there take a round (17 R424), the winner's first thread wakes, or its reissue is let in, and the others'
lose it. -/
def wakeByRound (s : State) (slot die unit : Nat) (w : List (Nat × Thread)) : State :=
  let own := fun (p : Nat × Thread) => s.ownerOf (coreOf p.1)
  let present := (w.map own ++ presentAt s (6, die, unit)).eraseDups
  if present.length < 2 then s.wake (.thread slot)
  else
    let (win, s) := s.round die 6 unit present
    let s := present.foldl (fun s o => match w.find? (fun p => own p == o) with
      | some (k, u) =>
        if o = win then s.wake (.thread k)
        else (s.modSlot k (fun h => { h with prog := .retried (match u.prog with | .retried n => n + 1 | _ => 1) })).monEv (.thread k) 10 1
      | none => roundOf (6, die, unit) win s o) s
    if (tfind s.threads slot).any (fun h => h.park.isSome) then again s (.parkWake slot) else s

/-- A sender parked at a store that may take it in (15 R384). -/
def wakeSender (s : State) (slot : Nat) (t : Thread) (x : BitVec 64) : State :=
  if !msendOpen s slot t x then again s (.parkWake slot)
  else wakeByRound s slot (msgHome s slot t) 264 (sendersAt s (msgHome s slot t))

/-- The threads of a cluster that wait for its copy queues (11 R279). -/
def copiersAt (s : State) (cluster : Nat) : List (Nat × Thread) :=
  s.threads.filter (fun p => clusterOf (coreOf p.1) == cluster && p.2.park == some .copyQueue)

/-- A thread parked at the copy queues of its cluster, once one has room (11 R279). -/
def wakeCopier (s : State) (slot : Nat) : State :=
  let c := clusterOf (coreOf slot)
  if (freeEngine (s.cluster c)).isNone then again s (.parkWake slot)
  else wakeByRound s slot (dieOf (coreOf slot)) (c % 200) (copiersAt s c)

/-- A thread whose held operations wait for room: they enter while there is some (10 R249). -/
def wakeHeld (s : State) (slot : Nat) (t : Thread) : State :=
  if s.parkedByReset (coreOf slot) then s else
  let s := reissueHeld s slot t.held.length
  match tfind s.threads slot with
  | some u => if u.held.isEmpty then s.wake (.thread slot) else again s (.parkWake slot)
  | none => s

/-- Cycles parked on fence echoes are counted at the wake (20 R487). -/
def countFence (s : State) (a : Agent) (t : Thread) : State :=
  match t.park, t.prog with
  | some .fence, .probes _ _ since _ => s.monEv a 9 (s.now - since)
  | _, _ => s

/-- PARK_WAKE: a thread whose condition is met, or that has a trap to take, becomes eligible (05 R114; 06 R153; 14 R345). -/
def doParkWake (s : State) (n : Nat) : State :=
  let a := agentOf n
  match s.getTh a with
  | none => s
  | some t =>
    match t.park with
    | none => s
    | some p =>
      if p = .wfi ∧ parkMet s a t p = true then (s.modTh a (fun t => { t with prog := .roused })).wake a
      else if (nextTrap t).isSome || parkMet s a t p then (countFence s a t).wake a
      else match p with
      | .msend x => wakeSender s n t x
      | .copyQueue => wakeCopier s n
      | .held => wakeHeld s n t
      | _ => again s (.parkWake n)

/-- PARK_WAKE (05 R114). -/
def execParkWake (s : State) : Outc :=
  match s.ev with
  | some (.parkWake n) => evDo (.parkWake n) (doParkWake s n)
  | _ => .fault .noSuchUnit

/-! ### Sextant cycles (19 R458) -/

/-- Whether a Sextant hardware thread is ready at a cycle: it runs, is not parked or stopped, and has not issued within 8
cycles. -/
def sxReady (x : SxThread) (now : Nat) : Bool :=
  x.running && x.th.park.isNone && !x.th.stopped && (match x.lastCycle with | some c => c + 8 ≤ now | none => true)

/-- SEXTANT_CYCLE: the ready threads take turns (19 R458). -/
def doSextantCycle (s0 : State) (die : Nat) : State :=
  let d := s0.die die
  let now := max s0.now d.sxAt
  let s := { s0 with now := now }.modDie die (fun d => { d with sxAt := now + 1 })
  match ((List.range' 1 48).map (fun i => (d.lastSx + i) % 48)).find? (fun t => sxReady (s.sxThread die t) now) with
  | none => s
  | some t => turn ((s.modDie die (fun d => { d with lastSx := t })).modSx die t (fun x => { x with lastCycle := some now })) (.sextant die t)

/-- SEXTANT_CYCLE (19 R458). -/
def execSextantCycle (s : State) : Outc :=
  match s.ev with
  | some (.sextantCycle die) => evDo (.sextantCycle die) (doSextantCycle s die)
  | _ => .fault .noSuchUnit

/-! ### What a step does (log 1; 03 R75) -/

/-- The next instruction of an agent, or the state after the trap of its fetch or decoding (03 R75). -/
def nextInstr (s : State) (a : Agent) : Except State Instr :=
  match s.getTh a with
  | none => .error s
  | some t =>
    match fetch s a t with
    | .trap c val info => .error (s.takeTrap a c false val info)
    | .word w =>
      match decodeWord w with
      | .error _ => .error (s.takeTrap a .illegal false (w.setWidth 64) 0)
      | .ok i => .ok i

/-- The core whose position comes next: the live core with the earliest one, the lowest number first; core 0 when no
core is live. -/
def nextCore (s : State) : Nat :=
  match s.threads.map (fun p => coreOf p.1) with
  | [] => 0
  | c :: r => r.foldl (fun m k => if (s.core k).nextAt < (s.core m).nextAt then k else m) c

/-- The next rotation event: a committed table takes effect at position 0 before the position runs (05 R107). -/
def nextRotation (s : State) : Event :=
  let c := nextCore s
  if (s.core c).commit.isSome ∧ (s.core c).pos % 64 = 0 then .rotationTableSwitch c else .rotationPosition c

/-- The dies whose Sextant runs a thread. -/
def sextantDies (s : State) : List Nat := (s.dies.filter (fun p => p.2.sx.any (fun x => x.2.running))).map Prod.fst

/-- Whether an event is one that the world outside the module, its sensors and links, the errors in its storage, or the
services of its firmware bring about (log 1). -/
def fromOutside : Event → Bool
  | .hostMemRequest .. | .hostCoherenceRequest .. | .registerWrite .. | .registerRead .. | .kick .. | .flr .. | .pcmdReset .. | .vfcfgWrite ..
  | .pdiesWrite .. | .dmonselWrite .. | .moduleReset | .dieBoot .. | .linkTraining .. | .fabricLinkLost ..
  | .hostLinkTraining .. | .flitReceive .. | .pause .. | .resume .. | .requestReplayTimeout .. | .replayAck .. | .scrubPass ..
  | .thermalStepRise .. | .thermalStepFall .. | .thermalTrip .. | .powerStepChange .. | .getCertificate .. | .challenge ..
  | .getMeasurements .. | .keyExchange .. | .raiseSecurityMinimum .. | .ownerTableWrite .. | .coreOwnerAssign ..
  | .exceedanceCounterClear .. | .sextantResetRequest .. | .schedulerRun .. => true
  | .loadRequest _ _ own => !own
  | _ => false

/-- The order in which an event must keep its turn: bank watch events and their records by slice (08 R216), host requests by
link (08 R205). -/
def fifoKey : Event → Option (Nat × Nat × Nat)
  | .bankWatchEvent die slice _ _ _ _ _ => some (0, die, slice)
  | .eventRecord die d _ _ _ => if bits d.toNat 63 56 = 2 then some (1, die, bits d.toNat 5 0) else none
  | .hostMemRequest p _ _ _ => some (2, p, 0)
  | _ => none

/-- The place of the event that runs where the one at a place is drawn: the first of its order. -/
def firstOf (l : List Event) (k : Nat) : Nat :=
  match (l[k]?).bind fifoKey with
  | some q => l.findIdx (fun e => fifoKey e == some q)
  | none => k

/-- What happens next (log 1): a step that is due, a position, a Sextant cycle, or an input; and the steps then due. -/
def drawEvent (s : State) : Event × List Event :=
  let n := s.agenda.length
  let sx := sextantDies s
  let k := Config.pick s.tick % (n + sx.length + 2)
  match s.agenda[k]? with
  | some e => ((s.agenda[firstOf s.agenda k]?).getD e, s.agenda.eraseIdx (firstOf s.agenda k))
  | none =>
    match sx[k - n]? with
    | some d => (.sextantCycle d, s.agenda)
    | none =>
      if k = n + sx.length then (nextRotation s, s.agenda)
      else
        match Config.input s.tick with
        | some e =>
          if e.wf && fromOutside e then
            (let l := s.agenda ++ [e]
             ((l[firstOf l s.agenda.length]?).getD e, l.eraseIdx (firstOf l s.agenda.length)))
          else (nextRotation s, s.agenda)
        | none => (nextRotation s, s.agenda)

/-- The state with an instruction word placed where the next step fetches it: at local-store offset 0 of core
d0.c0.k0, below its execute boundary, with a thread in slot 0 that the next step issues (log 10). -/
def placeFetch (s : State) (nbits w : Nat) : State :=
  { s with mem := memWriteN s.mem (aLocal 0 0) (w % 2 ^ nbits) 4,
           cores := tset s.cores 0 { s.core 0 with exb := 1, codeLog := [] },
           threads := tset s.threads 0 { ((tfind s.threads 0).getD { pc := 0 }) with pc := 0 },
           poison := setDel s.poison (aLocal 0 0), eccBad := setDel s.eccBad (aLocal 0 0),
           selected := some (.thread 0) }

end Sys2Proof.Machine
end

