-- ==== Sys2Proof/Machine/Dispatch.lean ====
section
/-!
DEFINITION. Dispatch: one arm for each row of the opcode table.
-/
namespace Sys2Proof.Machine

/-- Run one instruction or event row. -/
def exec (i : Instr) (s : State) : Host.Outcome State Fault Refusal :=
  match i with
  | .lui d imm => Sys2Proof.Machine.execLui d imm s
  | .auipc d imm => Sys2Proof.Machine.execAuipc d imm s
  | .jal d imm => Sys2Proof.Machine.execJal d imm s
  | .jalr d rs imm => Sys2Proof.Machine.execJalr d rs imm s
  | .beq rs t imm => Sys2Proof.Machine.execBeq rs t imm s
  | .bne rs t imm => Sys2Proof.Machine.execBne rs t imm s
  | .blt rs t imm => Sys2Proof.Machine.execBlt rs t imm s
  | .bge rs t imm => Sys2Proof.Machine.execBge rs t imm s
  | .bltu rs t imm => Sys2Proof.Machine.execBltu rs t imm s
  | .bgeu rs t imm => Sys2Proof.Machine.execBgeu rs t imm s
  | .lb d rs imm => Sys2Proof.Machine.execLb d rs imm s
  | .lh d rs imm => Sys2Proof.Machine.execLh d rs imm s
  | .lw d rs imm => Sys2Proof.Machine.execLw d rs imm s
  | .ld d rs imm => Sys2Proof.Machine.execLd d rs imm s
  | .lbu d rs imm => Sys2Proof.Machine.execLbu d rs imm s
  | .lhu d rs imm => Sys2Proof.Machine.execLhu d rs imm s
  | .lwu d rs imm => Sys2Proof.Machine.execLwu d rs imm s
  | .sb t rs imm => Sys2Proof.Machine.execSb t rs imm s
  | .sh t rs imm => Sys2Proof.Machine.execSh t rs imm s
  | .sw t rs imm => Sys2Proof.Machine.execSw t rs imm s
  | .sd t rs imm => Sys2Proof.Machine.execSd t rs imm s
  | .addi d rs imm => Sys2Proof.Machine.execAddi d rs imm s
  | .slti d rs imm => Sys2Proof.Machine.execSlti d rs imm s
  | .sltiu d rs imm => Sys2Proof.Machine.execSltiu d rs imm s
  | .xori d rs imm => Sys2Proof.Machine.execXori d rs imm s
  | .ori d rs imm => Sys2Proof.Machine.execOri d rs imm s
  | .andi d rs imm => Sys2Proof.Machine.execAndi d rs imm s
  | .slli d rs sh => Sys2Proof.Machine.execSlli d rs sh s
  | .srli d rs sh => Sys2Proof.Machine.execSrli d rs sh s
  | .srai d rs sh => Sys2Proof.Machine.execSrai d rs sh s
  | .addiw d rs imm => Sys2Proof.Machine.execAddiw d rs imm s
  | .slliw d rs sh => Sys2Proof.Machine.execSlliw d rs sh s
  | .srliw d rs sh => Sys2Proof.Machine.execSrliw d rs sh s
  | .sraiw d rs sh => Sys2Proof.Machine.execSraiw d rs sh s
  | .add d rs t => Sys2Proof.Machine.execAdd d rs t s
  | .sub d rs t => Sys2Proof.Machine.execSub d rs t s
  | .sll d rs t => Sys2Proof.Machine.execSll d rs t s
  | .slt d rs t => Sys2Proof.Machine.execSlt d rs t s
  | .sltu d rs t => Sys2Proof.Machine.execSltu d rs t s
  | .xor d rs t => Sys2Proof.Machine.execXor d rs t s
  | .srl d rs t => Sys2Proof.Machine.execSrl d rs t s
  | .sra d rs t => Sys2Proof.Machine.execSra d rs t s
  | .or d rs t => Sys2Proof.Machine.execOr d rs t s
  | .and d rs t => Sys2Proof.Machine.execAnd d rs t s
  | .mul d rs t => Sys2Proof.Machine.execMul d rs t s
  | .mulh d rs t => Sys2Proof.Machine.execMulh d rs t s
  | .mulhsu d rs t => Sys2Proof.Machine.execMulhsu d rs t s
  | .mulhu d rs t => Sys2Proof.Machine.execMulhu d rs t s
  | .div d rs t => Sys2Proof.Machine.execDiv d rs t s
  | .divu d rs t => Sys2Proof.Machine.execDivu d rs t s
  | .rem d rs t => Sys2Proof.Machine.execRem d rs t s
  | .remu d rs t => Sys2Proof.Machine.execRemu d rs t s
  | .addw d rs t => Sys2Proof.Machine.execAddw d rs t s
  | .subw d rs t => Sys2Proof.Machine.execSubw d rs t s
  | .sllw d rs t => Sys2Proof.Machine.execSllw d rs t s
  | .srlw d rs t => Sys2Proof.Machine.execSrlw d rs t s
  | .sraw d rs t => Sys2Proof.Machine.execSraw d rs t s
  | .mulw d rs t => Sys2Proof.Machine.execMulw d rs t s
  | .divw d rs t => Sys2Proof.Machine.execDivw d rs t s
  | .divuw d rs t => Sys2Proof.Machine.execDivuw d rs t s
  | .remw d rs t => Sys2Proof.Machine.execRemw d rs t s
  | .remuw d rs t => Sys2Proof.Machine.execRemuw d rs t s
  | .fence fm pr sc => Sys2Proof.Machine.execFence fm pr sc s
  | .fenceI => Sys2Proof.Machine.execFenceI s
  | .ecall => Sys2Proof.Machine.execEcall s
  | .ebreak => Sys2Proof.Machine.execEbreak s
  | .csrrw d rs csr => Sys2Proof.Machine.execCsrrw d rs csr s
  | .csrrs d rs csr => Sys2Proof.Machine.execCsrrs d rs csr s
  | .csrrc d rs csr => Sys2Proof.Machine.execCsrrc d rs csr s
  | .csrrwi d csr uimm => Sys2Proof.Machine.execCsrrwi d csr uimm s
  | .csrrsi d csr uimm => Sys2Proof.Machine.execCsrrsi d csr uimm s
  | .csrrci d csr uimm => Sys2Proof.Machine.execCsrrci d csr uimm s
  | .lrW d rs aq rl => Sys2Proof.Machine.execLrW d rs aq rl s
  | .lrD d rs aq rl => Sys2Proof.Machine.execLrD d rs aq rl s
  | .scW d rs t aq rl => Sys2Proof.Machine.execScW d rs t aq rl s
  | .scD d rs t aq rl => Sys2Proof.Machine.execScD d rs t aq rl s
  | .amoswapW d rs t aq rl => Sys2Proof.Machine.execAmoswapW d rs t aq rl s
  | .amoswapD d rs t aq rl => Sys2Proof.Machine.execAmoswapD d rs t aq rl s
  | .amoaddW d rs t aq rl => Sys2Proof.Machine.execAmoaddW d rs t aq rl s
  | .amoaddD d rs t aq rl => Sys2Proof.Machine.execAmoaddD d rs t aq rl s
  | .amoxorW d rs t aq rl => Sys2Proof.Machine.execAmoxorW d rs t aq rl s
  | .amoxorD d rs t aq rl => Sys2Proof.Machine.execAmoxorD d rs t aq rl s
  | .amoandW d rs t aq rl => Sys2Proof.Machine.execAmoandW d rs t aq rl s
  | .amoandD d rs t aq rl => Sys2Proof.Machine.execAmoandD d rs t aq rl s
  | .amoorW d rs t aq rl => Sys2Proof.Machine.execAmoorW d rs t aq rl s
  | .amoorD d rs t aq rl => Sys2Proof.Machine.execAmoorD d rs t aq rl s
  | .amominW d rs t aq rl => Sys2Proof.Machine.execAmominW d rs t aq rl s
  | .amominD d rs t aq rl => Sys2Proof.Machine.execAmominD d rs t aq rl s
  | .amomaxW d rs t aq rl => Sys2Proof.Machine.execAmomaxW d rs t aq rl s
  | .amomaxD d rs t aq rl => Sys2Proof.Machine.execAmomaxD d rs t aq rl s
  | .amominuW d rs t aq rl => Sys2Proof.Machine.execAmominuW d rs t aq rl s
  | .amominuD d rs t aq rl => Sys2Proof.Machine.execAmominuD d rs t aq rl s
  | .amomaxuW d rs t aq rl => Sys2Proof.Machine.execAmomaxuW d rs t aq rl s
  | .amomaxuD d rs t aq rl => Sys2Proof.Machine.execAmomaxuD d rs t aq rl s
  | .amofaddS d a b aq rl => Sys2Proof.Machine.execAmofaddS d a b aq rl s
  | .tdef d a => Sys2Proof.Machine.execTdef d a s
  | .tshape d a b => Sys2Proof.Machine.execTshape d a b s
  | .tfill d a => Sys2Proof.Machine.execTfill d a s
  | .txget d a b => Sys2Proof.Machine.execTxget d a b s
  | .txset d a b => Sys2Proof.Machine.execTxset d a b s
  | .tadd d a b rm => Sys2Proof.Machine.execTadd d a b rm s
  | .tsub d a b rm => Sys2Proof.Machine.execTsub d a b rm s
  | .tmul d a b rm => Sys2Proof.Machine.execTmul d a b rm s
  | .tfma d a b rm => Sys2Proof.Machine.execTfma d a b rm s
  | .tmin d a b rm => Sys2Proof.Machine.execTmin d a b rm s
  | .tmax d a b rm => Sys2Proof.Machine.execTmax d a b rm s
  | .tdiv d a b rm => Sys2Proof.Machine.execTdiv d a b rm s
  | .tabs d a => Sys2Proof.Machine.execTabs d a s
  | .tneg d a => Sys2Proof.Machine.execTneg d a s
  | .tand d a b => Sys2Proof.Machine.execTand d a b s
  | .tor d a b => Sys2Proof.Machine.execTor d a b s
  | .txor d a b => Sys2Proof.Machine.execTxor d a b s
  | .tsel d a b => Sys2Proof.Machine.execTsel d a b s
  | .tcmp d a b cond => Sys2Proof.Machine.execTcmp d a b cond s
  | .texp d a rm => Sys2Proof.Machine.execTexp d a rm s
  | .texp2 d a rm => Sys2Proof.Machine.execTexp2 d a rm s
  | .tlog d a rm => Sys2Proof.Machine.execTlog d a rm s
  | .tlog2 d a rm => Sys2Proof.Machine.execTlog2 d a rm s
  | .tsqrt d a rm => Sys2Proof.Machine.execTsqrt d a rm s
  | .trsqrt d a rm => Sys2Proof.Machine.execTrsqrt d a rm s
  | .trcp d a rm => Sys2Proof.Machine.execTrcp d a rm s
  | .tsin d a rm => Sys2Proof.Machine.execTsin d a rm s
  | .tcos d a rm => Sys2Proof.Machine.execTcos d a rm s
  | .ttanh d a rm => Sys2Proof.Machine.execTtanh d a rm s
  | .tcvt d a rm => Sys2Proof.Machine.execTcvt d a rm s
  | .tcvtSr d g a => Sys2Proof.Machine.execTcvtSr d g a s
  | .tqnt d a ns => Sys2Proof.Machine.execTqnt d a ns s
  | .tsum d a axis => Sys2Proof.Machine.execTsum d a axis s
  | .trmax d a axis => Sys2Proof.Machine.execTrmax d a axis s
  | .targmax d a axis => Sys2Proof.Machine.execTargmax d a axis s
  | .tbcast d a axis => Sys2Proof.Machine.execTbcast d a axis s
  | .ttrans d a => Sys2Proof.Machine.execTtrans d a s
  | .tsparse d a => Sys2Proof.Machine.execTsparse d a s
  | .mma gA b a c gB sat z tb => Sys2Proof.Machine.execMma gA b a c gB sat z tb s
  | .mmas moff b a c gB sat z tb => Sys2Proof.Machine.execMmas moff b a c gB sat z tb s
  | .mmag b a c sat z tb => Sys2Proof.Machine.execMmag b a c sat z tb s
  | .mdld a b => Sys2Proof.Machine.execMdld a b s
  | .mdclr a => Sys2Proof.Machine.execMdclr a s
  | .mitw a b => Sys2Proof.Machine.execMitw a b s
  | .gset g a => Sys2Proof.Machine.execGset g a s
  | .gget g a => Sys2Proof.Machine.execGget g a s
  | .gseed g a => Sys2Proof.Machine.execGseed g a s
  | .gfill d g => Sys2Proof.Machine.execGfill d g s
  | .rpt a m n => Sys2Proof.Machine.execRpt a m n s
  | .ldAq scope d a off => Sys2Proof.Machine.execLdAq scope d a off s
  | .sdRl scope b a off => Sys2Proof.Machine.execSdRl scope b a off s
  | .ldfe d a off => Sys2Proof.Machine.execLdfe d a off s
  | .ldff d a off => Sys2Proof.Machine.execLdff d a off s
  | .stfe b a off => Sys2Proof.Machine.execStfe b a off s
  | .stff b a off => Sys2Proof.Machine.execStff b a off s
  | .fesetE a off => Sys2Proof.Machine.execFesetE a off s
  | .fesetF a off => Sys2Proof.Machine.execFesetF a off s
  | .cinv a off => Sys2Proof.Machine.execCinv a off s
  | .cflush a off => Sys2Proof.Machine.execCflush a off s
  | .pref a off => Sys2Proof.Machine.execPref a off s
  | .fenceS kind scope => Sys2Proof.Machine.execFenceS kind scope s
  | .bar a => Sys2Proof.Machine.execBar a s
  | .barinit a b scope => Sys2Proof.Machine.execBarinit a b scope s
  | .cpyLd d a b => Sys2Proof.Machine.execCpyLd d a b s
  | .cpyLdPx8 d a b => Sys2Proof.Machine.execCpyLdPx8 d a b s
  | .cpySt t a b => Sys2Proof.Machine.execCpySt t a b s
  | .cpyStPx8 t a b => Sys2Proof.Machine.execCpyStPx8 t a b s
  | .cpyTt d a b => Sys2Proof.Machine.execCpyTt d a b s
  | .czip d a => Sys2Proof.Machine.execCzip d a s
  | .cunzip d a => Sys2Proof.Machine.execCunzip d a s
  | .red t a b => Sys2Proof.Machine.execRed t a b s
  | .sbind a b => Sys2Proof.Machine.execSbind a b s
  | .cstat d a => Sys2Proof.Machine.execCstat d a s
  | .ccancel a => Sys2Proof.Machine.execCcancel a s
  | .gspawn d a => Sys2Proof.Machine.execGspawn d a s
  | .lnch d a => Sys2Proof.Machine.execLnch d a s
  | .cntnew d a => Sys2Proof.Machine.execCntnew d a s
  | .cntbind a b => Sys2Proof.Machine.execCntbind a b s
  | .cntdec a => Sys2Proof.Machine.execCntdec a s
  | .cntfree a => Sys2Proof.Machine.execCntfree a s
  | .msend a b => Sys2Proof.Machine.execMsend a b s
  | .mrecv d a => Sys2Proof.Machine.execMrecv d a s
  | .tnext d => Sys2Proof.Machine.execTnext d s
  | .phase a => Sys2Proof.Machine.execPhase a s
  | .waitc l rs c t => Sys2Proof.Machine.execWaitc l rs c t s
  | .qwait a imm => Sys2Proof.Machine.execQwait a imm s
  | .rwait a imm => Sys2Proof.Machine.execRwait a imm s
  | .quit => Sys2Proof.Machine.execQuit s
  | .ccnt n => Sys2Proof.Machine.execCcnt n s
  | .rel a => Sys2Proof.Machine.execRel a s
  | .spawn d a b => Sys2Proof.Machine.execSpawn d a b s
  | .tret => Sys2Proof.Machine.execTret s
  | .wfi => Sys2Proof.Machine.execWfi s
  | .exbset a => Sys2Proof.Machine.execExbset a s
  | .segset g a => Sys2Proof.Machine.execSegset g a s
  | .ctxout d a => Sys2Proof.Machine.execCtxout d a s
  | .ctxinRestore d a => Sys2Proof.Machine.execCtxinRestore d a s
  | .ctxinDiscard d a => Sys2Proof.Machine.execCtxinDiscard d a s
  | .watch a b => Sys2Proof.Machine.execWatch a b s
  | .lockb a => Sys2Proof.Machine.execLockb a s
  | .unlockb a => Sys2Proof.Machine.execUnlockb a s
  | .rotwWriteShadow a b => Sys2Proof.Machine.execRotwWriteShadow a b s
  | .rotwWriteAttributes a b => Sys2Proof.Machine.execRotwWriteAttributes a b s
  | .rotwCommit a b => Sys2Proof.Machine.execRotwCommit a b s
  | .rotwCopy a b => Sys2Proof.Machine.execRotwCopy a b s
  | .rinv d a b => Sys2Proof.Machine.execRinv d a b s
  | .rinvr d a b => Sys2Proof.Machine.execRinvr d a b s
  | .rreply a b => Sys2Proof.Machine.execRreply a b s
  | .impset a b => Sys2Proof.Machine.execImpset a b s
  | .expset a b => Sys2Proof.Machine.execExpset a b s
  | .htset a b => Sys2Proof.Machine.execHtset a b s
  | .oseed d => Sys2Proof.Machine.execOseed d s
  | .oreeseed d a => Sys2Proof.Machine.execOreeseed d a s
  | .odraw d a b => Sys2Proof.Machine.execOdraw d a b s
  | .oplace d a b => Sys2Proof.Machine.execOplace d a b s
  | .oxq d a b => Sys2Proof.Machine.execOxq d a b s
  | .oshare d a => Sys2Proof.Machine.execOshare d a s
  | .wpkQueue d a => Sys2Proof.Machine.execWpkQueue d a s
  | .wpkPending d a => Sys2Proof.Machine.execWpkPending d a s
  | .wpkEvent d a => Sys2Proof.Machine.execWpkEvent d a s
  | .qkick a => Sys2Proof.Machine.execQkick a s
  | .qstatReadPending d a => Sys2Proof.Machine.execQstatReadPending d a s
  | .qstatClearPending d a => Sys2Proof.Machine.execQstatClearPending d a s
  | .qstatBind d a => Sys2Proof.Machine.execQstatBind d a s
  | .qstatReadSlot d a => Sys2Proof.Machine.execQstatReadSlot d a s
  | .trap imm => Sys2Proof.Machine.execTrap imm s
  | .rotationPosition => Sys2Proof.Machine.execRotationPosition s
  | .parkWake => Sys2Proof.Machine.execParkWake s
  | .rotationTableSwitch => Sys2Proof.Machine.execRotationTableSwitch s
  | .registerValueArrival => Sys2Proof.Machine.execRegisterValueArrival s
  | .spawnArrival => Sys2Proof.Machine.execSpawnArrival s
  | .memoryAccessArrival => Sys2Proof.Machine.execMemoryAccessArrival s
  | .feAccessArrival => Sys2Proof.Machine.execFeAccessArrival s
  | .feListRetry => Sys2Proof.Machine.execFeListRetry s
  | .reservationExpiry => Sys2Proof.Machine.execReservationExpiry s
  | .mergeBufferExpiry => Sys2Proof.Machine.execMergeBufferExpiry s
  | .postedAnswerArrival => Sys2Proof.Machine.execPostedAnswerArrival s
  | .fenceEchoArrival => Sys2Proof.Machine.execFenceEchoArrival s
  | .barinitAtBank => Sys2Proof.Machine.execBarinitAtBank s
  | .barrierArrival => Sys2Proof.Machine.execBarrierArrival s
  | .barrierReleaseDelivery => Sys2Proof.Machine.execBarrierReleaseDelivery s
  | .sliceWrite => Sys2Proof.Machine.execSliceWrite s
  | .requestReplayTimeout => Sys2Proof.Machine.execRequestReplayTimeout s
  | .replayAck => Sys2Proof.Machine.execReplayAck s
  | .bankWatchEvent => Sys2Proof.Machine.execBankWatchEvent s
  | .copyUnitWrite => Sys2Proof.Machine.execCopyUnitWrite s
  | .copyCompletion => Sys2Proof.Machine.execCopyCompletion s
  | .redContributionArrival => Sys2Proof.Machine.execRedContributionArrival s
  | .reductionDelivery => Sys2Proof.Machine.execReductionDelivery s
  | .pageWalk => Sys2Proof.Machine.execPageWalk s
  | .pagerNotice => Sys2Proof.Machine.execPagerNotice s
  | .fbcmdMapped => Sys2Proof.Machine.execFbcmdMapped s
  | .fbcmdDeny => Sys2Proof.Machine.execFbcmdDeny s
  | .fbcmdReplayAll => Sys2Proof.Machine.execFbcmdReplayAll s
  | .fbcmdInval => Sys2Proof.Machine.execFbcmdInval s
  | .fbcmdMigrate => Sys2Proof.Machine.execFbcmdMigrate s
  | .invalComplete => Sys2Proof.Machine.execInvalComplete s
  | .migrationComplete => Sys2Proof.Machine.execMigrationComplete s
  | .tileStrip => Sys2Proof.Machine.execTileStrip s
  | .vernierEntry => Sys2Proof.Machine.execVernierEntry s
  | .vernierTableSwitch => Sys2Proof.Machine.execVernierTableSwitch s
  | .rptReissue => Sys2Proof.Machine.execRptReissue s
  | .portWordArrival => Sys2Proof.Machine.execPortWordArrival s
  | .sbindStreamPush => Sys2Proof.Machine.execSbindStreamPush s
  | .bankLockGrant => Sys2Proof.Machine.execBankLockGrant s
  | .lockTimeout => Sys2Proof.Machine.execLockTimeout s
  | .launchPlacement => Sys2Proof.Machine.execLaunchPlacement s
  | .launchAgeing => Sys2Proof.Machine.execLaunchAgeing s
  | .launchDone => Sys2Proof.Machine.execLaunchDone s
  | .counterDecrement => Sys2Proof.Machine.execCounterDecrement s
  | .counterBind => Sys2Proof.Machine.execCounterBind s
  | .counterFree => Sys2Proof.Machine.execCounterFree s
  | .messageStoreArrival => Sys2Proof.Machine.execMessageStoreArrival s
  | .phaseReportArrival => Sys2Proof.Machine.execPhaseReportArrival s
  | .qtimeout => Sys2Proof.Machine.execQtimeout s
  | .rwaitPoll => Sys2Proof.Machine.execRwaitPoll s
  | .rtimeout => Sys2Proof.Machine.execRtimeout s
  | .invoke => Sys2Proof.Machine.execInvoke s
  | .spillRingMove => Sys2Proof.Machine.execSpillRingMove s
  | .invocationPlacement => Sys2Proof.Machine.execInvocationPlacement s
  | .reply => Sys2Proof.Machine.execReply s
  | .answer => Sys2Proof.Machine.execAnswer s
  | .write => Sys2Proof.Machine.execWrite s
  | .read => Sys2Proof.Machine.execRead s
  | .atomic => Sys2Proof.Machine.execAtomic s
  | .counter => Sys2Proof.Machine.execCounter s
  | .pause => Sys2Proof.Machine.execPause s
  | .resume => Sys2Proof.Machine.execResume s
  | .pauseRepeat => Sys2Proof.Machine.execPauseRepeat s
  | .flitReceive => Sys2Proof.Machine.execFlitReceive s
  | .linkTraining => Sys2Proof.Machine.execLinkTraining s
  | .arbitrationRound => Sys2Proof.Machine.execArbitrationRound s
  | .dieCacheFill => Sys2Proof.Machine.execDieCacheFill s
  | .sweeperVisit => Sys2Proof.Machine.execSweeperVisit s
  | .pcmdReset => Sys2Proof.Machine.execPcmdReset s
  | .flr => Sys2Proof.Machine.execFlr s
  | .sextantResetRequest => Sys2Proof.Machine.execSextantResetRequest s
  | .partitionReset => Sys2Proof.Machine.execPartitionReset s
  | .zeroClear => Sys2Proof.Machine.execZeroClear s
  | .moduleReset => Sys2Proof.Machine.execModuleReset s
  | .dieBoot => Sys2Proof.Machine.execDieBoot s
  | .pdiesWrite => Sys2Proof.Machine.execPdiesWrite s
  | .vfcfgWrite => Sys2Proof.Machine.execVfcfgWrite s
  | .ownerTableWrite => Sys2Proof.Machine.execOwnerTableWrite s
  | .scrubPass => Sys2Proof.Machine.execScrubPass s
  | .thermalStepRise => Sys2Proof.Machine.execThermalStepRise s
  | .thermalStepFall => Sys2Proof.Machine.execThermalStepFall s
  | .powerStepChange => Sys2Proof.Machine.execPowerStepChange s
  | .throttleStepApply => Sys2Proof.Machine.execThrottleStepApply s
  | .thermalTrip => Sys2Proof.Machine.execThermalTrip s
  | .kick => Sys2Proof.Machine.execKick s
  | .kickDelivery => Sys2Proof.Machine.execKickDelivery s
  | .schedulerRun => Sys2Proof.Machine.execSchedulerRun s
  | .queuePacketStart => Sys2Proof.Machine.execQueuePacketStart s
  | .launch => Sys2Proof.Machine.execLaunch s
  | .copy => Sys2Proof.Machine.execCopy s
  | .wait => Sys2Proof.Machine.execWait s
  | .signal => Sys2Proof.Machine.execSignal s
  | .queueInvoke => Sys2Proof.Machine.execQueueInvoke s
  | .timestamp => Sys2Proof.Machine.execTimestamp s
  | .nop => Sys2Proof.Machine.execNop s
  | .resetQueue => Sys2Proof.Machine.execResetQueue s
  | .packetComplete => Sys2Proof.Machine.execPacketComplete s
  | .waitReread => Sys2Proof.Machine.execWaitReread s
  | .launchRetry => Sys2Proof.Machine.execLaunchRetry s
  | .invokeRetry => Sys2Proof.Machine.execInvokeRetry s
  | .eventRecord => Sys2Proof.Machine.execEventRecord s
  | .dbgRead => Sys2Proof.Machine.execDbgRead s
  | .dbgWrite => Sys2Proof.Machine.execDbgWrite s
  | .dbgRelease => Sys2Proof.Machine.execDbgRelease s
  | .dbgHold => Sys2Proof.Machine.execDbgHold s
  | .dbgUnhold => Sys2Proof.Machine.execDbgUnhold s
  | .loadRequest => Sys2Proof.Machine.execLoadRequest s
  | .hostMemRequest => Sys2Proof.Machine.execHostMemRequest s
  | .getCertificate => Sys2Proof.Machine.execGetCertificate s
  | .challenge => Sys2Proof.Machine.execChallenge s
  | .getMeasurements => Sys2Proof.Machine.execGetMeasurements s
  | .keyExchange => Sys2Proof.Machine.execKeyExchange s
  | .raiseSecurityMinimum => Sys2Proof.Machine.execRaiseSecurityMinimum s
  | .registerWrite => Sys2Proof.Machine.execRegisterWrite s
  | .coreOwnerAssign => Sys2Proof.Machine.execCoreOwnerAssign s
  | .portRoomReturn => Sys2Proof.Machine.execPortRoomReturn s
  | .ctxoutRequestArrival => Sys2Proof.Machine.execCtxoutRequestArrival s
  | .ctxinRequestArrival => Sys2Proof.Machine.execCtxinRequestArrival s
  | .hostLinkTraining => Sys2Proof.Machine.execHostLinkTraining s
  | .fabricLinkLost => Sys2Proof.Machine.execFabricLinkLost s
  | .sextantCycle => Sys2Proof.Machine.execSextantCycle s
  | .dmonselWrite => Sys2Proof.Machine.execDmonselWrite s
  | .exceedanceCounterClear => Sys2Proof.Machine.execExceedanceCounterClear s
  | .hostCoherenceRequest => Sys2Proof.Machine.execHostCoherenceRequest s

end Sys2Proof.Machine
end

