-- ==== Sys2Proof/Machine/Step.lean ====
section
/-!
DEFINITION. Step: one step of the module.  The step runs the instruction of the agent that a position has selected;
otherwise it draws what happens next: a step that is due, a rotation position, a Sextant cycle, or an input from
outside (log 1).
-/
namespace Sys2Proof.Machine

/-- Fetch, decode and run the next instruction of the selected agent (03 R75). -/
def stepIssue (s : State) (a : Agent) : Outc :=
  match nextInstr s a with
  | .error t => .next t
  | .ok i => exec i { s with cur := some a }

/-- Run an event's row. -/
def stepEvent (s : State) (e : Event) (rest : List Event) : Outc := exec e.row { s with agenda := rest, ev := some e }

/-- One step of the module. -/
def step (s : State) : Host.Outcome State Fault Refusal :=
  match s.selected with
  | some a => stepIssue { s with selected := none, tick := s.tick + 1 } a
  | none => stepEvent { s with tick := s.tick + 1 } (drawEvent s).1 (drawEvent s).2

/-- The state with an instruction word placed where the next step fetches it (log 10). -/
def State.withFetchWord (s : State) (nbits w : Nat) : State := placeFetch s nbits w

end Sys2Proof.Machine
end

