-- ==== Sys2Proof/Safety.lean ====
section
/-!
DEFINITION. Safety: the invariants of the model that a run keeps, and the terms in which its claims are stated.
-/
namespace Sys2Proof.Machine

/-- The byte memory is in its canonical form, so equal memories are equal data. -/
def State.MemOk (s : State) : Prop := memWf s.mem = true

end Sys2Proof.Machine

namespace Sys2Proof.Claims
open Sys2Proof.Machine

/-! ### When an encoded instruction issues (03 R75 steps 1 to 7) -/

/-- Agent a, whose record is t, is about to run i with the fields f, and nothing keeps the word from its own checks: the
unit runs it, the mode may, its names are inside the window and the limit, its sources are PRESENT and sound, none of its
entries is PENDING, the ports it uses have words and room, and the sequencer does not hold it back. -/
structure Ready (s : State) (a : Agent) (t : Thread) (i : Instr) (f : Fields) : Prop where
  cur : s.cur = some a
  th : s.getTh a = some t
  unit : unitRuns a i.word = true
  block : t.seqr.takes t.pc = true → capturable i.word = true
  csr : csrUnknown a f = false
  mode : needsK f = true → t.mode = .k
  window : ∀ p ∈ f.all, p.2 < t.win
  tiles : ∀ p ∈ f.tiles, p.2.toNat < t.tlim
  live : ∀ p ∈ entrySrcs t f, (t.ent p.2).st = .present ∧ (t.ent p.2).ecc = false
  items : ∀ n ∈ itemsRead t f, t.ecc.contains n = false
  settled : ∀ p ∈ entryNames t f, (t.ent p.2).st ≠ .pending
  words : (popFields t f).length ≤ (inWords s a t).length
  clean : ∀ w ∈ (inWords s a t).take (popFields t f).length, w.mark = none
  room : pushes t f = true → hasRoom s a.num t = true
  seq : t.seqr.reissuing = true → seqWaits i.word = false

/-- The value of a source field: x0 reads 0, the in-port gives its words in the order a, b, any other register its
entry (05 R115, R120; 11 R293). -/
abbrev operand (s : State) (a : Agent) (t : Thread) (f : Fields) (code : Nat) : Word := fieldVal t f (inWords s a t) code

/-! ### What the completion of an instruction leaves (05 R120, R129, R130; 11 R293) -/

/-- How many fields read an entry. -/
def readsOf (t : Thread) (f : Fields) (r : Nat) : Nat := ((entrySrcs t f).filter (fun p => p.2 == r)).length

/-- An entry after n reads: a count of 0 is persistent, and the read that takes the count to 0 releases the entry. -/
def afterReads (e : RegEnt) (n : Nat) : RegEnt :=
  if e.cnt = 0 ∨ n = 0 then e
  else if n < e.cnt.toNat then { e with cnt := e.cnt - BitVec.ofNat 4 n }
  else { e with cnt := 0, st := .released, val := 0 }

/-- What a result makes of the destination's entry, with the count of the prefix; none where there is no result. -/
def destEnt (t : Thread) : DstW → Option RegEnt
  | .none => none
  | .val v => some { val := v, st := .present, cnt := t.pre.getD 0 }
  | .pend q => some { val := 0, st := .pending, cnt := t.pre.getD 0, req := q }
  | .marked m => some { val := 0, st := .pending, cnt := t.pre.getD 0, mark := some m }

/-- Whether a result of the instruction goes to entry r: a named destination that is not x0 and not the out-port. -/
def writesEnt (t : Thread) (f : Fields) (r : Nat) : Bool :=
  match f.dst with
  | some d => r == d.toNat && r != 0 && !isOut t r
  | none => false

/-- The entry r after the instruction. -/
def entAfter (t tb : Thread) (f : Fields) (w : DstW) (r : Nat) : RegEnt :=
  match (if writesEnt t f r then destEnt t w else none) with
  | some e => e
  | none => afterReads (tb.ent r) (readsOf t f r)

/-- The record of the thread with the word kept where it is the next of an open rpt block (12 R321). -/
def captured (s : State) (a : Agent) (t : Thread) (i : Instr) (f : Fields) (tb : Thread) : Thread :=
  if t.seqr.takes t.pc then captureWord tb i t.pc (operand s a t f 1) (operand s a t f 2) else tb

/-- The thread record u after the instruction: over the record tb that its effect left, the registers, the prefix, the pc,
the count of instructions, the word kept by an open rpt block, and what only an unfinished instruction has. -/
def ThreadAfter (s : State) (a : Agent) (t : Thread) (i : Instr) (f : Fields) (tb : Thread) (w : DstW) (pc : Word)
    (pre : Option (BitVec 4)) (u : Thread) : Prop :=
  u = { captured s a t i f tb with
    regs := u.regs, pc := pc, pre := pre, prevPc := some (t.pc.setWidth 16), instret := tb.instret + 1, prog := .none, skip := t.skip && pre.isSome } ∧
  ∀ r, u.ent r = entAfter t tb f w r

/-- What the ports see: the words popped from the in-port's queue, and the word pushed to the out-port or the place kept
for it there (11 R293); a marked result for x0 raises its trap (08 R490). -/
def portMoves (s : State) (a : Agent) (t : Thread) (f : Fields) (w : DstW) (x : State) : State :=
  let y := popIn x a t (popFields t f).length
  match w with
  | .none => y
  | .val v => if pushes t f then pushOut y a.num t s.nextId (some { val := v, mark := none, slot := a.num }) else y
  | .pend _ => if pushes t f then pushOut y a.num t s.nextId none else y
  | .marked m =>
    if pushes t f then pushOut y a.num t s.nextId (some { val := 0, mark := some m, slot := a.num })
    else if f.dst = some 0 then y.raise a t.tag { mark := m, seq := 0, isLock := false, journal := none }
    else y

/-- What an instruction's own effect starts from: a push to the out-port takes the next number for its place. -/
def start (s : State) (t : Thread) (f : Fields) : State := if pushes t f then s.fresh else s

/-- The instruction has completed with the outcome o: its own effect made b of the machine and w of its result, and over b
nothing changes but its thread's record and the ports that it uses. -/
def Completes (s : State) (a : Agent) (t : Thread) (i : Instr) (f : Fields) (b : State) (w : DstW) (pc : Word)
    (pre : Option (BitVec 4)) (o : Outc) : Prop :=
  ∃ tb u, b.getTh a = some tb ∧ ThreadAfter s a t i f tb w pc pre u ∧
    o = .next { portMoves s a t f w (b.setTh a u) with cur := none }

/-- The instruction traps, over the machine x, with nothing else of it done (14 R343, R344). -/
def Traps (x : State) (a : Agent) (c : Cause) (val info : Word) (o : Outc) : Prop :=
  o = .next { x.takeTrap a c false val info with cur := none }

/-- The instruction parks, over the machine x, until p holds, and its reissue finds g (05 R113). -/
def Parks (x : State) (a : Agent) (p : Park) (g : Prog) (o : Outc) : Prop :=
  o = .next { x.parkOn a p g with cur := none }

end Sys2Proof.Claims
end

