-- ==== Sys2Proof/Certificates/Slice0/Obligations.lean ====
section
/-!
DEFINITION. Obligations: the statements for the provers, and the tables of the spec that they are stated over.
-/
namespace Sys2Proof.Claims
open Sys2Proof.Machine

/-! ### Integer instructions (05 R126) -/

/-- The fields of a form with one source. -/
def oneSrc (d x : BitVec 5) : Fields := { dst := some d, srcs := [(1, x)] }
/-- The fields of a form with two sources. -/
def twoSrc (d x y : BitVec 5) : Fields := { dst := some d, srcs := [(1, x), (2, y)] }

/-- A truth value as a register value. -/
def bit (p : Prop) [Decidable p] : Word := if p then 1 else 0
/-- A word form: 32 bits in, the result sign-extended. -/
def wide (x : BitVec 32) : Word := x.signExtend 64
/-- The low word. -/
def low (x : Word) : BitVec 32 := x.setWidth 32

/-- Quotient of signed numbers: all bits set for a zero divisor; the overflow gives the dividend. -/
def quotS {n : Nat} (x y : BitVec n) : BitVec n :=
  if y = 0 then BitVec.allOnes n else if x = BitVec.intMin n ∧ y = BitVec.allOnes n then x else BitVec.ofInt n (x.toInt.tdiv y.toInt)
/-- Remainder of signed numbers: the dividend for a zero divisor; the overflow gives 0. -/
def restS {n : Nat} (x y : BitVec n) : BitVec n :=
  if y = 0 then x else if x = BitVec.intMin n ∧ y = BitVec.allOnes n then 0 else BitVec.ofInt n (x.toInt.tmod y.toInt)
/-- Quotient of unsigned numbers. -/
def quotU {n : Nat} (x y : BitVec n) : BitVec n := if y = 0 then BitVec.allOnes n else BitVec.ofNat n (x.toNat / y.toNat)
/-- Remainder of unsigned numbers. -/
def restU {n : Nat} (x y : BitVec n) : BitVec n := if y = 0 then x else BitVec.ofNat n (x.toNat % y.toNat)

/-- The integer instructions with a result: their fields, and the result from the pc and the values of a and b. -/
def intOp : Instr → Option (Fields × (Word → Word → Word → Word))
  | .lui d imm => some ({ dst := some d }, fun _ _ _ => wide (imm ++ (0 : BitVec 12)))
  | .auipc d imm => some ({ dst := some d }, fun pc _ _ => pc + wide (imm ++ (0 : BitVec 12)))
  | .addi d x imm => some (oneSrc d x, fun _ a _ => a + imm.signExtend 64)
  | .slti d x imm => some (oneSrc d x, fun _ a _ => bit (a.toInt < imm.toInt))
  | .sltiu d x imm => some (oneSrc d x, fun _ a _ => bit (a.toNat < (imm.signExtend 64).toNat))
  | .xori d x imm => some (oneSrc d x, fun _ a _ => a ^^^ imm.signExtend 64)
  | .ori d x imm => some (oneSrc d x, fun _ a _ => a ||| imm.signExtend 64)
  | .andi d x imm => some (oneSrc d x, fun _ a _ => a &&& imm.signExtend 64)
  | .slli d x k => some (oneSrc d x, fun _ a _ => a <<< k.toNat)
  | .srli d x k => some (oneSrc d x, fun _ a _ => a >>> k.toNat)
  | .srai d x k => some (oneSrc d x, fun _ a _ => a.sshiftRight k.toNat)
  | .addiw d x imm => some (oneSrc d x, fun _ a _ => wide (low a + imm.signExtend 32))
  | .slliw d x k => some (oneSrc d x, fun _ a _ => wide (low a <<< k.toNat))
  | .srliw d x k => some (oneSrc d x, fun _ a _ => wide (low a >>> k.toNat))
  | .sraiw d x k => some (oneSrc d x, fun _ a _ => wide ((low a).sshiftRight k.toNat))
  | .add d x y => some (twoSrc d x y, fun _ a b => a + b)
  | .sub d x y => some (twoSrc d x y, fun _ a b => a - b)
  | .sll d x y => some (twoSrc d x y, fun _ a b => a <<< (b.toNat % 64))
  | .slt d x y => some (twoSrc d x y, fun _ a b => bit (a.toInt < b.toInt))
  | .sltu d x y => some (twoSrc d x y, fun _ a b => bit (a.toNat < b.toNat))
  | .xor d x y => some (twoSrc d x y, fun _ a b => a ^^^ b)
  | .srl d x y => some (twoSrc d x y, fun _ a b => a >>> (b.toNat % 64))
  | .sra d x y => some (twoSrc d x y, fun _ a b => a.sshiftRight (b.toNat % 64))
  | .or d x y => some (twoSrc d x y, fun _ a b => a ||| b)
  | .and d x y => some (twoSrc d x y, fun _ a b => a &&& b)
  | .mul d x y => some (twoSrc d x y, fun _ a b => a * b)
  | .mulh d x y => some (twoSrc d x y, fun _ a b => BitVec.ofInt 64 (a.toInt * b.toInt / 2 ^ 64))
  | .mulhsu d x y => some (twoSrc d x y, fun _ a b => BitVec.ofInt 64 (a.toInt * b.toNat / 2 ^ 64))
  | .mulhu d x y => some (twoSrc d x y, fun _ a b => BitVec.ofNat 64 (a.toNat * b.toNat / 2 ^ 64))
  | .div d x y => some (twoSrc d x y, fun _ a b => quotS a b)
  | .divu d x y => some (twoSrc d x y, fun _ a b => quotU a b)
  | .rem d x y => some (twoSrc d x y, fun _ a b => restS a b)
  | .remu d x y => some (twoSrc d x y, fun _ a b => restU a b)
  | .addw d x y => some (twoSrc d x y, fun _ a b => wide (low a + low b))
  | .subw d x y => some (twoSrc d x y, fun _ a b => wide (low a - low b))
  | .sllw d x y => some (twoSrc d x y, fun _ a b => wide (low a <<< (b.toNat % 32)))
  | .srlw d x y => some (twoSrc d x y, fun _ a b => wide (low a >>> (b.toNat % 32)))
  | .sraw d x y => some (twoSrc d x y, fun _ a b => wide ((low a).sshiftRight (b.toNat % 32)))
  | .mulw d x y => some (twoSrc d x y, fun _ a b => wide (low a * low b))
  | .divw d x y => some (twoSrc d x y, fun _ a b => wide (quotS (low a) (low b)))
  | .divuw d x y => some (twoSrc d x y, fun _ a b => wide (quotU (low a) (low b)))
  | .remw d x y => some (twoSrc d x y, fun _ a b => wide (restS (low a) (low b)))
  | .remuw d x y => some (twoSrc d x y, fun _ a b => wide (restU (low a) (low b)))
  | _ => none

/-! ### Control transfers (05 R126, 03 R53) -/

/-- The branch and jump instructions: their fields, whether they are taken, the target, from the pc and the values of a
and b, and whether they write pc + 4. -/
def jumpOp : Instr → Option (Fields × (Word → Word → Bool) × (Word → Word → Word) × Bool)
  | .jal d imm => some ({ dst := some d }, fun _ _ => true, fun pc _ => pc + (imm ++ (0 : BitVec 1)).signExtend 64, true)
  | .jalr d x imm => some (oneSrc d x, fun _ _ => true, fun _ a => (a + imm.signExtend 64) &&& ~~~1, true)
  | .beq x y imm => some ({ srcs := [(1, x), (2, y)] }, fun a b => decide (a = b), fun pc _ => pc + (imm ++ (0 : BitVec 1)).signExtend 64, false)
  | .bne x y imm => some ({ srcs := [(1, x), (2, y)] }, fun a b => decide (a ≠ b), fun pc _ => pc + (imm ++ (0 : BitVec 1)).signExtend 64, false)
  | .blt x y imm => some ({ srcs := [(1, x), (2, y)] }, fun a b => decide (a.toInt < b.toInt), fun pc _ => pc + (imm ++ (0 : BitVec 1)).signExtend 64, false)
  | .bge x y imm => some ({ srcs := [(1, x), (2, y)] }, fun a b => decide (b.toInt ≤ a.toInt), fun pc _ => pc + (imm ++ (0 : BitVec 1)).signExtend 64, false)
  | .bltu x y imm => some ({ srcs := [(1, x), (2, y)] }, fun a b => decide (a.toNat < b.toNat), fun pc _ => pc + (imm ++ (0 : BitVec 1)).signExtend 64, false)
  | .bgeu x y imm => some ({ srcs := [(1, x), (2, y)] }, fun a b => decide (b.toNat ≤ a.toNat), fun pc _ => pc + (imm ++ (0 : BitVec 1)).signExtend 64, false)
  | _ => none

/-! ### CSR instructions (03 R76-R78, 05 R128, R129) -/

/-- The Zicsr instructions: their fields, whether they read and write, and the value written, from the old one and the
value of a (03 R77). -/
def csrOp : Instr → Option (Fields × BitVec 12 × Bool × Bool × (Word → Word → Word))
  | .csrrw d x n => some ({ oneSrc d x with csr := some n, items := if d = 0 then [] else [0x1000 + n.toNat] }, n, decide (d ≠ 0), true, fun _ a => a)
  | .csrrs d x n => some ({ oneSrc d x with csr := some n, items := [0x1000 + n.toNat] }, n, true, decide (x ≠ 0), fun o a => o ||| a)
  | .csrrc d x n => some ({ oneSrc d x with csr := some n, items := [0x1000 + n.toNat] }, n, true, decide (x ≠ 0), fun o a => o &&& ~~~a)
  | .csrrwi d n u => some ({ dst := some d, csr := some n, items := if d = 0 then [] else [0x1000 + n.toNat] }, n, decide (d ≠ 0), true, fun _ _ => u.setWidth 64)
  | .csrrsi d n u => some ({ dst := some d, csr := some n, items := [0x1000 + n.toNat] }, n, true, decide (u ≠ 0), fun o _ => o ||| u.setWidth 64)
  | .csrrci d n u => some ({ dst := some d, csr := some n, items := [0x1000 + n.toNat] }, n, true, decide (u ≠ 0), fun o _ => o &&& ~~~(u.setWidth 64))
  | _ => none

/-- What a CSR instruction makes of the machine: reading pmap clears FLUSHED, and the new value is written. -/
def csrAfter (x : State) (a : Agent) (t : Thread) (n : Nat) (reads writes : Bool) (v : Word) : State :=
  let u := if reads then csrReadEffect t n else t
  if writes then csrWrite (x.setTh a u) a u n v else x.setTh a u

/-- The trap CSRs and fstat, tprog and monsel: what a thread holds of them, and the bits that a write changes. -/
def csrHeld : List (Nat × (Thread → Word) × Word) :=
  [(0x001, fun t => t.fstat, 0x1F), (0x5C0, fun t => t.csr.tstatus, 0x1F), (0x5C1, fun t => t.csr.tvec, 0xFFFC),
   (0x5C2, fun t => t.csr.tepc, BitVec.allOnes 64), (0x5C3, fun t => t.csr.tcause, 0x80000000000000FF),
   (0x5C4, fun t => t.csr.tval, BitVec.allOnes 64), (0x5C5, fun t => t.csr.tinfo, BitVec.allOnes 64),
   (0x5C6, fun t => t.csr.tprog.setWidth 64, 0xFFFF), (0x5C7, fun t => t.csr.tscratch, BitVec.allOnes 64),
   (0x5CA, fun t => t.monsel, 0x01FF01FF01FF01FF)]

/-! ### Memory access (06) -/

/-- The loads: fields, bytes, sign, acquire with its scope, and the offset. -/
def loadOp : Instr → Option (Fields × Nat × Bool × Option Nat × Word)
  | .lb d x imm => some (oneSrc d x, 1, true, none, imm.signExtend 64)
  | .lh d x imm => some (oneSrc d x, 2, true, none, imm.signExtend 64)
  | .lw d x imm => some (oneSrc d x, 4, true, none, imm.signExtend 64)
  | .ld d x imm => some (oneSrc d x, 8, false, none, imm.signExtend 64)
  | .lbu d x imm => some (oneSrc d x, 1, false, none, imm.signExtend 64)
  | .lhu d x imm => some (oneSrc d x, 2, false, none, imm.signExtend 64)
  | .lwu d x imm => some (oneSrc d x, 4, false, none, imm.signExtend 64)
  | .ldAq sc d x off => some (oneSrc d x, 8, false, some sc.toNat, (off ++ (0 : BitVec 3)).signExtend 64)
  | _ => none

/-- The stores: fields, bytes, release with its scope, and the offset. -/
def storeOp : Instr → Option (Fields × Nat × Option Nat × Word)
  | .sb y x imm => some ({ srcs := [(1, x), (2, y)] }, 1, none, imm.signExtend 64)
  | .sh y x imm => some ({ srcs := [(1, x), (2, y)] }, 2, none, imm.signExtend 64)
  | .sw y x imm => some ({ srcs := [(1, x), (2, y)] }, 4, none, imm.signExtend 64)
  | .sd y x imm => some ({ srcs := [(1, x), (2, y)] }, 8, none, imm.signExtend 64)
  | .sdRl sc y x off => some ({ srcs := [(1, x), (2, y)] }, 8, some sc.toNat, (off ++ (0 : BitVec 3)).signExtend 64)
  | _ => none

/-- The LR, SC and AMO forms: fields, bytes, kind, needs, aq and rl. -/
def atomOp : Instr → Option (Fields × Nat × AKind × AccSpec × BitVec 1 × BitVec 1)
  | .lrW d x aq rl => some (oneSrc d x, 4, .lr, specLr 4, aq, rl)
  | .lrD d x aq rl => some (oneSrc d x, 8, .lr, specLr 8, aq, rl)
  | .scW d x y aq rl => some (twoSrc d x y, 4, .sc, specSc 4, aq, rl)
  | .scD d x y aq rl => some (twoSrc d x y, 8, .sc, specSc 8, aq, rl)
  | .amoswapW d x y aq rl => some (twoSrc d x y, 4, .amo 1, specAmo 4, aq, rl)
  | .amoswapD d x y aq rl => some (twoSrc d x y, 8, .amo 1, specAmo 8, aq, rl)
  | .amoaddW d x y aq rl => some (twoSrc d x y, 4, .amo 0, specAmo 4, aq, rl)
  | .amoaddD d x y aq rl => some (twoSrc d x y, 8, .amo 0, specAmo 8, aq, rl)
  | .amoxorW d x y aq rl => some (twoSrc d x y, 4, .amo 4, specAmo 4, aq, rl)
  | .amoxorD d x y aq rl => some (twoSrc d x y, 8, .amo 4, specAmo 8, aq, rl)
  | .amoandW d x y aq rl => some (twoSrc d x y, 4, .amo 12, specAmo 4, aq, rl)
  | .amoandD d x y aq rl => some (twoSrc d x y, 8, .amo 12, specAmo 8, aq, rl)
  | .amoorW d x y aq rl => some (twoSrc d x y, 4, .amo 8, specAmo 4, aq, rl)
  | .amoorD d x y aq rl => some (twoSrc d x y, 8, .amo 8, specAmo 8, aq, rl)
  | .amominW d x y aq rl => some (twoSrc d x y, 4, .amo 16, specAmo 4, aq, rl)
  | .amominD d x y aq rl => some (twoSrc d x y, 8, .amo 16, specAmo 8, aq, rl)
  | .amomaxW d x y aq rl => some (twoSrc d x y, 4, .amo 20, specAmo 4, aq, rl)
  | .amomaxD d x y aq rl => some (twoSrc d x y, 8, .amo 20, specAmo 8, aq, rl)
  | .amominuW d x y aq rl => some (twoSrc d x y, 4, .amo 24, specAmo 4, aq, rl)
  | .amominuD d x y aq rl => some (twoSrc d x y, 8, .amo 24, specAmo 8, aq, rl)
  | .amomaxuW d x y aq rl => some (twoSrc d x y, 4, .amo 28, specAmo 4, aq, rl)
  | .amomaxuD d x y aq rl => some (twoSrc d x y, 8, .amo 28, specAmo 8, aq, rl)
  | .amofaddS d x y aq rl => some (twoSrc d x y, 4, .fadd, specAmo 4, aq, rl)
  | _ => none

/-- The full/empty forms: fields, kind, needs, and the offset. -/
def feOp : Instr → Option (Fields × AKind × AccSpec × Word)
  | .ldfe d x off => some (oneSrc d x, .ldfe, specFeRead, (off ++ (0 : BitVec 3)).signExtend 64)
  | .ldff d x off => some (oneSrc d x, .ldff, specFeRead, (off ++ (0 : BitVec 3)).signExtend 64)
  | .stfe y x off => some ({ srcs := [(1, x), (2, y)] }, .stfe, specFeWrite, (off ++ (0 : BitVec 3)).signExtend 64)
  | .stff y x off => some ({ srcs := [(1, x), (2, y)] }, .stff, specFeWrite, (off ++ (0 : BitVec 3)).signExtend 64)
  | .fesetE x off => some ({ srcs := [(1, x)] }, .feset false, specFeset, off.signExtend 64)
  | .fesetF x off => some ({ srcs := [(1, x)] }, .feset true, specFeset, off.signExtend 64)
  | _ => none

/-- Whether a full/empty form has a result, and so counts on L. -/
def feReads : AKind → Bool
  | .ldfe => true
  | .ldff => true
  | _ => false

/-- The request of an agent to a target: who asks, for whom, where and how much. -/
def request (s : State) (a : Agent) (t : Thread) (x : Target) (k : AKind) (n data : Nat) : Access :=
  { agent := a, tag := t.tag, core := a.core, owner := s.agentOwner a, kind := k, ea := x.ea, seg := x.kind, addr := x.place,
    size := n, data := data, shared := x.shared, vpn := x.vpn }

/-- The machine with a request on its way: it has the next number, its arrival is due, the count of its kind (L or S) is up
by one and the bank it goes to is marked as touched. -/
def withRequest (b : State) (a : Agent) (x : Target) (onL : Bool) (q : Access) : State :=
  sendAccess (if onL then countL b a (touchBit a.die x.place) else countS b a (touchBit a.die x.place)) q

/-! ### Ordering and the trap and system class (07, 14) -/

/-- What a release at a scope waits for is done over the machine b: the probes that the thread sent have echoed, or it has
none to send; its earlier loads have delivered; and at .part and wider no refusal of it is undelivered (07 R171, R186, R189;
08 R201). -/
def ReleaseDone (b : State) (a : Agent) (t : Thread) : Option Nat → Prop
  | none => True
  | some sc =>
    (∃ k last at_, t.prog = .probes k last at_ [] ∧ delivered b a t last = true ∧ (3 ≤ k → refusalPending t = false)) ∨
    (t.prog = .none ∧ (sc = 0 ∨ maskBits t = []) ∧ delivered b a t b.nextId = true ∧ (3 ≤ sc → refusalPending t = false))

/-- What a release waits for is not done: probes are to be sent for the touched banks. -/
def ReleaseWaits (t : Thread) : Option Nat → Prop
  | none => False
  | some sc => t.prog = .none ∧ sc ≠ 0 ∧ maskBits t ≠ []

/-- The fences: kind (1 acquire, 2 release, 3 full) and scope; the standard fence is fence.s.full.sys (07 R189, R190). -/
def fenceOp : Instr → Option (Nat × Nat)
  | .fence _ _ _ => some (3, 5)
  | .fenceS k sc => some (k.toNat, sc.toNat)
  | _ => none

/-- The software traps: cause, TVAL and TINFO (14 R349, 03 R64). -/
def softOp : Instr → Option (Cause × Word × Word)
  | .trap imm => some (.soft, imm.setWidth 64, 1)
  | .ecall => some (.soft, 0, 0)
  | .ebreak => some (.brk, 0, 0)
  | _ => none

/-- The record of a thread that has taken a synchronous trap (14 R341-R343): TEPC is the instruction's address, or that of
the ccnt before it; TSTATUS gets INH, WSKIP for WATCH, PAEN from AEN, AEN 0 and PMODE; the mode is K and the pc the handler's
address; the reservation and the prefix are lost. -/
def trapped (t : Thread) (c : Cause) (val info : Word) : Thread :=
  { t with
    csr := { t.csr with
      tepc := if t.pre.isSome then t.pc - 4 else t.pc
      tcause := BitVec.ofNat 64 c.code
      tval := val
      tinfo := info
      tstatus := BitVec.ofNat 64 (16 + (if c = .watch then 8 else 0) + (if t.csr.tstatus.getLsbD 1 then 4 else 0) + (if t.mode = .k then 1 else 0)) }
    mode := .k
    pc := t.csr.tvec &&& 0xFFFC
    prevPc := some (t.pc.setWidth 16)
    pre := none
    resv := none
    lrPend := none
    prog := .none
    park := none }

/-- The record of a thread after tret (14 R350): pc and mode as saved, AEN and PAEN from PAEN, INH and WSKIP 0, and the
instruction at TEPC unwatched where WSKIP was set; the progress kept for that instruction is found again. -/
def returned (t : Thread) : Thread :=
  { t with
    mode := if t.csr.tstatus.getLsbD 0 then .k else .u
    pc := t.csr.tepc
    skip := t.csr.tstatus.getLsbD 3
    csr := { t.csr with tstatus := BitVec.ofNat 64 ((if t.csr.tstatus.getLsbD 2 then 6 else 0) + (if t.csr.tstatus.getLsbD 0 then 1 else 0)) }
    instret := t.instret + 1
    prevPc := some (t.pc.setWidth 16)
    pre := none
    prog := match t.late with | some (p, g) => if p = t.csr.tepc then g else .none | none => .none
    late := none }

/-- The fields of a K-mode form with one or two sources. -/
def kOne (x : BitVec 5) : Fields := { srcs := [(1, x)], kOnly := true }
/-- The fields of a K-mode form with two sources. -/
def kTwo (x y : BitVec 5) : Fields := { srcs := [(1, x), (2, y)], kOnly := true }

/-! ### Tile and matrix instructions (10, 12, 13) -/

/-- The strip-running words (10 R260-R276), and the words of the matrix queue but gfill (12 R302-R316): the fields of each. -/
def queueFields (i : Instr) : Option Fields :=
  match i with
  | .tfill d x => some { srcs := [(1, x)], tiles := [(0, d)], items := [0x100 + d.toNat] }
  | .mdld n x => some { srcs := [(2, x)], tiles := [(1, n)], items := [0x100 + n.toNat] }
  | .mdclr x => some { srcs := [(1, x)] }
  | .mma .. => some (matFields i)
  | .mmas .. => some (matFields i)
  | .mmag .. => some (matFields i)
  | .tcvtSr d g x => some { tiles := [(0, d), (1, x.setWidth 4)], items := [0x100 + d.toNat, 0x100 + (x.setWidth 4).toNat, 0x200 + g.toNat] }
  | _ => (tileWord i).map (fun _ => { tiles := wordTiles i, items := (wordTiles i).map (fun p => 0x100 + p.2.toNat) })

/-- The scalar that an operation takes with it: xs of tfill and mdclr, the offset of mdld. -/
def queueScalar (i : Instr) (x y : Word) : Word :=
  match i with
  | .tfill _ _ => x
  | .mdclr _ => x
  | .mdld _ _ => y
  | _ => 0

/-- The machine with an operation entered into its queue: T of its thread is up by one, the operation is the last of its
queue under the next number, and the queue's next step is due. -/
def withOp (s : State) (a : Agent) (op : TileOp) : State := enterQueue (countT s a) a.core op

/-- Room on T for an issue, and on C and T for the extra counts that come with the last word of an open rpt block (07 R192,
12 R322). -/
def RoomOnT (t : Thread) (i : Instr) : Prop := t.cnt.t + (seqExtra t i).1 < 63 ∧ t.cnt.c + (seqExtra t i).2 ≤ 63
/-- Room on C, likewise. -/
def RoomOnC (t : Thread) (i : Instr) : Prop := t.cnt.c + (seqExtra t i).2 < 63 ∧ t.cnt.t + (seqExtra t i).1 ≤ 63

/-! ### The conditions under which tile and matrix words issue (10 R251, R252, R261-R276; 12 R303, R317) -/

/-- A tile operand as a word names it: descriptor n of the thread, with the code of the bank that its BASE lies in (10 R244). -/
def tileOf (s : State) (core : Nat) (t : Thread) (n opnd : Nat) (view dest : Bool) : Opnd :=
  mkOpnd opnd (t.desc n) (bankCode (s.core core).bfmt (dBase (t.desc n))) view dest

/-- Checks 1 to 3 of R252 hold of an operand: the tile is not null, its footprint lies in the local store above the execute
boundary, and its code is not reserved and is that of every bank that it spans. -/
structure Stands (exb : Nat) (bfmt : Word) (o : Opnd) : Prop where
  named : dRows o.d ≠ 0
  place : ∀ p ∈ o.foot, exb * 256 ≤ p.1 ∧ p.1 + p.2 ≤ 65536
  code : fmtBits o.fmt ≠ 0
  banks : ∀ p ∈ o.dataRanges, ∀ b, p.1 ≤ b → b < p.1 + max 1 p.2 → bankCode bfmt b = o.fmt

/-- Check 4 of R252 holds of a destination: rows do not overlap one another, and the tile is not RDONLY. -/
def Writable (o : Opnd) : Prop := (1 < dRows o.d → o.rowBytes ≤ dPitch o.d) ∧ dRdonly o.d = false

/-- Two footprints share no byte. -/
def Apart (x y : Ranges) : Prop := ∀ p ∈ x, ∀ q ∈ y, p.1 + p.2 ≤ q.1 ∨ q.1 + q.2 ≤ p.1

/-- A source that is the destination itself, not transposed (10 R251). -/
def SameTile (d o : Opnd) : Prop :=
  o.view = false ∧ dBase d.d = dBase o.d ∧ dPitch d.d = dPitch o.d ∧ dRows d.d = dRows o.d ∧ dCols d.d = dCols o.d ∧ dScale d.d = dScale o.d

/-- Tiles of one shape (10 R261). -/
def OneShape (d o : Opnd) : Prop := d.rows = o.rows ∧ d.cols = o.cols

/-- The format that an operation takes of an operand o, with the destination d: FP codes are 0 to 3, INT32 is 9, UINT8 is 8
(10 R261-R276). -/
def TakesFmt (k : TileKind) (d o : Opnd) : Prop :=
  match k with
  | .arith op _ => o.opnd = 0 → op = 4 → o.fmt ≤ 3
  | .fn _ _ => o.opnd = 0 → o.fmt ≤ 3
  | .minmax _ => if o.opnd = 0 then fmtScaled o.fmt = false else o.fmt = d.fmt
  | .sign _ => o.opnd ≠ 0 → o.fmt = d.fmt
  | .sel => o.opnd ≠ 0 → o.fmt = d.fmt
  | .bitop _ => o.opnd ≠ 0 → o.w = d.w
  | .cmp _ => o.opnd = 0 → fmtScaled o.fmt = false
  | .quant _ => o.opnd = 0 → fmtScaled o.fmt = true
  | .red op _ =>
    if o.opnd = 0 then (if op = 2 then o.fmt = 9 else fmtScaled o.fmt = false) ∧ (op = 0 → fmtInt o.fmt = true → o.fmt = 9)
    else op = 0 → fmtInt d.fmt = true → fmtInt o.fmt = true
  | .sparse => o.opnd = 3 → o.fmt = 8
  | .fill => True
  | .cvt _ => True
  | .cvtSr => True
  | .bcast _ => True
  | .trans => True

/-- The shape that an operation takes of an operand o, with the destination d and the source a (10 R261-R276; that tand, tor and
txor take R261's shapes is the model's choice, log 114). -/
def TakesShape (k : TileKind) (d a o : Opnd) : Prop :=
  match k with
  | .fill => True
  | .red _ axis => o.opnd = 0 → (axis = 0 → d.rows = a.rows) ∧ (axis = 1 → d.cols = a.cols)
  | .bcast axis => o.opnd = 0 → if axis = 0 then d.cols = a.cols else d.rows = a.rows
  | .trans => o.opnd = 0 → d.rows = a.cols ∧ d.cols = a.rows
  | .sparse =>
    (o.opnd = 0 → d.rows = a.rows ∧ d.cols * 2 = a.cols) ∧ (o.opnd = 1 → a.cols % 8 = 0) ∧ (o.opnd = 3 → o.rows = a.rows ∧ o.cols * 8 = a.cols)
  | _ => o.opnd ≠ 0 → OneShape d o

/-- The operations that may write over a source of theirs (10 R251). -/
def MayOverwrite : TileKind → Prop
  | .red _ _ => False
  | .bcast _ => False
  | .trans => False
  | .sparse => False
  | _ => True

/-- REASON of an overlap that an operation refuses (10 R253). -/
def overlapReason : TileKind → Nat
  | .red _ _ => 2
  | .bcast _ => 2
  | .trans => 2
  | .sparse => 2
  | _ => 1

/-- A check of a word: the condition under which it fails, with the cause, REASON and OPND of the trap (10 R253). -/
abbrev Check := Prop × TileBad

/-- The first of the checks that fails gives the trap b. -/
def FirstFails (l : List Check) (b : TileBad) : Prop := ∃ x p y, l = x ++ (p, b) :: y ∧ p ∧ ∀ q ∈ x, ¬ q.1

/-- Some range ends past the local store. -/
def Past (l : Ranges) : Prop := ∃ p ∈ l, 65536 < p.1 + p.2
/-- Some range begins below the execute boundary. -/
def Below (exb : Nat) (l : Ranges) : Prop := ∃ p ∈ l, p.1 < exb * 256

/-- Check 1 of R252. -/
def nullChecks (o : Opnd) : List Check := [(dRows o.d = 0, .tileShape, 1, o.opnd)]
/-- Check 2 of R252, of a footprint's data and scales. -/
def placeChecks (exb opnd : Nat) (data scales : Ranges) : List Check :=
  [(Past data, .tileShape, 2, opnd), (Past scales, .tileShape, 2, 4), (Below exb data, .segRights, 2, opnd), (Below exb scales, .segRights, 2, 4)]
/-- Check 2 of R252, of a tile. -/
def tilePlace (exb : Nat) (o : Opnd) : List Check := placeChecks exb o.opnd o.dataRanges o.scaleRanges
/-- Check 3 of R252. -/
def codeChecks (bfmt : Word) (ok : Prop) (o : Opnd) : List Check :=
  [(fmtBits o.fmt = 0, .tileFormat, 1, o.opnd),
   (∃ p ∈ o.dataRanges, ∃ b, p.1 ≤ b ∧ b < p.1 + max 1 p.2 ∧ bankCode bfmt b ≠ o.fmt, .tileFormat, 2, o.opnd), (¬ ok, .tileFormat, 3, o.opnd)]
/-- Check 4 of R252. -/
def shapeChecks (ok : Prop) (o : Opnd) : List Check :=
  [(¬ ok, .tileShape, 3, o.opnd), (o.dest = true ∧ 1 < dRows o.d ∧ dPitch o.d < o.rowBytes, .tileShape, 4, o.opnd),
   (o.dest = true ∧ dRdonly o.d = true, .tileShape, 7, o.opnd)]
/-- Check 5 of R252, of a destination and another operand: OPND is 4 where the scales alone meet the destination. -/
def overlapChecks (reason : Nat) (may : Prop) (d o : Opnd) : List Check :=
  [(¬ may ∧ ¬ Apart d.foot o.dataRanges, .tileAlias, reason, o.opnd), (¬ may ∧ ¬ Apart d.foot o.foot, .tileAlias, reason, 4)]
/-- The overlap of a multiply word's or gfill's destination with a generator's ROPE table (12 R317, 13 R334). -/
def ropeOverlap (d : Opnd) (opnd : Nat) (g : Gen) : List Check := [(¬ Apart d.foot (ropeRange g), .tileAlias, 2, opnd)]

/-- What a strip-running word names beside its destination: a, b, and the second destination of tsparse. -/
def besides (s : State) (core : Nat) (t : Thread) (w : TileWord) : List Opnd :=
  let src := fun (n : Nat) (f : BitVec 5) => tileOf s core t (f.toNat % 16) n (bitAt f.toNat 4) false
  (w.a.map (src 1)).toList ++ (w.b.map (src 2)).toList ++ (if w.k = .sparse then [tileOf s core t (w.d.toNat + 1) 3 false true] else [])

/-- The checks of a strip-running word in their order: its second destination's name (03 R75), then those of R252. -/
def stripChecks (s : State) (core : Nat) (t : Thread) (w : TileWord) : List Check :=
  let c := s.core core
  let d := tileOf s core t w.d.toNat 0 false true
  let l := besides s core t w
  let a := l.headD d
  [(w.k = .sparse ∧ t.tlim ≤ w.d.toNat + 1, .tileName, 0, 3)] ++ (d :: l).flatMap nullChecks ++ (d :: l).flatMap (tilePlace c.exb) ++
    (d :: l).flatMap (fun o => codeChecks c.bfmt (TakesFmt w.k d o) o) ++ (d :: l).flatMap (fun o => shapeChecks (TakesShape w.k d a o) o) ++
    l.flatMap (fun o => overlapChecks (overlapReason w.k) (MayOverwrite w.k ∧ SameTile d o) d o) ++
    (l.drop 1).flatMap (fun o => if o.dest then overlapChecks 2 False o a else [])

/-- The operands of a multiply word: C, A or the index, B, the table; a generator stands for A or B where the word says so. -/
def mulC (s : State) (core : Nat) (t : Thread) (w : MatWord) : Opnd := tileOf s core t w.c.toNat 0 false true
/-- A, or the index of mmag; the scales of a compressed A run along its logical columns (12 R315). -/
def mulA (s : State) (core : Nat) (t : Thread) (w : MatWord) : Option Opnd :=
  if w.genA then none else some (sparseA w (tileOf s core t w.a.toNat 1 false false))
/-- B. -/
def mulB (s : State) (core : Nat) (t : Thread) (w : MatWord) : Option Opnd := if w.genB then none else some (tileOf s core t w.b.toNat 2 false false)
/-- The table of mmag. -/
def mulT (s : State) (core : Nat) (t : Thread) (w : MatWord) : Option Opnd :=
  if w.gather then some (tileOf s core t (w.a.toNat + 1) 3 false false) else none
/-- The format of A: its generator's, the table's, or its tile's. -/
def mulFmtA (s : State) (core : Nat) (t : Thread) (w : MatWord) : Nat :=
  if w.genA then gFmt (t.gen (w.a.toNat % 8)) else if w.gather then (tileOf s core t (w.a.toNat + 1) 3 false false).fmt else (tileOf s core t w.a.toNat 1 false false).fmt
/-- The format of B. -/
def mulFmtB (s : State) (core : Nat) (t : Thread) (w : MatWord) : Nat :=
  if w.genB then gFmt (t.gen (w.b.toNat % 8)) else (tileOf s core t w.b.toNat 2 false false).fmt

/-- The checks of a multiply word in their order: the table's name (03 R75), checks 1 to 4 of R252 on the tiles and the ROPE
tables, then formats, shapes, metadata and overlaps (12 R303, R317). -/
def mulChecks (s : State) (core : Nat) (t : Thread) (w : MatWord) : List Check :=
  let c := s.core core
  let d := mulC s core t w
  let a := mulA s core t w
  let b := mulB s core t w
  let x := mulT s core t w
  let ops := d :: (a.toList ++ b.toList ++ x.toList)
  let gA := t.gen (w.a.toNat % 8)
  let gB := t.gen (w.b.toNat % 8)
  let fa := mulFmtA s core t w
  let fb := mulFmtB s core t w
  let place := fun (o : Option Opnd) (opnd : Nat) (g : Gen) => match o with | some y => tilePlace c.exb y | none => placeChecks c.exb opnd (ropeRange g) []
  let meets := fun (o : Option Opnd) (opnd : Nat) (g : Gen) => match o with | some y => overlapChecks 2 False d y | none => ropeOverlap d opnd g
  [(w.gather = true ∧ t.tlim ≤ w.a.toNat + 1, .tileName, 0, 3)] ++ ops.flatMap nullChecks ++ tilePlace c.exb d ++ place a 1 gA ++ place b 2 gB ++
    x.toList.flatMap (tilePlace c.exb) ++ ops.flatMap (codeChecks c.bfmt True) ++ ops.flatMap (shapeChecks True) ++
    [(w.gather = true ∧ (∃ o ∈ a, o.fmt ≠ 9), .tileFormat, 3, 1),
     (w.genA = true ∧ gKind gA = 0, .tileFormat, 4, 1),
     (fa ∉ [1, 2, 3, 4, 5, 6, 7] ∨ (w.sparse = true ∧ fa = 1), .tileFormat, 3, if w.gather then 3 else 1),
     (w.genB = true ∧ gKind gB = 0, .tileFormat, 4, 2),
     ((fb ≠ fa ∧ ¬ (fa ∈ [4, 5] ∧ fb ∈ [4, 5])) ∨ (w.tb = true ∧ ∃ o ∈ b, fmtScaled o.fmt = true), .tileFormat, 3, 2),
     (d.fmt ∉ (if fa = 7 then [9] else if fa = 1 then [1] else [1, 2, 3]), .tileFormat, 3, 0),
     (∃ o ∈ a, o.rows ≠ d.rows ∨ (w.gather = false ∧ chunkOf fa < o.cols), .tileShape, 3, 1),
     (∃ o ∈ b, if w.tb then o.cols ≠ d.cols ∨ w.k fa < o.rows else o.rows ≠ d.cols ∨ w.k fa < o.cols, .tileShape, 3, 2),
     (∃ o ∈ x, chunkOf fa < o.cols, .tileShape, 3, 3),
     (w.sparse = true ∧ 2048 < w.moff * 128 + d.rows * metaRow fa, .tileShape, 12, 1)] ++
    meets a 1 gA ++ meets b 2 gB ++ x.toList.flatMap (overlapChecks 2 False d)

/-- The checks of a word of a tile or matrix queue: the strip-running words, mma, mmas and mmag, mdld of a tile of code 8 into
the side store's 2,048 bytes, and mdclr of a range of it (10 R252; 12 R316, R317). -/
def queueChecks (s : State) (core : Nat) (t : Thread) (i : Instr) (x y : Word) : List Check :=
  match matWord i, i with
  | some w, _ => mulChecks s core t w
  | none, .mdld n _ =>
    let o := tileOf s core t n.toNat 1 false false
    nullChecks o ++ tilePlace (s.core core).exb o ++ codeChecks (s.core core).bfmt (o.fmt = 8) o ++
      [(2047 < y.toNat ∨ 2048 < y.toNat + o.rows * o.cols, .tileShape, 12, 1)]
  | none, .mdclr _ =>
    [(bits x.toNat 63 28 ≠ 0 ∨ bits x.toNat 15 11 ≠ 0 ∨ bits x.toNat 27 16 = 0 ∨ 2048 < bits x.toNat 10 0 + bits x.toNat 27 16, .tileShape, 12, 1)]
  | none, _ => match tileWord i with | some w => stripChecks s core t w | none => []

/-- The tiles whose descriptors and codes an operation takes with it, in their places: C, A, B and the table of a multiply word,
the destination, sources and second destination of a strip-running word, mdld's (10 R243, 12 R310). -/
def takenTiles (s : State) (core : Nat) (t : Thread) (i : Instr) : List (Option Opnd) :=
  match matWord i, i with
  | some w, _ => [some (mulC s core t w), mulA s core t w, mulB s core t w, mulT s core t w]
  | none, .mdld n _ => [some (tileOf s core t n.toNat 1 false false)]
  | none, _ => match tileWord i with | some w => (tileOf s core t w.d.toNat 0 false true :: besides s core t w).map some | none => []

/-- The generators that an operation takes with it, with their seeds (13 R326, R334; 10 R268). -/
def takenGens (t : Thread) (i : Instr) : Option GenCap × Option GenCap :=
  match matWord i, i with
  | some w, _ => (if w.genA then some (genCap t (w.a.toNat % 8)) else none, if w.genB then some (genCap t (w.b.toNat % 8)) else none)
  | none, .tcvtSr _ n _ => (some (genCap t n.toNat), none)
  | none, _ => (none, none)

/-- The fields of the selector of txget and txset: high and low bit (10 R259). -/
def selBits : List (Nat × Nat) := [(15, 0), (31, 16), (39, 32), (47, 40), (55, 48), (63, 56), (79, 64), (127, 96), (63, 0), (127, 64)]

/-! ### Copies and streams (11) -/

/-- The boundary that a thread's copies must keep: none in K mode (05 R124). -/
def copyExb (s : State) (core : Nat) (t : Thread) : Nat := if t.mode = .k then 0 else (s.core core).exb

/-- A memory copy passes its checks up to its pointer's, with the tile o and the stride word y: the tile, the word's reserved bits
and memory format, FP8E4 (4) for a PX8 tile, and rows that do not overlap in memory (11 R280, R283, R286). -/
structure CopyFits (s : State) (core : Nat) (t : Thread) (w : CopyWord) (o : Opnd) (y : Word) : Prop where
  named : w.tile.toNat < t.tlim
  tile : o = tileOf s core t w.tile.toNat 0 false w.load
  stands : Stands (copyExb s core t) (s.core core).bfmt o
  writable : w.load = true → Writable o
  px : w.px = true → o.fmt = 4 ∧ bitAt y.toNat 40 = false
  word : bits y.toNat 63 41 = 0 ∧ bits y.toNat 35 32 = 0 ∧ bits y.toNat 39 36 < 10
  pitch : (if w.px then 1 ≤ dVrows o.d else 1 < dVrows o.d) → rowNeed w o.d (swFmt y o.fmt) ≤ swPitch y ∨ (w.load = true ∧ w.px = false ∧ swPitch y = 0)

/-- The memory of a copy as its pointer's checks see it: its bytes, the alignment of its elements, and the right it needs
(11 R283, R286). -/
def copySpec (t : Thread) (w : CopyWord) (o : Opnd) (y : Word) : AccSpec :=
  let m := swFmt y o.fmt
  let align := if w.px || fmtScaled m then 1 else fmtBits m / 8
  { size := if w.px then dVrows o.d * swPitch y else (dVrows o.d - 1) * swPitch y + rowSize m (dCols o.d), align := align, r := w.load, w := !w.load,
    acc := if w.load then 10 else 11, noExb := t.mode == .k, skew := swPitch y % align != 0 }

/-- cpy.tt passes its checks, from the tile o of the issuer's core to the tile p of core c: both tiles, a core of the issuer's
cluster and owner that is not in reset, one shape, and no overlap on one core (11 R287). -/
structure MoveFits (s : State) (core c : Nat) (t : Thread) (d n : BitVec 4) (o p : Opnd) (y : Word) : Prop where
  named : d.toNat < t.tlim ∧ n.toNat < t.tlim
  tiles : o = tileOf s core t n.toNat 1 false false ∧ p = tileOf s c t d.toNat 0 false true
  stands : Stands (copyExb s core t) (s.core core).bfmt o ∧ Stands (copyExb s c t) (s.core c).bfmt p
  writable : Writable p
  far : bits y.toNat 63 29 = 0 ∧ coreOfCoord (bits y.toNat 28 0) = some c
  mine : clusterOf c = clusterOf core ∧ s.ownerOf c = s.ownerOf core ∧ s.resetting (s.partOf (dieOf c)) = false
  shape : dRows p.d = dRows o.d ∧ dCols p.d = dCols o.d
  apart : c = core → Apart p.foot o.foot

/-- The tile copies and their fields (11 R283, R286, R287). -/
def copyFields : Instr → Option Fields
  | .cpyLd d x y => some { srcs := [(1, x), (2, y)], tiles := [(0, d)], items := [0x100 + d.toNat] }
  | .cpyLdPx8 d x y => some { srcs := [(1, x), (2, y)], tiles := [(0, d)], items := [0x100 + d.toNat] }
  | .cpySt d x y => some { srcs := [(1, x), (2, y)], tiles := [(0, d)], items := [0x100 + d.toNat] }
  | .cpyStPx8 d x y => some { srcs := [(1, x), (2, y)], tiles := [(0, d)], items := [0x100 + d.toNat] }
  | .cpyTt d n y => some { srcs := [(2, y)], tiles := [(0, d), (1, n)], items := [0x100 + d.toNat, 0x100 + n.toNat] }
  | _ => none

/-- The codecs: their fields, and whether the form compresses (11 R296). -/
def codecOp : Instr → Option (Fields × Bool)
  | .czip d x => some (oneSrc d x, true)
  | .cunzip d x => some (oneSrc d x, false)
  | _ => none

/-- A transfer of the slot's thread has begun in b: C and XSEQ are up by one, the ring holds its status as running (CODE 0),
and the transfer itself stands under the next number with its sequence (11 R277, R278). -/
def Started (s : State) (slot : Nat) (t : Thread) (tr : Transfer) (b : State) : Prop :=
  ∃ u k, tfind b.threads slot = some u ∧ u.cnt.c = t.cnt.c + 1 ∧ u.xseq = t.xseq + 1 ∧
    u.ringEnt t.xseq.toNat = statusBits t.xseq.toNat 0 0 0 0 0 ∧
    tfind b.transfers s.nextId = some { tr with seq := t.xseq, engine := k } ∧ b.agenda = s.agenda ++ [tr.event s.nextId]

/-- The machine once a thread's transfer has passed the admission of its cluster, with the rounds that it lost there (11 R279;
17 R422, R428). -/
def admitted (s : State) (slot : Nat) (t : Thread) : State :=
  s.leavePoint (dieOf (coreOf slot)) (s.ownerOf (coreOf slot)) 6 (match t.prog with | .retried n => n | _ => 0)

/-! ### Threads and tasks (05 R125, R133; 15) -/

/-- The machine with a request of the next number whose row is due. -/
def asks (b : State) (q : Req) (e : Nat → Event) : State :=
  ({ b with reqs := tset b.reqs b.nextId q }.fresh).due (e b.nextId)

/-- The machine with a value on its way to a register under a number. -/
def answers (b : State) (id : Nat) (d : RegDst) (v : Word) : State :=
  { b with reqs := tset b.reqs id (.value d v none false none 0), agenda := b.agenda ++ [.registerValueArrival id] }

/-- The fields of a form that only has a result. -/
def onlyDst (d : BitVec 5) : Fields := { dst := some d }

/-- The fields of a form that only has a source. -/
def onlySrc (x : BitVec 5) : Fields := { srcs := [(1, x)] }

/-! ### Counters, invocations, contexts, owners, queues (15, 16, 14, 17, 19) -/

/-- A release, cntdec or cntfree, with what it asks its counter's table. -/
def counterOp (slot : Nat) (t : Thread) (h : Word) (die owner : Nat) : Instr → Option (BitVec 5 × (Option Nat → Req) × (Nat → Event))
  | .cntdec x => some (x, fun j => .cntDec (some (slot, t.tag)) h j die owner, .counterDecrement)
  | .cntfree x => some (x, fun j => .cntFree slot t.tag h j, .counterFree)
  | _ => none

/-- The handle of a counter (15 R380). -/
def handle (index die module gen : Nat) : Word := BitVec.ofNat 64 (index + die * 2 ^ 16 + module * 2 ^ 24 + gen * 2 ^ 40)

/-- The refusal or status of an instruction as a register value. -/
def status (n : Int) : Word := BitVec.ofInt 64 n

/-- impset, expset and htset: bytes of the image, which images are malformed, the image's owner, the entry's image as it
stands, and the partition with the entry written: 0 lists nothing (16 R403, R404, R406, R413). -/
def tableOp (s : State) (a : Agent) : Instr → Option (BitVec 5 × BitVec 5 × Nat × (Nat → Bool) × (Nat → Nat) × (Part → Nat → Nat) × (Part → Nat → Nat → Part))
  | .impset x y => some (x, y, 16, importBad s (s.partOf a.die) (s.modnum a.die), fun v => bits v 11 0, fun p k => (tget p.imports k 0).toNat,
      fun p k v => { p with imports := if v = 0 then terase p.imports k else tset p.imports k (BitVec.ofNat 128 v) })
  | .expset x y => some (x, y, 32, exportBad, fun v => bits v 63 52, fun p k => (tget p.exports k 0).toNat,
      fun p k v => { p with exports := if v = 0 then terase p.exports k else tset p.exports k (BitVec.ofNat 256 v) })
  | .htset x y => some (x, y, 16, handlerBad, fun v => bits v 43 32, fun p k => (tget p.handlers k 0).toNat,
      fun p k v => { p with handlers := if v = 0 then terase p.handlers k else tset p.handlers k (BitVec.ofNat 128 v) })
  | _ => none

/-- The machine with an owner instruction's answer on its way, counted on L (17 R432). -/
def ownerAnswers (b : State) (a : Agent) (d : RegDst) (v : Word) : State :=
  let c := (b.modTh a (fun u => { u with cnt := { u.cnt with l := u.cnt.l + 1 } })).fresh
  { c with reqs := tset c.reqs b.nextId (.value d v none true none 0), agenda := c.agenda ++ [.registerValueArrival b.nextId] }

/-- The owner instructions whose answer follows from the owner tables and the operands: the fields, and the refused operand
or the answer (17 R433, R435, R437, R438). -/
def ownerOp (s : State) (a : Agent) (x y : Nat) : Instr → Option (Fields × (Nat ⊕ Word))
  | .oseed d =>
    let o := s.ownerEnt a.die (s.agentOwner a)
    some ({ dst := some d }, .inr (BitVec.ofNat 64 (o.gen.toNat * 2 ^ 48 + o.sweep.toNat * 2 ^ 47 + (mix64 (o.seed ^^^ BitVec.ofNat 64 (0xFFFFFF * 2 ^ 40))).toNat % 2 ^ 47)))
  | .odraw d p q =>
    let o := s.ownerEnt a.die (s.agentOwner a)
    some (twoSrc d p q, if 2 ^ 20 ≤ x then .inl 1 else if 2 ^ 40 ≤ y then .inl 2 else
      .inr (mix64 (o.seed ^^^ BitVec.ofNat 64 (x * 2 ^ 40) ^^^ BitVec.ofNat 64 y)))
  | .oshare d p =>
    let o := s.ownerEnt a.die (s.agentOwner a)
    some (oneSrc d p, if 8 ≤ x then .inl 1 else
      .inr (BitVec.ofNat 64 (o.floor * 2 ^ 48 + s.startOf a.die x 4096 * 2 ^ 32 + s.startOf a.die x (s.agentOwner a) % 2 ^ 11 * 2 ^ 16 + tget o.shares x 0)))
  | .oxq d p q =>
    let o := s.ownerEnt a.die (s.agentOwner a)
    some (twoSrc d p q, if bitAt x 3 ∨ bits x 15 10 ≠ 0 ∨ 2 ^ 20 ≤ x ∨ bits x 2 0 = 7 ∨ bits x 9 8 = 3 then .inl 1
      else if bits x 9 8 = 0 then .inr (BitVec.ofNat 64 (boundWord (bits x 2 0) (tget o.shares (bits x 2 0) 0) (bits x 7 4 + 1) y))
      else if bits x 9 8 = 1 then .inr (BitVec.ofNat 64 (tget o.exE (bits x 19 16) 0))
      else .inr (BitVec.ofNat 64 o.exN))
  | _ => none

/-- The forms of wpk and of qstat, each by the operand that selects it (19 R468, R470). -/
def wpkForms (d x : BitVec 5) : List Instr := [.wpkQueue d x, .wpkPending d x, .wpkEvent d x]
/-- The forms of qstat. -/
def qstatForms (d x : BitVec 5) : List Instr := [.qstatReadPending d x, .qstatClearPending d x, .qstatBind d x, .qstatReadSlot d x]

/-! ### Event rows -/

/-- The row of the event e, which a step has drawn, makes b of the machine (log 1). -/
def Does (s : State) (e : Event) (b : State) : Prop := s.ev = some e → e.wf = true → exec e.row s = .next { b with ev := none }

/-- The n bytes from a read as those of v, low byte first, and every other byte as before (00 R2). -/
def Stored (m m' : List Host.Cell) (a v n : Nat) : Prop :=
  ∀ b, memRead m' b = if a ≤ b ∧ b < a + n then BitVec.ofNat 8 (v / 256 ^ (b - a)) else memRead m b

/-- A value of n bytes as a register gets it (06 R154, R158). -/
def widened (signed : Bool) (n v : Nat) : Word := if signed then (BitVec.ofNat (8 * n) v).signExtend 64 else BitVec.ofNat 64 v

/-- An access on its way that has reached its on-chip bank (spaces 1 to 3: local store, cluster memory, die scratchpad), past
its scopes and the contended points of its way, with nothing before it. -/
structure AtBank (s : State) (id : Nat) (x : Access) : Prop where
  net : tfind s.net id = some x
  space : spaceOf x.addr = 1 ∨ spaceOf x.addr = 2 ∨ spaceOf x.addr = 3
  open_ : x.done = false ∧ x.sent = false ∧ x.listed = false
  past : pointOf s x = none ∧ x.lead = none
  plain : x.isFe = false
  clear : blocked s id x = false
  first : x.isStore = true → storeBehind s id x = false ∧ ∀ l ∈ x.path, l ≤ x.lvl

/-- A write that has reached its die-cache slice, whose replay filter has not seen it and has room, and where no other
owner's write that waited for that room stands against it, nor an older store to its bytes (07 R168, 08 R214, 17 R424). -/
structure AtSlice (s : State) (id : Nat) (x : Access) : Prop where
  net : tfind s.net id = some x
  space : spaceOf x.addr = 0 ∨ spaceOf x.addr = 4
  open_ : x.done = false ∧ x.sent = false
  unseen : ∀ p ∈ filterOf s (homeDie x.addr) (homeSlice x.addr), p.1 ≠ x.ident id
  room : (filterOf s (homeDie x.addr) (homeSlice x.addr)).length < 64
  served : x.granted = true ∨ rivalAt s x.owner (filterPoint x.addr) = false
  first : x.isStore = true → storeBehind s id x = false

/-- Where the answer of an access goes. -/
def goesTo (x : Access) : RegDst := x.dst.getD { agent := x.agent, tag := x.tag, reg := 0 }

/-- An access has been answered: its value, or a mark, is on its way to its register, counted on L (06 R145, R164). -/
def Answered (b : State) (id : Nat) (x : Access) (v : Word) (m : Option Mark) : Prop :=
  (∃ f, tfind b.reqs id = some (.value (goesTo x) v m true none f)) ∧ Event.registerValueArrival id ∈ b.agenda

/-- A signed amount of a finite value over a power of two no larger than its own (04 R80). -/
def amount (neg : Bool) (m : Nat) (e e0 : Int) : Int := (if neg then -1 else 1) * (m : Int) * 2 ^ (e - e0).toNat

/-- The bytes of local store that a strip writes: the rows of its elements and its scale bytes (10 R247). -/
def stripBytes (core : Nat) (x : StripOut) (b : Nat) : Prop :=
  (∃ r ∈ x.rows, let a := aLocal core (dBase r.1.d + r.2.1 * dPitch r.1.d + r.2.2.1 * r.1.w / 8)
    a ≤ b ∧ b < a + (r.2.2.2.length * r.1.w + 7) / 8) ∨ ∃ p ∈ x.scales, b = aLocal core p.1


/-! ### Issue checks (03 R75) -/

/-- The fields of the instructions of the tables above: integer, control transfer, CSR, memory, tile, matrix and copy. -/
def issueFields (i : Instr) : Option Fields :=
  ((intOp i).map Prod.fst).or (((jumpOp i).map Prod.fst).or (((csrOp i).map Prod.fst).or (((loadOp i).map Prod.fst).or
    (((storeOp i).map Prod.fst).or (((atomOp i).map Prod.fst).or (((feOp i).map Prod.fst).or ((queueFields i).or
      ((copyFields i).or ((codecOp i).map Prod.fst)))))))))

/-! ### What strips and blocks write (10 R247, R260-R276; 12 R305) -/

/-- Rows lo to hi of an operand stand in a list of rows, each with n elements from column c: those of f. -/
def RowsAre (l : List (Opnd × Nat × Nat × List Nat)) (o : Opnd) (lo hi c n : Nat) (f : Nat → Nat → Nat) : Prop :=
  l.length = hi - lo ∧ ∀ k < hi - lo, ∃ codes, l[k]? = some (o, lo + k, c, codes) ∧ codes.length = n ∧ ∀ j < n, codes[j]? = some (f (lo + k) (c + j))

/-- A flag is set where the result of some element of those rows sets it (04 R93). -/
def FlagsAre (x : FlagSet) (lo hi c n : Nat) (f : Nat → Nat → FlagSet) : Prop :=
  ∀ k, x.getLsbD k = true ↔ ∃ i j, lo ≤ i ∧ i < hi ∧ c ≤ j ∧ j < c + n ∧ (f i j).getLsbD k = true

/-- The bytes of a row of elements, as address and length. -/
def rowSpan (core : Nat) (r : Opnd × Nat × Nat × List Nat) : Nat × Nat :=
  (aLocal core (dBase r.1.d + r.2.1 * dPitch r.1.d + r.2.2.1 * r.1.w / 8), (r.2.2.2.length * r.1.w + 7) / 8)

/-- No byte is written twice. -/
def Once (core : Nat) (x : StripOut) : Prop :=
  (x.rows.map (rowSpan core) ++ x.scales.map (fun (q : Nat × Nat) => (aLocal core q.1, 1))).Pairwise (fun (p q : Nat × Nat) => p.1 + p.2 ≤ q.1 ∨ q.1 + q.2 ≤ p.1)

/-- What a strip or block writes stands in the memory of b: every element at its place (04 R84), every scale byte at its own;
the other nibble of a byte that the last FP4 element of a row shares is as in s. -/
def Holds (s b : State) (core : Nat) (x : StripOut) : Prop :=
  (∀ r ∈ x.rows, (∀ k c, r.2.2.2[k]? = some c → r.1.codeAt b core r.2.1 (r.2.2.1 + k) = c % 2 ^ r.1.w) ∧
    (r.1.w = 4 → r.2.2.2.length % 2 = 1 → let a := (rowSpan core r).1 + r.2.2.2.length / 2
      (memRead b.mem a).toNat / 16 = (memRead s.mem a).toNat / 16)) ∧
  ∀ p ∈ x.scales, memRead b.mem (aLocal core p.1) = BitVec.ofNat 8 p.2

/-- WriteElem (10 R246) to element (r, c) of a destination: rounded once, under the element's block scale where there is
one, with the flags of forming the value. -/
def put (s : State) (core : Nat) (d : Opnd) (rm : Rm) (v : Val × FlagSet) (r c : Nat) : Nat × FlagSet :=
  let q := if fmtScaled d.fmt then roundScaled d.fmt rm v.1 (d.scaleAt s core r c) else roundTo d.fmt rm v.1
  (q.1, q.2 ||| v.2)

/-- CopyElem (10 R246) of element (i, j) of a source. -/
def copied (s : State) (core : Nat) (d a : Opnd) (i j r c : Nat) : Nat × FlagSet :=
  if a.fmt = d.fmt ∧ fmtScaled d.fmt = false then (a.enc s core 0 i j, 0) else put s core d .rne (a.val s core .zero i j, 0) r c

/-- An end of a format's range, the fill of tmin and tmax (10 R245). -/
def rangeEnd (f : Nat) (top : Bool) : Val :=
  match intRange f with
  | some (lo, hi) => Val.ofInt (if top then hi else lo)
  | none => .inf (!top)

/-- u is taken as less than v: −0 less than +0 (10 R262). -/
def lesser (u v : Val) : Bool := vLt u v || (vEq u v && u.neg && !v.neg)

/-- The element results of the instructions that act element by element, from the encodings and values of the sources at the
element's coordinates, with the fills of 10 R245 (10 R260-R268, R274, R275): the encoding and the flags. -/
def elementOf (op : TileOp) (s : State) (core : Nat) (d a b : Opnd) : Option (Nat → Nat → Nat × FlagSet) :=
  let one := Val.fin false 1 0
  let x := fun (fill : Val) (r c : Nat) => a.val s core fill r c
  let y := fun (fill : Val) (r c : Nat) => b.val s core fill r c
  let arith := fun (rm : BitVec 2) (f : Bool → Nat → Nat → Val × FlagSet) => some (fun (r c : Nat) => put s core d (rmOf rm) (f (rm == 2) r c) r c)
  let fn := fun (f : Fn) (rm : BitVec 2) => some (fun (r c : Nat) => transc f d.fmt (rmOf rm) (x .zero r c))
  let pick := fun (max : Bool) => some (fun (r c : Nat) =>
    let u := x (rangeEnd d.fmt (!max)) r c
    let v := y (rangeEnd d.fmt (!max)) r c
    ((roundTo d.fmt .rne (if u.isNan then v else if v.isNan then u else if lesser u v = max then v else u)).1, fIf (u.isSig || v.isSig) fNV))
  let bitop := fun (fill : Nat) (f : Nat → Nat → Nat) => some (fun (r c : Nat) => (f (a.enc s core fill r c) (b.enc s core fill r c), (0 : FlagSet)))
  let sign := fun (fp int : Nat → Nat) => if a.fmt = d.fmt then
    some (fun (r c : Nat) => (if d.fmt ≤ 6 then fp (a.enc s core 0 r c) else int (a.enc s core 0 r c), (0 : FlagSet))) else none
  match op.ins with
  | .tfill _ _ => some (fun _ _ => (op.xs.toNat % 2 ^ d.w, 0))
  | .tadd _ _ _ rm => arith rm (fun rdn r c => vAdd rdn (x .zero r c) (y .zero r c))
  | .tsub _ _ _ rm => arith rm (fun rdn r c => vAdd rdn (x .zero r c) (vNeg (y .zero r c)))
  | .tmul _ _ _ rm => arith rm (fun _ r c => vMul (x one r c) (y one r c))
  | .tfma _ _ _ rm => arith rm (fun rdn r c => vFma rdn (x .zero r c) (y .zero r c) (d.val s core .zero r c))
  | .tdiv _ _ _ rm => arith rm (fun _ r c => vDiv (x .zero r c) (y one r c))
  | .tmin _ _ _ _ => pick false
  | .tmax _ _ _ _ => pick true
  | .tabs _ _ => sign (fun e => e % 2 ^ (d.w - 1)) (fun e => if d.fmt = 8 ∨ e < 2 ^ (d.w - 1) then e else 2 ^ d.w - e)
  | .tneg _ _ => sign (fun e => e ^^^ 2 ^ (d.w - 1)) (fun e => (2 ^ d.w - e) % 2 ^ d.w)
  | .tand _ _ _ => bitop (2 ^ d.w - 1) (· &&& ·)
  | .tor _ _ _ => bitop 0 (· ||| ·)
  | .txor _ _ _ => bitop 0 (· ^^^ ·)
  | .tsel _ _ _ => some (fun r c => (if (d.val s core .zero r c).isZero then b.enc s core 0 r c else a.enc s core 0 r c, 0))
  | .tcmp _ _ _ k => some (fun r c =>
    let u := x .zero r c
    let v := y .zero r c
    let holds := if u.isNan || v.isNan then k == 1
      else match k.toNat with
        | 0 => vEq u v
        | 1 => !vEq u v
        | 2 => vLt u v
        | 3 => vLt u v || vEq u v
        | 4 => vLt v u
        | _ => vLt v u || vEq u v
    ((roundTo d.fmt .rne (Val.ofInt (if holds then 1 else 0))).1, fIf (u.isSig || v.isSig) fNV))
  | .texp _ _ rm => fn .exp rm
  | .texp2 _ _ rm => fn .exp2 rm
  | .tlog _ _ rm => fn .log rm
  | .tlog2 _ _ rm => fn .log2 rm
  | .tsqrt _ _ rm => fn .sqrt rm
  | .trsqrt _ _ rm => fn .rsqrt rm
  | .trcp _ _ rm => fn .rcp rm
  | .tsin _ _ rm => fn .sin rm
  | .tcos _ _ rm => fn .cos rm
  | .ttanh _ _ rm => fn .tanh rm
  | .tcvt _ _ rm => some (fun r c => put s core d (rmOf rm) (x .zero r c, 0) r c)
  | .tcvtSr _ _ _ => op.gA.map (fun g r c =>
    let p := genIJ g.img false r c
    put s core d (.sr ((genHash g p.1 p.2).toNat % 2 ^ 24)) (x .zero r c, 0) r c)
  | .tbcast _ _ axis => some (fun r c => if axis = 0 then copied s core d a 0 c r c else copied s core d a r 0 r c)
  | .ttrans _ _ => some (fun r c => copied s core d a c r r c)
  | _ => none

/-- The axis of a reduction: 0 row, 1 column, 2 all. -/
def axisOf : Instr → Option Nat
  | .tsum _ _ x => some x.toNat
  | .trmax _ _ x => some x.toNat
  | .targmax _ _ x => some x.toNat
  | _ => none

/-- The leaves of result (r, c) of a reduction, in order: the coordinates of the view, and the position that targmax gives
(10 R270, R273). -/
def leavesOf (axis : Nat) (a : Opnd) (r c : Nat) : List (Nat × Nat × Nat) :=
  match axis with
  | 0 => if r < a.vr then (List.range a.vc).map (fun j => (r, j, j)) else []
  | 1 => if c < a.vc then (List.range a.vr).map (fun i => (i, c, i)) else []
  | _ => (List.range a.vr).flatMap (fun i => (List.range a.vc).map (fun j => (i, j, i * a.cols + j)))

/-- Leaf k is the first of the largest values that are no NaN (10 R272, R273). -/
def FirstMax (l : List Val) (k : Nat) (v : Val) : Prop :=
  l[k]? = some v ∧ v.isNan = false ∧ ∀ j w, l[j]? = some w → w.isNan = false → vLt v w = false ∧ (j < k → vLt w v = true)

/-- Positions k0 < k1 of a group of four are those that tsparse keeps: no other ranks above one of them, and a tie goes to
the lower position (10 R276). -/
def Kept (v : Nat → Val) (k0 k1 : Nat) : Prop :=
  k0 < k1 ∧ k1 < 4 ∧ ∀ k < 4, k ≠ k0 → k ≠ k1 → ∀ x, x = k0 ∨ x = k1 → ranksAbove (v x) (v k) = true ∨ (ranksAbove (v k) (v x) = false ∧ x < k)

/-- A term of a chunk cut to a multiple of 2^q toward zero (04 R103), over 2^e0. -/
def cutTo (q e0 : Int) : Val → Int
  | .fin n m e => if q ≤ e then amount n m e e0 else amount n (m / 2 ^ (q - e).toNat) q e0
  | _ => 0

/-- Whether the cut loses a nonzero part of a term. -/
def cutLoses (q : Int) : Val → Bool
  | .fin _ m e => decide (e < q) && m % 2 ^ (q - e).toNat != 0
  | _ => false

/-- The place of the cut of a chunk of finite products (04 R103): at or below every term where the sum is exact, else 56
places below the largest term. -/
def CutAt (exact : Bool) (ps : List Val) (q : Int) : Prop :=
  if exact then ∀ n m e, Val.fin n m e ∈ ps → q ≤ e
  else (∀ n m e, Val.fin n m e ∈ ps → m ≠ 0 → e + m.log2 ≤ q + 56) ∧
    ((∃ n m e, Val.fin n m e ∈ ps ∧ m ≠ 0 ∧ e + m.log2 = q + 56) ∨ ∀ n m e, Val.fin n m e ∈ ps → m = 0)

/-- Whether a value is finite. -/
def finite : Val → Bool
  | .fin _ _ _ => true
  | _ => false

/-- The new encoding and flags of a C element of format f from its value c and the products of its chunk (04 R103; 12 R305,
R306): NaN, infinities, and finite values by one rounding of c and the sum. -/
def Accumulated (f : Nat) (exact sat : Bool) (c : Val) (ps : List Val) (new : Nat × FlagSet) : Prop :=
  let all := c :: ps
  let nan := (∃ v ∈ all, v.isNan = true) ∨ (Val.inf false ∈ all ∧ Val.inf true ∈ all)
  (nan → new = ((roundTo f .rne (.nan false)).1, fNV)) ∧
  (∀ n, ¬ nan → Val.inf n ∈ all → new = roundTo f .rne (.inf n)) ∧
  ((∀ v ∈ all, finite v = true) → ∀ q e0, CutAt exact ps q → e0 ≤ 0 → e0 ≤ q → (∀ n m e, Val.fin n m e ∈ all → e0 ≤ e) → ∃ n m e,
    (m = 0 ∨ e0 ≤ e) ∧ amount n m e e0 = cutTo e0 e0 c + (ps.map (cutTo q e0)).sum ∧
    let r := roundTo f .rne (.fin n m e)
    new.2 = r.2 ||| (if ps.any (cutLoses q) then fNX else 0) ∧
    (sat = false ∨ r.2 &&& fOF = 0 → new.1 = r.1) ∧
    (sat = true → r.2 &&& fOF ≠ 0 → ∀ p, fpOf f = some p → new.1 = p.top + if n then 2 ^ (p.eb + p.fb) else 0))

/-- An integer value. -/
def whole : Val → Int
  | .fin n m _ => if n then -(m : Int) else m
  | _ => 0

/-- The same of an INT32 element: the sum wraps, or is clamped under .sat with NV (04 R103; 12 R306). -/
def AccumulatedInt (sat : Bool) (c : Int) (ps : List Val) (new : Nat × FlagSet) : Prop :=
  (∀ v ∈ ps, ∃ n m, v = Val.fin n m 0) →
  let t := c + (ps.map whole).sum
  let u := if sat then max (-2 ^ 31) (min (2 ^ 31 - 1) t) else t
  (new.1 : Int) = u % 2 ^ 32 ∧ new.2 = if sat ∧ u ≠ t then fNV else 0

/-- A step of the head of a core's matrix queue whose entry is served now, the last of the entries that the step takes, with
nothing that stops it (12 R308, R311, R313, R318). -/
structure Served (s : State) (octet p : Nat) (op : TileOp) (rest : List TileOp) : Prop where
  table : (s.octet octet).pendingWrite = none
  heads : ∀ k < 8, ∀ o l, (s.core (octet * 8 + k)).matQ = o :: l → o.next < matSteps o ∧ blockEmpty o o.next = false
  place : servedPlace s octet (s.octet octet).entry = some p
  head : (s.core (octet * 8 + p)).matQ = op :: rest
  last : stepEntries s (octet * 8 + p) op op.next ≤ tget (s.octet octet).partialWork p 0 + 1
  sound : matFault s (octet * 8 + p) op op.next = none

/-! ### Transfers and translation (11, 09) -/

/-- A transfer that its engine works on under its die's partition number (18 R441), with nothing to wait for. -/
structure Works (s : State) (id : Nat) (t : Transfer) : Prop where
  here : tfind s.transfers id = some t
  going : t.ended = none
  run : running s id t = true
  free : t.wait = none
  clear : faultWaits s id t = false
  own : misnumbered s t = none

/-- Nothing holds a unit's request on its way any more: its way has no contended point, or it stands before its last one and
that lets it pass: a replay filter has room, no request of its owner goes first, and its owner is granted or
alone (08 R214; 17 R424, R425). -/
def Through (s : State) (id : Nat) (way : List Stop) : Prop :=
  (tfind s.claims id = none ∧ way = []) ∨
  ∃ c p row, tfind s.claims id = some c ∧ c.path = [(p, row)] ∧ filterFull s p = false ∧ behind s p (c.waiting id) = false ∧
    (c.granted = true ∨ rivalAt s c.owner p = false)

/-- A transfer has ended in b with a code, SUB, row and column, and its completion is due. -/
def Ended (b : State) (id code sub row col : Nat) : Prop :=
  (∃ tr, tfind b.transfers id = some tr ∧ tr.ended = some (code, sub, row, col)) ∧ Event.copyCompletion id ∈ b.agenda

/-- A walk has read an entry at a level and b is the outcome (09 R220, R225): not valid, its page FAULTED in the lowest free
buffer entry with a notice, or dropped; malformed, the page denied; a leaf in the TLB of every waiter's port, the pending entry
free; a pointer, the walk at the next table with its next level due. -/
def LevelRead (s b : State) (die e lvl ent : Nat) (p : PendEnt) : Prop :=
  let x := (s.die die).xlat
  let y := (b.die die).xlat
  let bad := entMalformed s (s.partOf die) ent lvl
  (bitAt ent 0 = false → tfind y.pend e = some { p with st := .faulted, level := lvl, at_ := none } ∧
    ((∃ n < 8, tfind x.fbent n = none) → ∃ n < 8, (∀ k < n, tfind x.fbent k ≠ none) ∧ tfind y.fbent n = some e ∧ y.noticePending = true) ∧
    ((∀ n < 8, tfind x.fbent n ≠ none) → y.droppedBit = true ∧ y.drops = min (x.drops + 1) 0xFFFF)) ∧
  (bitAt ent 0 = true → bad = true → tfind y.pend e = some { p with st := .denied 11, at_ := none }) ∧
  (bitAt ent 0 = true → bad = false → bitAt ent 1 = true → y.pend = terase x.pend e ∧ ∀ c ∈ waiterClusters p,
    firstLevel b c p.owner (p.vpn * 65536) = some { owner := p.owner, big := lvl == 2, vpn := if lvl = 2 then p.vpn / 4096 else p.vpn, leaf := BitVec.ofNat 64 ent }) ∧
  (bitAt ent 0 = true → bad = false → bitAt ent 1 = false →
    tfind y.pend e = some { p with at_ := some (lvl + 1, bits ent 51 15 * 2 ^ 15) } ∧ Event.pageWalk die e ∈ b.agenda)

/-- The translations of pages [first, first + count) of an owner, all for a count of 0, are gone from a partition's TLBs. -/
def Dropped (s b : State) (part owner first count : Nat) : Prop :=
  (∀ c e, s.dieIn (c / 200) part = true → e ∈ (b.cluster c).tlb1 → invalHits owner first count e = false) ∧
  ∀ d ∈ s.diesOf part, ∀ p ∈ (b.die d).xlat.tlb2, ∀ e ∈ p.2, invalHits owner first count e = false

/-! ### Creation and tasks (05, 15) -/

/-- An answer is on its way in b: the value v for dst under the request's number. -/
def Told (b : State) (id : Nat) (dst : RegDst) (v : Word) : Prop :=
  tfind b.reqs id = some (.value dst v none false none 0) ∧ Event.registerValueArrival id ∈ b.agenda

/-- A creation has made a thread of an empty slot: its entry, window, limit and block, its segment table and numbering, its
registers and trap vector, and everything else as a thread begins (05 R125). -/
def Born (b : State) (core k tb : Nat) (x : Birth) : Prop :=
  ∃ u, tfind b.threads (core * 64 + k) = some u ∧
    u = { pc := x.pc, regs := birthRegs x, win := x.win, tb := tb, tlim := x.tlim, sgs := x.sgs, num := x.num, csr := { tvec := (b.core core).trapVec }, launch := x.launch, group := x.group, made := x.made, elastic := x.elastic, tag := u.tag, fenceI := u.fenceI, wakePos := u.wakePos }

/-! ### Packets and invocations (16, 20) -/

/-- The sender of a packet of this module gets a status: an ANSWER to its identifier is on its way to its die (16 R402). -/
def StatusSent (s b : State) (die : Nat) (h : Beat) (bs : List Beat) (a : Int) : Prop :=
  hSmod h = s.modnum die → ∃ x, Event.answer (hSdie h) x [BitVec.ofNat 128 (statusByte a * 2 ^ 48 + bIdent bs)] ∈ b.agenda

/-- The invocation unit of a die. -/
abbrev unitOf (s : State) (die : Nat) : InvUnit := (s.die die).inv

/-! ### Owners, partitions and the platform (17, 18, 19, 20) -/

/-- The number D of a round: the low ten bits of the present owners' draws, added (17 R418, R424). -/
def roundNumber (s : State) (die cls inst : Nat) (present : List Nat) : Nat :=
  ((present.map (fun o => let e := s.ownerEnt die o
    bits (drawOf e.seed (0xE00000 + cls * 65536 + inst) (tget e.draws (pointNo cls inst) 0)).toNat 9 0)).sum) % 1024

/-- Owner w wins a round of the present owners for a number d: its interval holds d; or, where none does, no present owner has
a lower start above d, or, where all starts lie at d or below, a lower one; equal starts go to the lower number (17 R424). -/
def Wins (s : State) (die cls d : Nat) (present : List Nat) (w : Nat) : Prop :=
  let start := s.startOf die cls
  let holds := fun o => start o ≤ d ∧ d < start o + tget (s.ownerEnt die o).shares cls 0
  let first := fun (l : Nat → Prop) => ∀ o ∈ present, l o → start w < start o ∨ start w = start o ∧ w ≤ o
  w ∈ present ∧ ((∃ o ∈ present, holds o) → holds w) ∧
    ((∀ o ∈ present, ¬ holds o) →
      ((∃ o ∈ present, d < start o) → d < start w ∧ first (fun o => d < start o)) ∧
      ((∀ o ∈ present, start o ≤ d) → first (fun _ => True)))

/-- A reset of a partition has been requested with a cause (18 R449): ignored while it is RETIRED or CLEARING, merged into the
one in progress, or begun. -/
def Requested (s b : State) (p cause : Nat) (zero rel : Bool) : Prop :=
  let r := s.part p
  (r.st = 4 ∨ r.st = 3 → b = s) ∧
  (r.st ≠ 4 → r.st ≠ 3 → r.resetStep ≠ 0 → b.part p = { r with merged := (r.merged + 1) % 256, zero := r.zero || zero, rel := r.rel || rel }) ∧
  (r.st ≠ 4 → r.st ≠ 3 → r.resetStep = 0 →
    b.part p = { r with resetStep := 1, resetCause := cause, zero := zero, rel := rel } ∧ Event.partitionReset p ∈ b.agenda)

/-- The bytes of memory in b: zero where `gone` holds, and as before elsewhere. -/
def Cleared (s b : State) (gone : Nat → Bool) : Prop := ∀ a, memRead b.mem a = if gone a then 0 else memRead s.mem a

/-- RESULT and BUSY of a die's debug status (19 R473). -/
def dbgDone (b : State) (die : Nat) : Nat × Nat := (bits (b.die die).plat.dbgStat.toNat 3 1, bits (b.die die).plat.dbgStat.toNat 0 0)

/-! ### Decoding (03 R53-R74) -/

/-- The constructor that the decoder gives for a word that several rows share: the first of them in the table, since an
operand's value and not the word tells them apart (14 R367, R368; 19 R468, R470). -/
def firstForm : Instr → Instr
  | .ctxinDiscard d x => .ctxinRestore d x
  | .rotwWriteAttributes x y => .rotwWriteShadow x y
  | .rotwCommit x y => .rotwWriteShadow x y
  | .rotwCopy x y => .rotwWriteShadow x y
  | .wpkPending d x => .wpkQueue d x
  | .wpkEvent d x => .wpkQueue d x
  | .qstatClearPending d x => .qstatReadPending d x
  | .qstatBind d x => .qstatReadPending d x
  | .qstatReadSlot d x => .qstatReadPending d x
  | i => i

/-- Words of the worked encodings of 03 R74, and others written out field by field from its maps, with the instruction
that each stands for. -/
def sampleWords : List (BitVec 32 × Instr) :=
  [(0x0000007B#32, .quit),
   (0x1020918B#32, .tadd 3 1 2 1),
   (0x1028818B#32, .tadd 3 0x11 2 0),
   (0x0804012B#32, .mma 0 8 0 4 0 0 1 0),
   (0xFC00605B#32, .waitc 7 7 0 0),
   (0x003403DB#32, .ldAq 3 7 8 0),
   (0x0832D05B#32, .fenceS 3 5),
   -- lui x5: imm[31:12] 0x12345
   (0b00010010001101000101_00101_0110111#32, .lui 5 0x12345),
   -- addi x6, x7, -3
   (0b111111111101_00111_000_00110_0010011#32, .addi 6 7 0xFFD),
   -- jal x1, -8: imm[20], imm[10:1], imm[11], imm[19:12]
   (0b1_1111111100_1_11111111_00001_1101111#32, .jal 1 0xFFFFC),
   -- bne x3, x4, 16: imm[12], imm[10:5], rs2, rs1, fn3, imm[4:1], imm[11]
   (0b0_000000_00100_00011_001_1000_0_1100011#32, .bne 3 4 8),
   -- sd x9, -16(x2): imm[11:5], rs2, rs1, fn3, imm[4:0]
   (0b1111111_01001_00010_011_10000_0100011#32, .sd 9 2 0xFF0),
   (0b0100000_00011_00010_101_00001_0110011#32, .sra 1 2 3),
   (0b0000010_01100_01011_011_01010_0101111#32, .amoaddD 10 11 12 1 0),
   (0b010111000111_00010_001_00001_1110011#32, .csrrw 1 2 0x5C7)]

/-- The machine in which the selected agent's fetch runs: it is no longer selected, and the step is counted. -/
def fetching (s : State) : State := { s with selected := none, tick := s.tick + 1 }


end Sys2Proof.Claims

open Sys2Proof Sys2Proof.Machine Sys2Proof.Claims

/-- Every integer instruction that is ready completes: xd gets the result that 05 R126 gives it, with the count of the
prefix; its sources are read once for each field (05 R120); the pc moves on by 4; nothing else of the machine changes. -/
def Obligations.IntegerResults : Prop :=  ∀ (s : State) (a : Agent) (t : Thread) (i : Instr) (f : Fields) (g : Word → Word → Word → Word),
    intOp i = some (f, g) → Ready s a t i f →
      Completes s a t i f (start s t f) (.val (g t.pc (operand s a t f 1) (operand s a t f 2))) (t.pc + 4) none (exec i s)

/-- A jump or a taken branch whose target is a multiple of 4 completes at the target, a branch not taken at pc + 4; jal and
jalr write pc + 4 to xd.  A target that is not a multiple of 4 traps MISALIGNED and writes nothing (05 R126, 03 R53). -/
def Obligations.JumpsAndBranches : Prop :=  ∀ (s : State) (a : Agent) (t : Thread) (i : Instr) (f : Fields) (taken : Word → Word → Bool) (target : Word → Word → Word) (link : Bool),
    jumpOp i = some (f, taken, target, link) → Ready s a t i f →
      let x := operand s a t f 1
      let y := operand s a t f 2
      let w := if link then DstW.val (t.pc + 4) else DstW.none
      (taken x y = false → Completes s a t i f (start s t f) w (t.pc + 4) none (exec i s)) ∧
      (taken x y = true → (target t.pc x).toNat % 4 = 0 → Completes s a t i f (start s t f) w (target t.pc x) none (exec i s)) ∧
      (taken x y = true → (target t.pc x).toNat % 4 ≠ 0 →
        Traps (start s t f) a .misaligned (target t.pc x) (info142 0 15 false (bits (target t.pc x).toNat 63 61)) (exec i s))

/-- A CSR instruction that may write what it writes completes: xd gets the old value (0 where the form does not read),
and the CSR the value that the form gives it (05 R128, 03 R77).
A CSR that the unit does not have traps ILLEGAL; a CSR whose number has [9:8] = 01 traps PRIV in U mode; a write to a
read-only one traps ILLEGAL (03 R77). -/
def Obligations.CsrInstructionsAndTraps : Prop :=
  (∀ (s : State) (a : Agent) (t : Thread) (i : Instr) (f : Fields) (n : BitVec 12) (reads writes : Bool) (new : Word → Word → Word),
      csrOp i = some (f, n, reads, writes, new) → Ready s a t i f →
        let old := if reads then csrRead (start s t f) a t n.toNat else 0
        let v := new old (operand s a t f 1)
        (writes = true → bits n.toNat 11 10 ≠ 3) →
        (writes = true → n = 0x800 → pmapRefusal (start s t f) a.num t v.toNat = none) →
          Completes s a t i f (csrAfter (start s t f) a t n.toNat reads writes v) (.val old) (t.pc + 4) none (exec i s)) ∧
  (∀ (s : State) (a : Agent) (t : Thread) (i : Instr) (f : Fields) (n : BitVec 12) (reads writes : Bool) (new : Word → Word → Word),
      csrOp i = some (f, n, reads, writes, new) → s.cur = some a → s.getTh a = some t → t.seqr.takes t.pc = false →
        (csrIn a n.toNat = false → Traps s a .illegal (wordVal i) 0 (exec i s)) ∧
        (csrIn a n.toNat = true → bits n.toNat 9 8 = 1 → t.mode = .u → Traps s a .priv (wordVal i) (n.setWidth 64) (exec i s)) ∧
        (Ready s a t i f → writes = true → bits n.toNat 11 10 = 3 → Traps (start s t f) a .illegal (wordVal i) 0 (exec i s)))

/-- A write to a CSR of the thread changes its writable bits alone, and a read returns them (03 R78, 14 R341, R342). -/
def Obligations.CsrKeepsFields : Prop :=  ∀ (s : State) (a : Agent) (t : Thread) (n : Nat) (get : Thread → Word) (mask v : Word),
    (n, get, mask) ∈ csrHeld → s.getTh a = some t →
      csrRead s a t n = get t ∧
      ∃ u, (csrWrite s a t n v).getTh a = some u ∧ get u = v &&& mask ∧
        ∀ k get' mask', (k, get', mask') ∈ csrHeld → k ≠ n → get' u = get' t

/-- ccnt completes with its prefix open for the next instruction, and rel releases its entry whatever its count, but for x0
and a register bound as a port, which it leaves alone (05 R130, R131). -/
def Obligations.ConsumerCounts : Prop :=  (∀ (s : State) (a : Agent) (t : Thread) (n : BitVec 4), Ready s a t (.ccnt n) {} →
    Completes s a t (.ccnt n) {} s .none (t.pc + 4) (some n) (exec (.ccnt n) s)) ∧
  (∀ (s : State) (a : Agent) (t : Thread) (x : BitVec 5), Ready s a t (.rel x) { names := [(1, x)] } →
    if x = 0 ∨ isIn t x.toNat = true ∨ isOut t x.toNat = true then Completes s a t (.rel x) { names := [(1, x)] } s .none (t.pc + 4) none (exec (.rel x) s)
    else ∃ u, exec (.rel x) s = .next { s.setTh a u with cur := none } ∧
      u = { t with regs := u.regs, pc := t.pc + 4, pre := none, prevPc := some (t.pc.setWidth 16), instret := t.instret + 1, prog := .none, skip := false } ∧
      (u.ent x.toNat).st = .released ∧ ∀ r, r ≠ x.toNat → u.ent r = t.ent r)

/-- A load that reaches its target, with room on L, sends its request and completes with xd PENDING on it (06 R145, R154,
R160); ld.aq is counted where the tenant clamp takes its scope (07 R187).
A store that reaches its target, with room on S, sends its request with the low bytes of b and completes; a posted
store takes the lowest free journal entry with it (06 R145, R155, R160; 08 R198, R199).  sd.rl first parks on its release, as a
fence of its scope does, and sends its request when that is over (07 R171, R186; 08 R201). -/
def Obligations.LoadsAndStoresIssue : Prop :=
  (∀ (s b : State) (a : Agent) (t : Thread) (i : Instr) (f : Fields) (n : Nat) (sg : Bool) (acq : Option Nat) (off : Word) (x : Target),
      loadOp i = some (f, n, sg, acq, off) → Ready s a t i f → t.cnt.l < 63 →
      reach (envOf s a t i f) (specLoad n) (operand s a t f 1 + off) = .ok b x →
        let q := { request s a t x (.load sg) n 0 with acq := acq.isSome, dst := some (destOf s a t f) }
        Completes s a t i f (countClamp (withRequest b a x true q) a (acq.getD 0)) (.pend b.nextId) (t.pc + 4) none (exec i s)) ∧
  (∀ (s b : State) (a : Agent) (t : Thread) (i : Instr) (f : Fields) (n : Nat) (rel : Option Nat) (off : Word) (x : Target),
      storeOp i = some (f, n, rel, off) → Ready s a t i f → t.cnt.s < 63 →
      reach (envOf s a t i f) (specStore n) (operand s a t f 1 + off) = .ok b x →
        (∀ sc, rel = some sc → ReleaseWaits t (rel.map (clamped s a)) →
          Parks (b.dues ((maskBits t).map (fun k => Event.fenceEchoArrival a.num k))) a .fence (.probes (clamped s a sc) b.nextId b.now (maskBits t)) (exec i s)) ∧
        (ReleaseDone b a t (rel.map (clamped s a)) →
        let q := { request s a t x .store n ((operand s a t f 2).toNat % 2 ^ (8 * n)) with rel := rel.map (clamped s a) }
        ((a.isThread = false ∨ isPosted a.die x.place = false) →
          Completes s a t i f (countClamp (withRequest b a x false q) a (rel.getD 0)) .none (t.pc + 4) none (exec i s)) ∧
        (∀ slot k, a = .thread slot → isPosted a.die x.place = true → freeJournal b (coreOf slot) = some k →
          let j : JEnt := { pointer := x.ea, owner := s.agentOwner a, slot := slot % 64, typ := 0, size := n.log2, reason := 0, seq := 0, tag := t.tag, id := b.nextId }
          Completes s a t i f (countClamp (sendAccess (takeJournal (countS b a (touchBit a.die x.place)) (coreOf slot) k j) { q with journal := some k }) a (rel.getD 0)) .none (t.pc + 4) none (exec i s))))

/-- An LR, SC or AMO that reaches its target, with room on L, sends its request with the low bytes of b, its acquire and its
release, and completes with xd PENDING on it; an LR begins its reservation with it (06 R156, R158, R159; 07 R187).  One with
rl first parks on its release, as a fence of .sys does (07 R171, R186; 08 R201).
amofadd.s of a strict launch traps NONDET (06 R159). -/
def Obligations.AtomicOperations : Prop :=
  (∀ (s b : State) (a : Agent) (t : Thread) (i : Instr) (f : Fields) (n : Nat) (k : AKind) (sp : AccSpec) (aq rl : BitVec 1) (x : Target),
      atomOp i = some (f, n, k, sp, aq, rl) → Ready s a t i f → t.cnt.l < 63 → (k = .fadd → isStrict s t = false) →
      reach (envOf s a t i f) sp (operand s a t f 1) = .ok b x →
      (rl = 1 → ReleaseWaits t (some (clamped s a 5)) →
        Parks (b.dues ((maskBits t).map (fun m => Event.fenceEchoArrival a.num m))) a .fence (.probes (clamped s a 5) b.nextId b.now (maskBits t)) (exec i s)) ∧
      (ReleaseDone b a t (if rl = 1 then some (clamped s a 5) else none) →
        let q := { request s a t x k n ((operand s a t f 2).toNat % 2 ^ (8 * n)) with
          acq := aq == 1, rel := if rl = 1 then some (clamped s a 5) else none, dst := some (destOf s a t f) }
        let b' := if k = .lr then b.modTh a (fun u => { u with lrPend := some b.nextId }) else b
        Completes s a t i f (countClamp (withRequest b' a x true q) a (if aq = 0 ∧ rl = 0 then 0 else 5)) (.pend b.nextId) (t.pc + 4) none (exec i s))) ∧
  (∀ (s : State) (a : Agent) (t : Thread) (d x y : BitVec 5) (aq rl : BitVec 1),
      Ready s a t (.amofaddS d x y aq rl) (twoSrc d x y) → isStrict s t = true →
        Traps (start s t (twoSrc d x y)) a .nondet (wordVal (.amofaddS d x y aq rl)) 0 (exec (.amofaddS d x y aq rl) s))

/-- A full/empty form that reaches its target sends its request and parks until it is served; the reissue that finds it
served completes, with the word's value in xd for ldfe and ldff (06 R151, R161, R162).  That the reissue leaves L and S as they
are, both counts falling as the answer returns, is the model's choice (log 90).
cinv drops the line from the core's cache, cflush sends its request on S, pref fetches the line into the core's cache,
and each marks the bank it goes to; a pref whose pointer does not reach its target does nothing (06 R162). -/
def Obligations.FullEmptyAndCacheLines : Prop :=
  (∀ (s : State) (a : Agent) (t : Thread) (i : Instr) (f : Fields) (k : AKind) (sp : AccSpec) (off : Word),
      feOp i = some (f, k, sp, off) → Ready s a t i f →
        (∀ v, t.prog = .served v none →
          Completes s a t i f (start s t f) (if feReads k then .val v else .none) (t.pc + 4) none (exec i s)) ∧
        (∀ b x, t.prog = .none → (if feReads k then t.cnt.l else t.cnt.s) < 63 →
          reach (envOf s a t i f) sp (operand s a t f 1 + off) = .ok b x →
            let q := { request s a t x k 8 (operand s a t f 2).toNat with dst := some (destOf s a t f) }
            let c := if feReads k then countL b a (touchBit a.die x.place) else countS b a (touchBit a.die x.place)
            Parks (({ c with net := tset c.net c.nextId q }.fresh).due (.feAccessArrival c.nextId)) a (.answer b.nextId) (.asked b.nextId) (exec i s))) ∧
  (∀ (s : State) (a : Agent) (t : Thread) (x : BitVec 5) (off : BitVec 12),
      let f : Fields := { srcs := [(1, x)] }
      let ea := operand s a t f 1 + off.signExtend 64
      (∀ b y, Ready s a t (.cinv x off) f → reach (envOf s a t (.cinv x off) f) specLine ea = .ok b y →
        let c := b.modTh a (fun u => u.touch (touchBit a.die y.place))
        Completes s a t (.cinv x off) f (if y.kind = 3 ∨ y.kind = 4 then coreDrop c a.core y.place else c) .none (t.pc + 4) none (exec (.cinv x off) s)) ∧
      (∀ b y, Ready s a t (.cflush x off) f → t.cnt.s < 63 → reach (envOf s a t (.cflush x off) f) specLine ea = .ok b y →
        Completes s a t (.cflush x off) f (withRequest b a y false (request s a t y .cflush 1 0)) .none (t.pc + 4) none (exec (.cflush x off) s)) ∧
      (Ready s a t (.pref x off) f →
        match reach { envOf s a t (.pref x off) f with th := { t with watches := [] } } specLine ea with
        | .ok b y =>
          let c := b.modTh a (fun u => u.touch (touchBit a.die y.place))
          Completes s a t (.pref x off) f (if y.kind = 3 ∨ y.kind = 4 then coreTouch c a.core y.place else c) .none (t.pc + 4) none (exec (.pref x off) s)
        | .stop _ => Completes s a t (.pref x off) f s .none (t.pc + 4) none (exec (.pref x off) s)))

/-- A fence whose probes have all echoed, whose earlier loads have delivered, and which no refusal holds back, completes,
counted where the tenant clamp takes its scope; a release with touched banks parks behind one probe for each of them
(07 R185-R190).
waitc completes when every counter is at or below its value, and parks on them otherwise (07 R191). -/
def Obligations.FencesAndCounterWaits : Prop :=
  (∀ (s : State) (a : Agent) (t : Thread) (i : Instr) (kind sc : Nat), fenceOp i = some (kind, sc) → Ready s a t i {} →
      let k := clamped s a sc
      (∀ k' last at_, t.prog = .probes k' last at_ [] → delivered s a t last = true → (3 ≤ k' → refusalPending t = false) →
        Completes s a t i {} (countClamp s a sc) .none (t.pc + 4) none (exec i s)) ∧
      (t.prog = .none → (kind < 2 ∨ k = 0 ∨ maskBits t = []) → delivered s a t s.nextId = true →
        (2 ≤ kind → 3 ≤ k → refusalPending t = false) →
        Completes s a t i {} (countClamp s a sc) .none (t.pc + 4) none (exec i s)) ∧
      (t.prog = .none → 2 ≤ kind → k ≠ 0 → maskBits t ≠ [] →
        Parks (s.dues ((maskBits t).map (fun b => Event.fenceEchoArrival a.num b))) a .fence (.probes k s.nextId s.now (maskBits t)) (exec i s))) ∧
  (∀ (s : State) (a : Agent) (t : Thread) (l st c tt : BitVec 3), Ready s a t (.waitc l st c tt) {} →
      if t.cnt.l ≤ l.toNat ∧ t.cnt.s ≤ st.toNat ∧ t.cnt.c ≤ c.toNat ∧ t.cnt.t ≤ tt.toNat then
        Completes s a t (.waitc l st c tt) {} s .none (t.pc + 4) none (exec (.waitc l st c tt) s)
      else Parks s a (.counters l.toNat st.toNat c.toNat tt.toNat) t.prog (exec (.waitc l st c tt) s))

/-- barinit and bar: the reissue that finds the bank's answer completes, for bar once the thread's earlier loads have delivered;
so does a bar that finds its generation released, with its wait record cleared, and one that finds it still current waits on; a
refused barinit traps; a barinit that reaches its block sends its request, with one member or more and no more than its scope
holds, and parks until it is answered (07 R194-R197).  The first issue of bar parks on its release, as a fence of the block's
scope does, and then asks its block and parks until it is answered, counted where the tenant clamp takes the scope (07 R183,
R187, R195); its read of the block waits for an earlier acquire, load or atomic of the thread to it (06 R146, 07 R170).  A
pointer to another kind than the scope's or without the right, a block of another kind's scope, one of another die's
scratchpad, a member count out of range and an invalid block trap SEG_RIGHTS with REASON 3, 3, 5, 6 and 8 (07 R194, R195). -/
def Obligations.Barriers : Prop :=  ∀ (s : State) (slot : Nat) (t : Thread) (x y : BitVec 5) (sc : BitVec 3),
    let a := Agent.thread slot
    let f : Fields := { srcs := [(1, x), (2, y)] }
    let e := envOf s a t (.barinit x y sc) f
    (Ready s a t (.barinit x y sc) f →
      (∀ v m, t.prog = .served v m → Completes s a t (.barinit x y sc) f s .none (t.pc + 4) none (exec (.barinit x y sc) s)) ∧
      (∀ m, t.prog = .refused m → Traps s a m.cause m.tval m.tinfo (exec (.barinit x y sc) s)) ∧
      (∀ b q, t.prog = .none → reachBlock e slot (operand s a t f 1) [scopeKind sc.toNat] = .ok b q →
        (sc.toNat = 3 → dieTarget q.a = a.die) → operand s a t f 2 ≠ 0 → (operand s a t f 2).toNat ≤ largestN sc.toNat → t.cnt.s < 63 →
        let c := countS b a (touchBit a.die q.place)
        Parks (({ c with reqs := tset c.reqs c.nextId (.barinit slot t.tag (operand s a t f 1) q.place (operand s a t f 2).toNat sc.toNat) }.fresh).due (.barinitAtBank c.nextId))
          a (.answer c.nextId) (.asked c.nextId) (exec (.barinit x y sc) s)) ∧
      (let p := operand s a t f 1
       let no := fun (reason : Nat) => Traps s a .segRights p (info142 reason 9 false (bits p.toNat 63 61)) (exec (.barinit x y sc) s)
       (∀ k q, t.prog = .none → ptrCheck s slot t specBar p = .ok (k, q) → k ≠ scopeKind sc.toNat → no 3) ∧
       (t.prog = .none → ptrCheck s slot t specBar p = .error (accFault .segRights 16 specBar p) → no 3) ∧
       (∀ b q, t.prog = .none → reachBlock e slot p [scopeKind sc.toNat] = .ok b q →
         (sc.toNat = 3 → dieTarget q.a ≠ a.die → no 5) ∧
         ((sc.toNat = 3 → dieTarget q.a = a.die) → (operand s a t f 2 = 0 ∨ largestN sc.toNat < (operand s a t f 2).toNat) → no 6)))) ∧
    (let f : Fields := { srcs := [(1, x)] }
     let i := Instr.bar x
     Ready s a t i f →
      let e := envOf s a t i f
      let p := operand s a t f 1
      let no := fun (reason : Nat) => Traps s a .segRights p (info142 reason 9 false (bits p.toNat 63 61)) (exec i s)
      (∀ k q, ptrCheck s slot t specBar p = .ok (k, q) → 2 < k → no 3) ∧
      (ptrCheck s slot t specBar p = .error (accFault .segRights 16 specBar p) → no 3) ∧
      (∀ b q, reachBlock e slot p [0, 1, 2] = .ok b q →
        let blk := seenBlock e q
        let k := clamped s a (blkScope blk)
        (delivered b a t b.nextId = true → ∀ v m, t.prog = .served v m → Completes s a t i f b .none (t.pc + 4) none (exec i s)) ∧
        (t.prog = .none → imageWaits b (mkAccess e q (.load false) 16 0) = true → Parks b a .fence .none (exec i s)) ∧
        (imageWaits b (mkAccess e q (.load false) 16 0) = false →
          (∀ r, t.prog = .none → t.bar = some r → r.ptr = p →
            (BitVec.ofNat 32 (blkGen blk) ≠ r.gen → delivered b a t b.nextId = true →
              Completes s a t i f (b.modTh a (fun u => { u with bar := none })) .none (t.pc + 4) none (exec i s)) ∧
            (BitVec.ofNat 32 (blkGen blk) = r.gen → Parks b a (.barrier q.place (blkGen blk)) .none (exec i s))) ∧
          ((∀ r, t.bar = some r → r.ptr ≠ p) →
            (t.prog = .none → blkValid blk = false → no 8) ∧
            (t.prog = .none → blkValid blk = true → scopeKind (blkScope blk) ≠ q.kind → no 3) ∧
            (t.prog = .none → blkValid blk = true → scopeKind (blkScope blk) = q.kind → blkScope blk = 3 → dieTarget q.a ≠ a.die → no 5) ∧
            (blkValid blk = true → scopeKind (blkScope blk) = q.kind → (blkScope blk = 3 → dieTarget q.a = a.die) →
              (ReleaseWaits t (some k) →
                Parks (b.dues ((maskBits t).map (fun m => Event.fenceEchoArrival a.num m))) a .fence (.probes k b.nextId b.now (maskBits t)) (exec i s)) ∧
              (ReleaseDone b a t (some k) →
                let c := (countClamp b a (blkScope blk)).modTh a (fun u => u.touch (touchBit a.die q.place))
                Parks (asks c (.bar slot t.tag p q.place k) .barrierArrival) a (.answer c.nextId) (.asked c.nextId) (exec i s)))))))

/-- trap, ecall and ebreak take their trap: with a handler and INH clear, the entry that 14 R343 describes, and nothing
else of the machine changes; else the thread stops, its locks are released and the stop is reported (14 R346, R349; 03 R64). -/
def Obligations.SoftwareTraps : Prop :=  ∀ (s : State) (a : Agent) (t : Thread) (i : Instr) (c : Cause) (v w : Word), softOp i = some (c, v, w) → Ready s a t i {} →
    (t.csr.tstatus.getLsbD 4 = false → t.csr.tvec &&& 0xFFFC ≠ 0 →
      exec i s = .next { s.setTh a (trapped t c v w) with cur := none }) ∧
    (t.csr.tstatus.getLsbD 4 = true ∨ t.csr.tvec &&& 0xFFFC = 0 →
      ∃ u, exec i s = .next { u with cur := none } ∧
        (∀ slot, a = .thread slot → u = ((s.setTh a (stopThread t false)).dropLocks slot).due
          (.eventRecord (dieOf (coreOf slot)) (stopWord slot c false) (if t.pre.isSome then t.pc - 4 else t.pc) v w)) ∧
        (∀ d h, a = .sextant d h → u = s.setTh a (stopThread t false)))

/-- The checks of steps 6 and 7 of 03 R75, in their order and before any effect, on the instructions of the integer, control
transfer, CSR, memory, tile, matrix and copy classes: the first register field, in the order d, a, b, that names a register
outside the window traps REG_RANGE; then the first tile name at or beyond the limit traps TILE_NAME; then a RELEASED source
traps REG_RELEASED; then the first entry or other item read with an uncorrectable error traps ECC_UNCORR (18 R446); then a
PENDING entry parks the thread, or delivers the error that its answer attached, as its trap, and is RELEASED (05 R115, R120; 06 R164; 14 R347). -/
def Obligations.IssueChecks : Prop :=  ∀ (s : State) (a : Agent) (t : Thread) (i : Instr) (f : Fields), issueFields i = some f → s.cur = some a → s.getTh a = some t →
    unitRuns a i.word = true → (t.seqr.takes t.pc = true → capturable i.word = true) → csrUnknown a f = false → (needsK f = true → t.mode = .k) →
    let window := ∀ p ∈ f.all, p.2 < t.win
    let names := window ∧ ∀ p ∈ f.tiles, p.2.toNat < t.tlim
    let bad := fun (r : Nat) => (t.ent r).st = .present ∧ (t.ent r).ecc = true
    let live := names ∧ ∀ p ∈ entrySrcs t f, (t.ent p.2).st ≠ .released
    let sound := live ∧ (∀ p ∈ entrySrcs t f, ¬ bad p.2) ∧ ∀ n ∈ itemsRead t f, t.ecc.contains n = false
    (∀ l fd r m, f.all = l ++ (fd, r) :: m → (∀ p ∈ l, p.2 < t.win) → t.win ≤ r → Traps s a .regRange (wordVal i) (infoReg r fd) (exec i s)) ∧
    (∀ l fd n m, window → f.tiles = l ++ (fd, n) :: m → (∀ p ∈ l, p.2.toNat < t.tlim) → t.tlim ≤ n.toNat →
      Traps s a .tileName (wordVal i) (info253 0 fd) (exec i s)) ∧
    (∀ l fd r m, names → entrySrcs t f = l ++ (fd, r) :: m → (∀ p ∈ l, (t.ent p.2).st ≠ .released) → (t.ent r).st = .released →
      Traps s a .regReleased (wordVal i) (infoReg r fd) (exec i s)) ∧
    (∀ l fd r m, live → entrySrcs t f = l ++ (fd, r) :: m → (∀ p ∈ l, ¬ bad p.2) → bad r →
      Traps s a .eccUncorr (BitVec.ofNat 64 r) (info142 18 14 false 0) (exec i s)) ∧
    (∀ l n m, live → (∀ p ∈ entrySrcs t f, ¬ bad p.2) → itemsRead t f = l ++ n :: m → (∀ k ∈ l, t.ecc.contains k = false) → t.ecc.contains n = true →
      Traps s a .eccUncorr (BitVec.ofNat 64 n) (info142 18 14 false 0) (exec i s)) ∧
    (∀ l fd r m, sound → entryNames t f = l ++ (fd, r) :: m → (∀ p ∈ l, (t.ent p.2).st ≠ .pending) → (t.ent r).st = .pending →
      ((t.ent r).mark = none → Parks s a (.reg r) t.prog (exec i s)) ∧
      (∀ k, (t.ent r).mark = some k → Traps (s.setTh a (t.setEnt r { st := .released })) a k.cause k.tval k.tinfo (exec i s)))

/-- Every synchronous trap of an agent with a handler and INH clear is this entry, over whatever machine it is taken
(14 R343, R344).  tret in K mode returns to TEPC: the mode, AEN and INH as saved, but a Sextant thread stays in K mode whatever was saved
(19 R458), and then the held operations are put back into their queues; a TEPC that is not a multiple of 4 traps MISALIGNED; in U mode tret traps PRIV (14 R350, 10 R249).
wfi completes when an asynchronous trap is pending and parks otherwise; fence.i completes when S is 0, and later fetches
of the thread see the words in local store; exbset sets the core's boundary (14 R351-R353). -/
def Obligations.ReturnWaitAndBoundary : Prop :=
  (∀ (s : State) (a : Agent) (t : Thread) (c : Cause) (v w : Word), s.getTh a = some t → t.csr.tstatus.getLsbD 4 = false →
    t.csr.tvec &&& 0xFFFC ≠ 0 → s.takeTrap a c false v w = s.setTh a (trapped t c v w)) ∧
  (∀ (s : State) (a : Agent) (t : Thread),
      (Ready s a t .tret { kOnly := true, items := [0x15C0, 0x15C2] } → t.csr.tepc.toNat % 4 = 0 →
        (∀ slot, a = .thread slot →
          exec .tret s = .next { resumeHeld (s.setTh a (returned t)) slot with cur := none } ∧
          (t.held = [] → resumeHeld (s.setTh a (returned t)) slot = s.setTh a (returned t))) ∧
        (∀ d h, a = .sextant d h → exec .tret s = .next { s.setTh a { returned t with mode := .k } with cur := none })) ∧
      (Ready s a t .tret { kOnly := true, items := [0x15C0, 0x15C2] } → t.csr.tepc.toNat % 4 ≠ 0 →
        Traps s a .misaligned t.csr.tepc (info142 0 15 false (bits t.csr.tepc.toNat 63 61)) (exec .tret s)) ∧
      (s.cur = some a → s.getTh a = some t → t.seqr.takes t.pc = false → t.mode = .u →
        Traps s a .priv (wordVal .tret) 0 (exec .tret s))) ∧
  (∀ (s : State) (a : Agent) (t : Thread) (x : BitVec 5),
      (Ready s a t .wfi { kOnly := true } →
        if t.traps = [] then Parks s a .wfi t.prog (exec .wfi s) else Completes s a t .wfi { kOnly := true } s .none (t.pc + 4) none (exec .wfi s)) ∧
      (Ready s a t .fenceI {} →
        (t.cnt.s = 0 → Completes s a t .fenceI {} (s.setTh a { t with fenceI := s.nextId }).fresh .none (t.pc + 4) none (exec .fenceI s)) ∧
        (t.cnt.s ≠ 0 → Parks s a (.drain false) t.prog (exec .fenceI s))) ∧
      (Ready s a t (.exbset x) (kOne x) →
        let v := (operand s a t (kOne x) 1).toNat
        if v ≤ 256 then Completes s a t (.exbset x) (kOne x) (s.modCore a.core (fun c => { c with exb := v })) .none (t.pc + 4) none (exec (.exbset x) s)
        else Traps s a .illegal (wordVal (.exbset x)) (info348 10 0) (exec (.exbset x) s)))

/-- segset loads a well-formed image into the segment register, and traps SEG_FORM on a malformed one (14 R355, 06 R137).
watch writes the watchpoint that its control word names; a reserved bit, a span above 12 or a pointer that is not aligned
to the span traps ILLEGAL, in either mode (14 R360, 03 R73). -/
def Obligations.SegmentAndWatchpointWrites : Prop :=
  (∀ (s b : State) (a : Agent) (t : Thread) (g : BitVec 3) (x : BitVec 5) (q : Target) (v : Nat),
      Ready s a t (.segset g x) (kOne x) →
      let e := envOf s a t (.segset g x) (kOne x)
      let ea := operand s a t (kOne x) 1
      reach e (specImage 16 16) ea = .ok b q → readImage e b q 16 = .ok v →
        let c := b.modTh a (fun u => u.touch (touchBit a.die q.place))
        let img := BitVec.ofNat 128 v
        if sgMalformed img then Traps s a .segForm ea (info142 12 0 false (bits ea.toNat 63 61)) (exec (.segset g x) s)
        else Completes s a t (.segset g x) (kOne x) (c.modTh a (fun u =>
            ({ u with sgs := if img = 0 then terase u.sgs g.toNat else tset u.sgs g.toNat img } : Thread).wrote (0x300 + g.toNat)))
          .none (t.pc + 4) none (exec (.segset g x) s)) ∧
  (∀ (s : State) (a : Agent) (t : Thread) (x y : BitVec 5), let f : Fields := { srcs := [(1, x), (2, y)] }
      Ready s a t (.watch x y) f →
      let c := operand s a t f 1
      let p := operand s a t f 2
      let span := bits c.toNat 11 8
      if bits c.toNat 63 12 = 0 ∧ bits c.toNat 7 6 = 0 ∧ bitAt c.toNat 2 = false ∧ span ≤ 12 ∧ p.toNat % 2 ^ span = 0 then
        Completes s a t (.watch x y) f (s.setTh a { t with watches := tset t.watches (c.toNat % 4) { ctl := c, ptr := p } }) .none (t.pc + 4) none (exec (.watch x y) s)
      else Traps s a .illegal (wordVal (.watch x y)) (info348 13 0) (exec (.watch x y) s))

/-- lockb of a free bank that is grantable takes it, of the thread's own bank does nothing, of another's parks as its last
waiter, and of a second bank traps ILLEGAL; unlockb gives its own bank up, once its accesses are performed, and does nothing
to another's (14 R356-R358).  That a lock whose release still waits for its holder's accesses counts as held by no thread is the
model's choice (log 40).
The four operations of rotw, whose operand's [63:62] select it: eight entries of the shadow, the attributes of a slot,
the commit of a shadow that keeps positions eight apart, and the copy of the table in force (14 R368, 05 R107, R108). -/
def Obligations.LocksAndRotation : Prop :=
  (∀ (s : State) (slot : Nat) (t : Thread) (x : BitVec 5),
      let a := Agent.thread slot
      let core := coreOf slot
      let v := (operand s a t (kOne x) 1).toNat
      let l := s.lock core v
      let free := ∀ k < 16, k ≠ v → (s.lock core k).holder = some slot → (s.lock core k).releasing.isSome
      (Ready s a t (.lockb x) (kOne x) →
        (16 ≤ v → Traps s a .illegal (wordVal (.lockb x)) (info348 12 0) (exec (.lockb x) s)) ∧
        (v < 16 → ¬ free → Traps s a .illegal (wordVal (.lockb x)) (info348 9 0) (exec (.lockb x) s)) ∧
        (v < 16 → free → l.holder = some slot → l.releasing = none → Completes s a t (.lockb x) (kOne x) s .none (t.pc + 4) none (exec (.lockb x) s)) ∧
        (v < 16 → free → l.holder = none → l.waiters = [] → grantable s core v slot s.nextId = true →
          Completes s a t (.lockb x) (kOne x) (grantLock s core v slot) .none (t.pc + 4) none (exec (.lockb x) s)) ∧
        (∀ h, v < 16 → free → l.holder = some h → h ≠ slot → (∀ w ∈ l.waiters, w.1 ≠ slot) →
          Parks (((s.setLock core v { l with waiters := l.waiters ++ [(slot, s.nextId)] }).fresh).dueOnce (.bankLockGrant core v)) a (.bank v) t.prog (exec (.lockb x) s))) ∧
      (Ready s a t (.unlockb x) (kOne x) →
        (16 ≤ v → Traps s a .illegal (wordVal (.unlockb x)) (info348 12 0) (exec (.unlockb x) s)) ∧
        (v < 16 → (l.holder ≠ some slot ∨ l.releasing.isSome) → Completes s a t (.unlockb x) (kOne x) s .none (t.pc + 4) none (exec (.unlockb x) s)) ∧
        (v < 16 → l.holder = some slot → l.releasing = none →
          Completes s a t (.unlockb x) (kOne x)
            (if bankPending s core v s.nextId (fun k => k == slot) then ((s.setLock core v { l with releasing := some s.nextId }).fresh).dueOnce (.bankLockGrant core v)
             else (s.setLock core v { l with holder := none, releasing := none }).dueOnce (.bankLockGrant core v))
            .none (t.pc + 4) none (exec (.unlockb x) s)))) ∧
  (∀ (s : State) (slot : Nat) (t : Thread) (x y : BitVec 5) (i : Instr),
      i ∈ [Instr.rotwWriteShadow x y, Instr.rotwWriteAttributes x y, Instr.rotwCommit x y, Instr.rotwCopy x y] →
      let a := Agent.thread slot
      let core := coreOf slot
      Ready s a t i (kTwo x y) →
      let p := (operand s a t (kTwo x y) 1).toNat
      let q := (operand s a t (kTwo x y) 2).toNat
      let byte := fun k => bits q (8 * k + 7) (8 * k)
      (bits p 63 62 = 0 → bits p 61 3 = 0 → (∀ k < 8, bitAt (byte k) 6 = false) →
        Completes s a t i (kTwo x y) (s.setCore core { s.core core with shadow := (List.range 8).foldl (fun u k => if byte k = 128 + (8 * (p % 8) + k) then terase u (8 * (p % 8) + k) else tset u (8 * (p % 8) + k) (BitVec.ofNat 8 (byte k))) (s.core core).shadow }) .none (t.pc + 4) none (exec i s)) ∧
      (bits p 63 62 = 1 → bits p 61 6 = 0 → bits q 63 2 = 0 →
        Completes s a t i (kTwo x y) (setAttr s core (bits p 5 0) (bitAt q 1) (bitAt q 0)) .none (t.pc + 4) none (exec i s)) ∧
      (bits p 63 62 = 2 → bits p 61 0 = 0 → q = 0 →
        match tableBad (s.core core).shadow with
        | none => Completes s a t i (kTwo x y) (s.setCore core { s.core core with commit := some (s.core core).shadow }) .none (t.pc + 4) none (exec i s)
        | some k => Traps s a .illegal (wordVal i) (info348 11 k) (exec i s)) ∧
      (bits p 63 62 = 3 → bits p 61 0 = 0 → q = 0 →
        Completes s a t i (kTwo x y) (s.setCore core { s.core core with shadow := (s.core core).rot }) .none (t.pc + 4) none (exec i s)))

/-- A strip-running word, multiply word, mdld or mdclr none of whose checks fails, with room on T and in its queue, completes: its
operation stands last in its queue with the word, the thread, the scalar, and the descriptors, codes and generators of its
operands that it captured, none of its steps made (10 R243, R254; 12 R303, R310; 13 R334).  The operation that the model's
checks give is the one that enters.  A word with a check that fails traps with the cause, REASON and OPND of the first one that
fails, in the order of R252 (null tiles, the place of footprints, codes, shapes and destinations, overlaps; each operand by
operand) and, for a multiply word, of R317 after it, and nothing is queued (10 R252, R253; 12 R316, R317).  That checks 3
and 4 of R252 go operand by operand and blame a relation on the later operand, OPND 1 of reason 12, and R261's shapes for tand,
tor and txor are the model's choices (logs 54, 114).
The instructions are tfill, tadd, tsub, tmul, tfma, tdiv, tmin, tmax, tabs, tneg, tand, tor, txor, tsel, tcmp, texp, texp2, tlog,
tlog2, tsqrt, trsqrt, trcp, tsin, tcos, ttanh, tcvt, tcvtSr, tqnt, tsum, trmax, targmax, tbcast, ttrans, tsparse, mma, mmas, mmag, mdld, mdclr. -/
def Obligations.QueuedOperations : Prop :=  ∀ (s : State) (slot : Nat) (t : Thread) (i : Instr) (f : Fields),
    let a := Agent.thread slot
    queueFields i = some f → Ready s a t i f →
      let x := operand s a t f 1
      let y := operand s a t f 2
      let core := coreOf slot
      let checks := queueChecks s core t i x y
      let r := queueOp s slot t {} i (t.pc.setWidth 16) x y
      ((∀ c ∈ checks, ¬ c.1) → RoomOnT t i →
        (if fld i.word 0 7 = 0x2B then (s.core core).matQ.length < 4 else (s.core core).tileQ.length < 32) →
        ∃ op, Completes s a t i f (withOp s a op) .none (t.pc + 4) none (exec i s) ∧ op.ins = i ∧ op.word = i.word ∧ op.slot = slot ∧
          op.tag = t.tag ∧ op.next = 0 ∧ op.q = 0 ∧ op.xs = queueScalar i x y ∧
          op.descs = (takenTiles s core t i).map (fun o => (o.map (fun z => z.d)).getD 0) ∧
          op.codes = (takenTiles s core t i).map (fun o => BitVec.ofNat 4 ((o.map (fun z => z.fmt)).getD 0)) ∧ (op.gA, op.gB) = takenGens t i ∧
          op.zonce = false ∧ op.moff = ((matWord i).map (fun w => w.moff)).getD 0) ∧
      (∀ b, FirstFails checks b → Traps s a b.1 (wordVal i) (info253 b.2.1 b.2.2) (exec i s)) ∧
      (∀ op, r = .ok op → RoomOnT t i → queueRoom (s.core core) (fld i.word 0 7 == 0x2B) = true →
        Completes s a t i f (withOp s a op) .none (t.pc + 4) none (exec i s) ∧
        op.ins = i ∧ op.word = i.word ∧ op.pc = t.pc.setWidth 16 ∧ op.slot = slot ∧ op.tag = t.tag ∧ op.next = 0 ∧ op.q = 0 ∧
        op.xs = queueScalar i x y) ∧
      (∀ c reason opnd, r = .error (c, reason, opnd) → Traps s a c (wordVal i) (info253 reason opnd) (exec i s))

/-- tdef loads a descriptor whose image is null or well formed; tshape sets the valid extent within the shape; txget reads
the field that its selector names; txset writes it where the table accepts the value.  What they refuse traps TILE_SHAPE
(10 R257-R259): tshape and txset of a null descriptor with REASON 1.  That OPND names b (1 for txget's, 0 for txset's
selector) in REASON 8 is the model's choice (log 54). -/
def Obligations.Descriptors : Prop :=  ∀ (s : State) (a : Agent) (t : Thread),
    (∀ (d : BitVec 4) (x : BitVec 5) b q v, let f : Fields := { srcs := [(1, x)], tiles := [(0, d)] }
      Ready s a t (.tdef d x) f → reach (envOf s a t (.tdef d x) f) (specImage 16 16) (operand s a t f 1) = .ok b q →
      readImage (envOf s a t (.tdef d x) f) b q 16 = .ok v →
        let c := b.modTh a (fun u => u.touch (touchBit a.die q.place))
        if dNull (BitVec.ofNat 128 v) = true ∨ descOk (BitVec.ofNat 128 v) = true then
          Completes s a t (.tdef d x) f (c.modTh a (fun u => u.setDesc d.toNat (BitVec.ofNat 128 v))) .none (t.pc + 4) none (exec (.tdef d x) s)
        else Traps s a .tileShape (wordVal (.tdef d x)) (info253 5 0) (exec (.tdef d x) s)) ∧
    (∀ (d : BitVec 4) (x y : BitVec 5), let f : Fields := { srcs := [(1, x), (2, y)], tiles := [(0, d)], items := [0x100 + d.toNat] }
      Ready s a t (.tshape d x y) f →
        let r := (operand s a t f 1).toNat
        let c := (operand s a t f 2).toNat
        if dNull (t.desc d.toNat) = true then Traps s a .tileShape (wordVal (.tshape d x y)) (info253 1 0) (exec (.tshape d x y) s)
        else if r ≤ dRows (t.desc d.toNat) ∧ c ≤ dCols (t.desc d.toNat) then
          Completes s a t (.tshape d x y) f (s.setTh a (t.setDesc d.toNat (dSet (dSet (t.desc d.toNat) 55 48 r) 63 56 c))) .none (t.pc + 4) none (exec (.tshape d x y) s)
        else Traps s a .tileShape (wordVal (.tshape d x y)) (info253 5 0) (exec (.tshape d x y) s)) ∧
    (∀ (d : BitVec 5) (n : BitVec 4) (y : BitVec 5), let f : Fields := { dst := some d, srcs := [(2, y)], tiles := [(1, n)], items := [0x100 + n.toNat] }
      Ready s a t (.txget d n y) f →
        match selBits[(operand s a t f 2).toNat]? with
        | some (hi, lo) => Completes s a t (.txget d n y) f (start s t f) (.val (BitVec.ofNat 64 (bits (t.desc n.toNat).toNat hi lo))) (t.pc + 4) none (exec (.txget d n y) s)
        | none => Traps (start s t f) a .tileShape (wordVal (.txget d n y)) (info253 8 1) (exec (.txget d n y) s)) ∧
    (∀ (d : BitVec 4) (x y : BitVec 5), let f : Fields := { srcs := [(1, x), (2, y)], tiles := [(0, d)], items := [0x100 + d.toNat] }
      (Ready s a t (.txset d x y) f → dNull (t.desc d.toNat) = true →
        Traps s a .tileShape (wordVal (.txset d x y)) (info253 1 0) (exec (.txset d x y) s)) ∧
      (Ready s a t (.txset d x y) f → dNull (t.desc d.toNat) = false →
        if selBits.length ≤ (operand s a t f 1).toNat then Traps s a .tileShape (wordVal (.txset d x y)) (info253 8 0) (exec (.txset d x y) s)
        else match txsetDesc (t.desc d.toNat) (operand s a t f 1).toNat (operand s a t f 2).toNat with
          | some v => Completes s a t (.txset d x y) f (s.setTh a (t.setDesc d.toNat v)) .none (t.pc + 4) none (exec (.txset d x y) s)
          | none => Traps s a .tileShape (wordVal (.txset d x y)) (info253 5 0) (exec (.txset d x y) s)))

/-- gset loads a well-formed image into the generator; gget stores the image as a LOCAL store of the thread; gseed sets the
SEED field alone (13 R336-R338).
gfill of a tile that passes the checks, from a generator whose kind is not NONE and whose table neither leaves the local
store nor meets the tile, completes with its operation in the matrix queue; the first check that fails traps, a NONE generator
TILE_FORMAT (10 R252; 13 R334, R339). -/
def Obligations.GeneratorInstructions : Prop :=
  (∀ (s b : State) (a : Agent) (t : Thread) (g : BitVec 3) (x : BitVec 5) (q : Target),
      let f : Fields := { srcs := [(1, x)] }
      (∀ v, Ready s a t (.gset g x) f → reach (envOf s a t (.gset g x) f) (specImage 32 32) (operand s a t f 1) = .ok b q →
        readImage (envOf s a t (.gset g x) f) b q 32 = .ok v →
          let img := BitVec.ofNat 256 v
          if genMalformed img then Traps s a .tileShape (wordVal (.gset g x)) (info253 14 0) (exec (.gset g x) s)
          else if genFmtOk img then
            Completes s a t (.gset g x) f ((b.modTh a (fun u => u.touch (touchBit a.die q.place))).modTh a (fun u => (u.setGen g.toNat img).wrote (0x200 + g.toNat)))
              .none (t.pc + 4) none (exec (.gset g x) s)
          else Traps s a .tileFormat (wordVal (.gset g x)) (info253 6 0) (exec (.gset g x) s)) ∧
      (let f' : Fields := { f with items := [0x200 + g.toNat] }
       Ready s a t (.gget g x) f' → (∃ slot < 26214400, a = .thread slot) → t.cnt.s < 63 → reach (envOf s a t (.gget g x) f') specGget (operand s a t f 1) = .ok b q →
          Completes s a t (.gget g x) f' (withRequest b a q false (request s a t q .store 32 (t.gen g.toNat).toNat)) .none (t.pc + 4) none (exec (.gget g x) s)) ∧
      (let f' : Fields := { f with items := [0x200 + g.toNat] }
       Ready s a t (.gseed g x) f' →
        Completes s a t (.gseed g x) f' (s.setTh a (t.setGen g.toNat (BitVec.ofNat 256 (setBits (t.gen g.toNat).toNat 63 0 (operand s a t f 1).toNat))))
          .none (t.pc + 4) none (exec (.gseed g x) s))) ∧
  (∀ (s : State) (slot : Nat) (t : Thread) (d : BitVec 4) (g : BitVec 3) (o : Opnd),
      let a := Agent.thread slot
      let f : Fields := { tiles := [(0, d)], items := [0x100 + d.toNat, 0x200 + g.toNat] }
      let core := coreOf slot
      let cap := genCap t g.toNat
      Ready s a t (.gfill d g) f → d.toNat < t.tlim → o = tileOf s core t d.toNat 0 false true →
      Stands (s.core core).exb (s.core core).bfmt o → Writable o →
        (gKind cap.img ≠ 0 → (∀ p ∈ ropeRange cap.img, (s.core core).exb * 256 ≤ p.1 ∧ p.1 + p.2 ≤ 65536) → Apart o.foot (ropeRange cap.img) → RoomOnT t (.gfill d g) → (s.core core).matQ.length < 4 →
          ∃ op, Completes s a t (.gfill d g) f (withOp s a op) .none (t.pc + 4) none (exec (.gfill d g) s) ∧
            op.ins = .gfill d g ∧ op.slot = slot ∧ op.tag = t.tag ∧ op.descs = [o.d] ∧ op.gA = some cap ∧ op.next = 0) ∧
        (gKind cap.img = 0 → Traps s a .tileFormat (wordVal (.gfill d g)) (info253 4 1) (exec (.gfill d g) s))) ∧
  (∀ (s : State) (slot : Nat) (t : Thread) (d : BitVec 4) (g : BitVec 3),
      let a := Agent.thread slot
      let c := s.core (coreOf slot)
      let o := tileOf s (coreOf slot) t d.toNat 0 false true
      let r := ropeRange (t.gen g.toNat)
      Ready s a t (.gfill d g) { tiles := [(0, d)], items := [0x100 + d.toNat, 0x200 + g.toNat] } →
      ∀ b, FirstFails (nullChecks o ++ tilePlace c.exb o ++ codeChecks c.bfmt True o ++ shapeChecks True o ++
          [(gKind (t.gen g.toNat) = 0, .tileFormat, 4, 1), (Past r, .tileShape, 2, 1), (Below c.exb r, .segRights, 2, 1)] ++ ropeOverlap o 1 (t.gen g.toNat)) b →
        Traps s a b.1 (wordVal (.gfill d g)) (info253 b.2.1 b.2.2) (exec (.gfill d g) s))

/-- mitw puts eight entries of the octet's Vernier table, for owner 0 any and for another owner none that name a core of
another, and its switch becomes due; a group above 7 or reserved bits of an entry trap ILLEGAL with REASON 6, and an entry that
changes and names, before or after, another owner's core traps with REASON 8 (12 R323).  rpt opens its block, with an empty
list of words, its counts and its stagger word, and parks while an earlier block is still open; a malformed stagger word traps
TILE_SHAPE with REASON 13 (12 R320, R321), whose OPND 1 is the model's choice (log 54). -/
def Obligations.VernierAndRepeat : Prop :=  ∀ (s : State) (slot : Nat) (t : Thread),
    let a := Agent.thread slot
    (∀ x y : BitVec 5, Ready s a t (.mitw x y) (kTwo x y) →
      let g := (operand s a t (kTwo x y) 1).toNat
      let e := fun k => bits (operand s a t (kTwo x y) 2).toNat (8 * k + 7) (8 * k)
      let octet := octetOf (coreOf slot)
      let old := (s.octet octet).pendingWrite.getD (s.octet octet).vernier
      let new := (List.range 8).foldl (fun u k => if e k = 128 + k then terase u (8 * (g % 8) + k) else tset u (8 * (g % 8) + k) (BitVec.ofNat 8 (e k))) old
      (g < 8 → (∀ k < 8, bits (e k) 5 3 = 0) →
        (∀ k < 8, vernForeign s octet (s.ownerOf (coreOf slot)) (tget old (8 * (g % 8) + k) (BitVec.ofNat 8 (128 + k))).toNat (e k) = false) →
        Completes s a t (.mitw x y) (kTwo x y) ((s.modOctet octet (fun o => { o with pendingWrite := some new })).dueOnce (.vernierTableSwitch octet))
          .none (t.pc + 4) none (exec (.mitw x y) s)) ∧
      (8 ≤ g ∨ (∃ k < 8, bits (e k) 5 3 ≠ 0) → Traps s a .illegal (wordVal (.mitw x y)) (info348 6 0) (exec (.mitw x y) s)) ∧
      (let foreign := fun (v : Nat) => bitAt v 7 = true ∧ s.ownerOf (octet * 8 + bits v 2 0) ≠ s.ownerOf (coreOf slot)
       let was := fun (k : Nat) => (tget old (8 * (g % 8) + k) (BitVec.ofNat 8 (128 + k))).toNat
       g < 8 → (∀ k < 8, bits (e k) 5 3 = 0) → s.ownerOf (coreOf slot) ≠ 0 → (∃ k < 8, was k ≠ e k ∧ (foreign (was k) ∨ foreign (e k))) →
        Traps s a .illegal (wordVal (.mitw x y)) (info348 8 0) (exec (.mitw x y) s))) ∧
    (∀ (x : BitVec 5) (m : BitVec 9) (n : BitVec 3), let f : Fields := { srcs := [(1, x)] }
      Ready s a t (.rpt x m n) f →
      let w := operand s a t f 1
      if staggerBad w.toNat then Traps s a .tileShape (wordVal (.rpt x m n)) (info253 13 1) (exec (.rpt x m n) s)
      else if t.seqr.busy then Parks s a .sequencer t.prog (exec (.rpt x m n) s)
      else Completes s a t (.rpt x m n) f
        ((s.setTh a { t with seqr := { busy := true, n := n.toNat + 1, m := m.toNat, stagger := w, pc := t.pc } }).dueOnce (.rptReissue slot))
        .none (t.pc + 4) none (exec (.rpt x m n) s))

/-- A tile copy whose checks pass, with room on C and in an engine of the cluster, completes with its transfer begun on the
engine of the shortest queue, past the admission of its cluster (17 R428), with the tile, the stride word and the memory that its pointer reaches; a copy of no valid element
checks no pointer; a check that fails traps (11 R277-R280, R283, R286, R287).
czip and cunzip whose parameter block and ranges pass the checks complete with xd the sequence of their transfer, which
keeps the dwords of the block and the two ranges; czip of no values or of an error bound out of range traps (11 R296). -/
def Obligations.CopiesAndCodecs : Prop :=
  (∀ (s : State) (slot : Nat) (t : Thread) (i : Instr) (f : Fields),
      let a := Agent.thread slot
      copyFields i = some f → Ready s a t i f →
        let r := copyOp s slot t {} i (operand s a t f 1) (operand s a t f 2)
        let x := operand s a t f 1
        let y := operand s a t f 2
        (∀ w o kind p k, copyWord i = some w → CopyFits s (coreOf slot) t w o y →
          (dVrows o.d ≠ 0 → dVcols o.d ≠ 0 → ptrCheck s slot t (copySpec t w o y) x = .ok (kind, p) ∧
            watchFind t x.toNat (copySpec t w o y).size w.load (!w.load) = none) →
          RoomOnC t i → freeEngine (s.cluster (clusterOf (coreOf slot))) = some k →
          ∃ tr, Completes s a t i f (startTransfer (admitted s slot t) slot tr k) .none (t.pc + 4) none (exec i s) ∧ Started s slot t tr (startTransfer (admitted s slot t) slot tr k) ∧
            tr.ins = i ∧ tr.desc = o.d ∧ tr.ea = x ∧ tr.xs = y ∧
            (dVrows o.d ≠ 0 → dVcols o.d ≠ 0 → tr.kind = kind ∧ tr.at_ = p ∧ tr.len = (copySpec t w o y).size)) ∧
        (∀ d n v c o p k, i = .cpyTt d n v → MoveFits s (coreOf slot) c t d n o p y → RoomOnC t i →
          freeEngine (s.cluster (clusterOf (coreOf slot))) = some k →
          ∃ tr, Completes s a t i f (startTransfer (admitted s slot t) slot tr k) .none (t.pc + 4) none (exec i s) ∧ Started s slot t tr (startTransfer (admitted s slot t) slot tr k) ∧
            tr.ins = i ∧ tr.desc = o.d ∧ tr.desc2 = p.d ∧ tr.core2 = c) ∧
        (∀ tr k, r = .ok tr → RoomOnC t i → freeEngine (s.cluster (clusterOf (coreOf slot))) = some k →
          Completes s a t i f (startTransfer (admitted s slot t) slot tr k) .none (t.pc + 4) none (exec i s) ∧
          Started s slot t tr (startTransfer (admitted s slot t) slot tr k)) ∧
        (∀ c v w, r = .error (.trap c v w) → Traps s a c v w (exec i s))) ∧
  (∀ (s : State) (slot : Nat) (t : Thread) (i : Instr) (f : Fields) (zip : Bool),
      let a := Agent.thread slot
      let e := envOf s a t i f
      codecOp i = some (f, zip) → Ready s a t i f →
      ∀ kind blk, ptrCheck e.s slot t { size := 64, align := 32, r := true, w := true, kinds := [0], acc := 10 } e.a = .ok (kind, blk) →
        let x := mkAccess e { ea := e.a, kind := kind, a := blk, place := aLocal (coreOf slot) blk } (.load false) 64 0
        let vs := visibleStores e.s e.s.nextId x
        lockedOut e.s slot x.addr = false → imageWaits e.s x = false → readError e.s vs x.addr 64 = none →
        let dw := (List.range 8).map (fun k => BitVec.ofNat 64 (seenVal e.s vs x.addr 64 / 2 ^ (64 * k)))
        let range := fun (p : Word) (n al : Nat) (wr : Bool) (r : Nat × Nat) =>
          ptrCheck e.s slot t { size := n, align := al, r := !wr, w := wr, acc := if wr then 11 else 10 } p = .ok r ∧ watchFind t p.toNat n (!wr) wr = none
        let count := bits (dw.getD 2 0).toNat 31 0
        let bad := count = 0 ∨ zipExp (bits (dw.getD 2 0).toNat 47 32) = none
        (zip = true → bad → Traps (start s t f) a .tileShape (wordVal i) (info253 9 0) (exec i s)) ∧
        (∀ k1 a1 k2 a2 k, (zip = true → ¬ bad) →
          range (dw.getD 0 0) (if zip then 4 * count else 16) (if zip then 4 else 1) false (k1, a1) →
          range (dw.getD 1 0) (dw.getD 3 0).toNat (if zip then 1 else 4) true (k2, a2) →
          RoomOnC t i → freeEngine (s.cluster (clusterOf (coreOf slot))) = some k →
          ∃ tr, Completes s a t i f (startTransfer (admitted (start s t f) slot t) slot tr k) (.val (t.xseq.setWidth 64)) (t.pc + 4) none (exec i s) ∧
            tr.ins = i ∧ tr.args = dw ∧ tr.kind = k1 ∧ tr.at_ = a1 ∧ tr.kind2 = k2 ∧ tr.at2 = a2 ∧ tr.xs = BitVec.ofNat 64 blk))

/-- red of a tile and a control block that pass the checks, with room on C and in an engine of the cluster, completes with its contribution begun; sbind of a
count, a stride and a range that pass the checks completes with its stream begun where the in-port takes the copy stream, and
traps ILLEGAL where it does not (11 R295, R300). -/
def Obligations.ReductionAndStream : Prop :=  ∀ (s : State) (slot : Nat) (t : Thread),
    let a := Agent.thread slot
    (∀ (d : BitVec 4) (x y : BitVec 5) (kind p k : Nat),
      let o := tileOf s (coreOf slot) t d.toNat 0 false false
      let i := Instr.red d x y
      let f : Fields := { srcs := [(1, x), (2, y)], tiles := [(0, d)], items := [0x100 + d.toNat] }
      Ready s a t i f → d.toNat < t.tlim → Stands (s.core (coreOf slot)).exb (s.core (coreOf slot)).bfmt o →
      ptrCheck s slot t { size := 32, align := 32, r := true, w := true, a := true, kinds := [1, 2], acc := 10 } (operand s a t f 1) = .ok (kind, p) →
      watchFind t (operand s a t f 1).toNat 32 true true = none → RoomOnC t i → freeEngine (s.cluster (clusterOf (coreOf slot))) = some k →
        ∃ tr, Completes s a t i f (startTransfer (admitted s slot t) slot tr k) .none (t.pc + 4) none (exec i s) ∧
          Started s slot t tr (startTransfer (admitted s slot t) slot tr k) ∧ tr.ins = i ∧ tr.kind = kind ∧ tr.at_ = p ∧ tr.desc = o.d ∧ tr.xs = operand s a t f 2) ∧
    (∀ (x y : BitVec 5) (kind p : Nat),
      let i := Instr.sbind x y
      let f : Fields := { srcs := [(1, x), (2, y)] }
      let w := operand s a t f 2
      let size := (streamCount w - 1) * streamStride w + 8
      Ready s a t i f → streamCount w ≠ 0 → bits w.toNat 63 48 = 0 → bits w.toNat 47 32 % 8 = 0 →
      ptrCheck s slot t { size := size, align := 8, r := true, acc := 10 } (operand s a t f 1) = .ok (kind, p) →
        ((inPort t).map Prod.snd ≠ some 4 → Traps s a .illegal (wordVal i) (info348 2 0) (exec i s)) ∧
        (∀ k, (inPort t).map Prod.snd = some 4 → watchFind t (operand s a t f 1).toNat size true false = none → streaming s slot t.tag = false →
          RoomOnC t i → freeEngine (s.cluster (clusterOf (coreOf slot))) = some k →
          ∃ tr, Completes s a t i f (startTransfer (admitted s slot t) slot tr k) .none (t.pc + 4) none (exec i s) ∧
            Started s slot t tr (startTransfer (admitted s slot t) slot tr k) ∧ tr.ins = i ∧ tr.kind = kind ∧ tr.at_ = p ∧ tr.xs = w))

/-- cstat gives the next sequence, or the status of the sequence asked for while the ring still holds it and UNKNOWN (CODE
15) after that; ccancel ends its thread's transfers that it names and whose sequence the ring still holds with CANCELLED
(CODE 6), but for those that have ended and for contributions already accepted: such a transfer leaves the waits it is in
(11 R289, R290). -/
def Obligations.StatusAndCancel : Prop :=  ∀ (s : State) (a : Agent) (t : Thread),
    (∀ d x : BitVec 5, Ready s a t (.cstat d x) (oneSrc d x) →
      let v := (operand s a t (oneSrc d x) 1).toNat
      let n := v % 2 ^ 16
      Completes s a t (.cstat d x) (oneSrc d x) (start s t (oneSrc d x))
        (.val (if bitAt v 63 then t.xseq.setWidth 64
          else if (t.ringEnt n).toNat / 2 ^ 48 = n then t.ringEnt n else BitVec.ofNat 64 (n * 2 ^ 48 + 15 * 2 ^ 44)))
        (t.pc + 4) none (exec (.cstat d x) s)) ∧
    (∀ x : BitVec 5, let f : Fields := { srcs := [(1, x)] }
      Ready s a t (.ccancel x) f →
      let v := (operand s a t f 1).toNat
      let mine := s.transfers.filter (fun p => p.2.slot == a.num && p.2.tag == t.tag)
      let named := mine.filter (fun p => (bitAt v 63 || p.2.seq.toNat == v % 2 ^ 16) && (t.ringEnt p.2.seq.toNat).toNat / 2 ^ 48 == p.2.seq.toNat)
      Completes s a t (.ccancel x) f ((named.map Prod.fst).foldl cancelTransfer s) .none (t.pc + 4) none (exec (.ccancel x) s)) ∧
    (∀ id tr, tfind s.transfers id = some tr →
      if tr.ended.isSome ∨ tr.accepted then cancelTransfer s id = s
      else
        let b := leaveWaits s id tr
        ∃ r c, cancelTransfer s id = { b with transfers := tset s.transfers id { tr with fault := none, ended := some (6, 0, r, c) }, agenda := s.agenda ++ [.copyCompletion id] })

/-- quit parks until L, S, C and T are 0 and the journal holds nothing of the thread; a register that keeps an error then
traps with it and is released; else the thread ends: its slot is empty, and its launch has a live thread less, and is done
with its last one (05 R135, 06 R164, 08 R202, 15 R371). -/
def Obligations.EndOfThread : Prop :=  ∀ (s : State) (slot : Nat) (t : Thread), let a := Agent.thread slot
    Ready s a t .quit {} →
      (t.cnt ≠ {} ∨ hasJournal s slot t.tag = true → Parks s a (.drain true) t.prog (exec .quit s)) ∧
      (t.cnt = {} → hasJournal s slot t.tag = false →
        (∀ r m, markedEntry t = some (r, m) → Traps (s.setTh a (t.setEnt r { st := .released })) a m.cause m.tval m.tinfo (exec .quit s)) ∧
        (markedEntry t = none → ∃ u : State, exec .quit s = .next { u with cur := none } ∧ u.threads = terase s.threads slot ∧
          (∀ l, t.group = 0 → tfind s.groups 0 = none → tfind s.launches t.launch = some l →
            u.launches = tset s.launches t.launch { l with live := l.live - 1 } ∧
            (l.live ≤ 1 → l.waiting = false → u.agenda.contains (.launchDone t.launch) = true))))

/-- spawn sends its request with the spawner's x10 to x13, segments and numbers, gspawn with the six dwords of its record;
the result is PENDING on it.  lnch parks on its release, as a fence of .part does (07 R171), and then reads its record with its
segment images and is answered −2 for a malformed one, −3 where its cores do not qualify, −1 where the launch unit has no room,
else 0, with its launch waiting for its cores (05 R125, R133; 15 R373, R378, R389, R390).  That −2 is found before −3 and −3
before −1, that a thermal hold and a reset under way answer −1, and that the release is waited for at the issue, are the
model's choices (logs 58, 28, 62). -/
def Obligations.CreationAsked : Prop :=  (∀ (s : State) (slot : Nat) (t : Thread) (d x y : BitVec 5), let a := Agent.thread slot; let f := twoSrc d x y
    Ready s a t (.spawn d x y) f →
      ∃ args, (args = if t.win = 8 then [] else [copiedReg s t 10, copiedReg s t 11, copiedReg s t 12, copiedReg s t 13]) ∧
        Completes s a t (.spawn d x y) f
          (asks (start s t f) (.spawn (destOf s a t f) slot (operand s a t f 1).toNat (operand s a t f 2) args t.sgs t.num t.launch) .spawnArrival).tock
          (.pend (start s t f).nextId) (t.pc + 4) none (exec (.spawn d x y) s)) ∧
  (∀ (s b : State) (slot : Nat) (t : Thread) (d x : BitVec 5) (q : Target) (v : Nat), let a := Agent.thread slot; let f : Fields := { oneSrc d x with items := [0x1CC1] }
    Ready s a t (.gspawn d x) f → reach (envOf s a t (.gspawn d x) f) (specImage 48 16) (operand s a t f 1) = .ok b q →
      readImage (envOf s a t (.gspawn d x) f) b q 48 = .ok v →
        let c := b.modTh a (fun u => u.touch (touchBit a.die q.place))
        Completes s a t (.gspawn d x) f
          (asks c (.gspawn (destOf s a t f) slot ((List.range 6).map (fun k => BitVec.ofNat 64 (v / 2 ^ (64 * k)))) t.sgs t.num.lcount t.launch) .spawnArrival)
          (.pend c.nextId) (t.pc + 4) none (exec (.gspawn d x) s)) ∧
  (∀ (s : State) (slot : Nat) (t : Thread) (d x : BitVec 5) (r : Nat × Nat), let a := Agent.thread slot; let f := oneSrc d x; let b := start s t f
    Ready s a t (.lnch d x) f → ptrCheck b slot t { specPiece with size := 96 } (operand s a t f 1) = .ok r → ReleaseWaits t (some 4) →
      Parks (b.dues ((maskBits t).map (fun k => Event.fenceEchoArrival a.num k))) a .fence (.probes 4 b.nextId b.now (maskBits t)) (exec (.lnch d x) s)) ∧
  (∀ (s b c : State) (slot : Nat) (t tb : Thread) (d x : BitVec 5) (ws : List Nat) (segs : List (BitVec 128)), let a := Agent.thread slot; let f := oneSrc d x
    Ready s a t (.lnch d x) f → (pastRelease t.prog = true ∨ ReleaseDone (start s t f) a t (some 4)) → readAny (envOf s a t (.lnch d x) f) slot (start s t f) (operand s a t f 1) (operand s a t f 1) 6 = .ok (b, ws) →
      readSegs (envOf s a t (.lnch d x) f) slot b (operand s a t f 1) ((ws.map (BitVec.ofNat 64)).drop 5) = .ok (c, segs) → c.getTh a = some tb →
        let r : LRec := { dw := ws.map (BitVec.ofNat 64), segs := segs, owner := s.ownerOf (coreOf slot) }
        let o := submit c.fresh r a.die none
        Completes s a t (.lnch d x) f (answers o.2 c.nextId (destOf s a t f) (BitVec.ofInt 64 o.1)) (.pend c.nextId) (t.pc + 4) none (exec (.lnch d x) s)) ∧
  (∀ (s : State) (r : LRec) (die : Nat) (packet : Option (Nat × Nat × Nat)),
    let room := decide ((s.part (s.partOf die)).thermalHold = false ∧ s.fenced (s.partOf die) = false ∧ waitingAtDie s (homeOf r die) < 1024)
    let cores := if r.elastic then [homeOf r die * 12800] else (List.range r.cores).map (fun n => r.origin.getD 0 + n)
    if r.malformed then submit s r die packet = (-2, s)
    else if coresOk s r (s.partOf die) = false then submit s r die packet = (-3, s)
    else if room = false then submit s r die packet = (-1, s)
    else ∃ u l, submit s r die packet = (0, u) ∧ tfind u.launches s.nextId = some l ∧ l.record = r ∧ l.home = homeOf r die ∧
      l.waiting = true ∧ l.placed = [] ∧ l.claim = 0 ∧ l.live = 0 ∧ l.level = r.prio ∧ l.entered = s.now ∧
      u.agenda = s.agenda ++ cores.map (Event.launchPlacement s.nextId) ++ [.launchAgeing s.nextId])

/-- tnext gives a thread of a deterministic launch the index C·S above its own while it is below LCOUNT, a thread of an
elastic launch the next index of its claim counter, and any other thread −1; the index becomes lindex (15 R391).
msend and mrecv trap SEG_LIMIT with reason 14 for an operand with reserved bits or an index that LCOUNT does not admit;
msend parks on its release, as a fence of .part does (07 R171), then while the store of its home die is full or holds the same
key, and else sends its message on; mrecv parks until the message that it names is in the store, and takes it out (15 R384,
R396).  That an elastic tnext writes lindex at its issue, and that msend's release is waited for at the issue, are the model's
choices (logs 59, 62). -/
def Obligations.NextIndexAndMessages : Prop :=
  (∀ (s : State) (a : Agent) (t : Thread) (d : BitVec 5), let f : Fields := { onlyDst d with items := [0x1CC0] }
      Ready s a t (.tnext d) f →
        let none_ := Completes s a t (.tnext d) f (start s t f) (.val (BitVec.allOnes 64)) (t.pc + 4) none (exec (.tnext d) s)
        let named := fun (b : State) (v : Word) => b.modTh a (fun u => { u with num := { u.num with lindex := v } })
        match tfind s.launches t.launch with
        | none => none_
        | some l =>
          if t.made ≠ .launched ∨ l.kind = 2 then none_
          else if l.kind = 0 then
            let n := t.num.lindex.toNat + l.record.cores * l.record.slots
            if l.record.lcount ≤ n then none_
            else Completes s a t (.tnext d) f (named (start s t f) (BitVec.ofNat 64 n)) (.val (BitVec.ofNat 64 n)) (t.pc + 4) none (exec (.tnext d) s)
          else
            let id := (start s t f).nextId
            if l.record.lcount ≤ l.claim then
              Completes s a t (.tnext d) f (answers (start s t f).fresh id (destOf s a t f) (BitVec.allOnes 64)) (.pend id) (t.pc + 4) none (exec (.tnext d) s)
            else
              let b := named (start s t f) (BitVec.ofNat 64 l.claim)
              Completes s a t (.tnext d) f (answers { b with launches := tset s.launches t.launch { l with claim := l.claim + 1 } }.fresh id (destOf s a t f) (BitVec.ofNat 64 l.claim))
                (.pend id) (t.pc + 4) none (exec (.tnext d) s)) ∧
  (∀ (s : State) (slot : Nat) (t : Thread) (x y : BitVec 5), let a := Agent.thread slot
      (let f : Fields := { srcs := [(1, x), (2, y)], items := [0x1CC0, 0x1CC1] }
       Ready s a t (.msend x y) f →
        let k := operand s a t f 1
        let bad := bits k.toNat 63 48 ≠ 0 ∨ t.num.lcount.toNat ≤ bits k.toNat 31 0 ∨ t.num.lcount.toNat ≤ t.num.lindex.toNat
        let m : Msg := { launch := t.launch, receiver := bits k.toNat 31 0, sender := t.num.lindex.toNat, seq := bits k.toNat 47 32, payload := operand s a t f 2 }
        let home := msgHome s slot t
        let all := (s.die home).msgs ++ msgsComing s home
        let room := all.length < 4096 ∧ ∀ n ∈ all, sameKey m n = false
        (bad → Traps s a .segLimit k (info142 14 12 false (bits k.toNat 63 61)) (exec (.msend x y) s)) ∧
        let behind := (∃ n, t.prog = .retried n) ∨ ReleaseDone s a t (some 4)
        (¬ bad → ReleaseWaits t (some 4) →
          Parks (s.dues ((maskBits t).map (fun m => Event.fenceEchoArrival a.num m))) a .fence (.probes 4 s.nextId s.now (maskBits t)) (exec (.msend x y) s)) ∧
        (¬ bad → behind → ¬ room → Parks s a (.msend k) t.prog (exec (.msend x y) s)) ∧
        (¬ bad → behind → room →
          Completes s a t (.msend x y) f (asks (s.leavePoint home (s.ownerOf (coreOf slot)) 6 (match t.prog with | .retried n => n | _ => 0)) (.msg slot home m) .messageStoreArrival)
            .none (t.pc + 4) none (exec (.msend x y) s))) ∧
      (let f : Fields := { oneSrc x y with items := [0x1CC0] }
       Ready s a t (.mrecv x y) f →
        let k := operand s a t f 1
        let bad := bits k.toNat 63 48 ≠ 0 ∨ t.num.lcount.toNat ≤ bits k.toNat 31 0 ∨ t.num.lcount.toNat ≤ t.num.lindex.toNat
        let home := msgHome s slot t
        let mine := fun (m : Msg) => decide (m.launch = t.launch ∧ m.receiver = t.num.lindex.toNat ∧ m.sender = bits k.toNat 31 0 ∧ m.seq = bits k.toNat 47 32)
        (bad → Traps (start s t f) a .segLimit k (info142 14 12 false (bits k.toNat 63 61)) (exec (.mrecv x y) s)) ∧
        (¬ bad → (∀ m ∈ (s.die home).msgs, mine m = false) → Parks (start s t f) a (.mrecv k) t.prog (exec (.mrecv x y) s)) ∧
        (∀ m, ¬ bad → (s.die home).msgs.find? mine = some m →
          Completes s a t (.mrecv x y) f ((start s t f).modDie home (fun d => { d with msgs := (s.die home).msgs.filter (fun n => !mine n) })) (.val m.payload) (t.pc + 4) none (exec (.mrecv x y) s))))

/-- phase reports its phase to the paired thread across each link of its chain, and completes when every neighbour of the
chain that still runs has reported at least its own phase less the lead of that link; else it parks (15 R385, R386, R397).
qwait completes when its condition has held by its limit or holds now, traps QTIMEOUT when the limit has passed and for
a register that is no port, and else parks with its limit counted from its first issue; rwait reads its block, completes
when the ring has what it waits for, traps RTIMEOUT when its limit has passed, and else parks (15 R387, R388, R398, R399). -/
def Obligations.PhasesAndBoundedWaits : Prop :=
  (∀ (s : State) (slot : Nat) (t : Thread) (x : BitVec 5), let a := Agent.thread slot; let f : Fields := { onlySrc x with items := [0x1CC2] }
      Ready s a t (.phase x) f →
        let v := operand s a t f 1
        let mine := max t.mine (bits v.toNat 31 0 + 1)
        let b := (s.setTh a { t with mine := mine }).dues ((chainLinks s (coreOf slot) t).filterMap (fun p =>
          (pairSlot s t p.2).map (fun k => Event.phaseReportArrival k (facing p.1) mine t.launch)))
        let far := (chainLinks s (coreOf slot) t).all (fun p =>
          (pairSlot s t p.2).isNone || decide ((bits v.toNat 31 0 : Int) - (bits v.toNat (51 + 4 * p.1) (48 + 4 * p.1) : Int) ≤ ((tget t.reported p.1 0 : Nat) : Int) - 1))
        (t.prog = .none → far = true → Completes s a t (.phase x) f b .none (t.pc + 4) none (exec (.phase x) s)) ∧
        (t.prog = .none → far = false → Parks b a (.phase v) .released (exec (.phase x) s)) ∧
        (t.prog = .released → mine ≠ t.mine → far = true → Completes s a t (.phase x) f b .none (t.pc + 4) none (exec (.phase x) s)) ∧
        (t.prog = .released → mine = t.mine → far = true → Completes s a t (.phase x) f s .none (t.pc + 4) none (exec (.phase x) s)) ∧
        (t.prog = .released → mine = t.mine → far = false → Parks s a (.phase v) .released (exec (.phase x) s))) ∧
  (∀ (s : State) (slot : Nat) (t : Thread) (x : BitVec 5) (imm : BitVec 12), let a := Agent.thread slot
      (let f : Fields := { names := [(1, x)] }
       Ready s a t (.qwait x imm) f →
        (t.prog = .met → Completes s a t (.qwait x imm) f s .none (t.pc + 4) none (exec (.qwait x imm) s)) ∧
        (t.prog = .none → portReady s slot t x.toNat = true → (portQueue s slot t x.toNat).isSome → Completes s a t (.qwait x imm) f s .none (t.pc + 4) none (exec (.qwait x imm) s)) ∧
        (t.prog = .none → portReady s slot t x.toNat = false → (portQueue s slot t x.toNat).isSome →
          Parks (s.dueOnce (.qtimeout slot)) a (.qwait x.toNat (s.now + imm.toNat)) (.since s.now 0 0) (exec (.qwait x imm) s)) ∧
        (t.prog = .none → portQueue s slot t x.toNat = none →
          Traps s a .qtimeout (BitVec.ofNat 64 (x.toNat * 256 + 7)) (BitVec.ofNat 64 (imm.toNat * 2 ^ 16)) (exec (.qwait x imm) s)) ∧
        (∀ h l out code q, t.prog = .expired h l → portQueue s slot t x.toNat = some (out, code, q) →
          Traps s a .qtimeout (BitVec.ofNat 64 (x.toNat * 256 + out.toNat * 128 + code)) (BitVec.ofNat 64 (imm.toNat * 2 ^ 16 + q.head % 16 * 16 + q.tail % 16)) (exec (.qwait x imm) s))) ∧
      (let f := onlySrc x
       Ready s a t (.rwait x imm) f →
        let p := operand s a t f 1
        (t.prog = .met → Completes s a t (.rwait x imm) f s .none (t.pc + 4) none (exec (.rwait x imm) s)) ∧
        (∀ h l, t.prog = .expired h l → Traps s a .rtimeout p (h ++ l) (exec (.rwait x imm) s)) ∧
        (∀ c h l b q v, t.prog = .since c h l → s.now ≤ c + imm.toNat → reach (envOf s a t (.rwait x imm) f) specRing p = .ok b q →
          readImage (envOf s a t (.rwait x imm) f) b q 32 = .ok v →
            let u := imageDone (envOf s a t (.rwait x imm) f) b q 32
            let n := (BitVec.ofNat 32 (v / 2 ^ 64) - BitVec.ofNat 32 v).toNat
            if (if bitAt v 160 then decide (n < bits v 159 128) else decide (n ≠ 0)) then Completes s a t (.rwait x imm) f u .none (t.pc + 4) none (exec (.rwait x imm) s)
            else Parks ((u.dueOnce (.rwaitPoll slot)).dueOnce (.rtimeout slot)) a (.rwait q.place s.now (c + imm.toNat)) (.since c (BitVec.ofNat 32 v) (BitVec.ofNat 32 (v / 2 ^ 64))) (exec (.rwait x imm) s))))

/-- cntnew takes the lowest free counter of its die, ARMED with a value above 0 and READY with 0, for the core's owner, and
answers its handle; −2 for a value above 32 bits, −1 with no counter free (15 R380, R392).  cntdec parks on its release, as a
fence of .part does, and to another module as one of .sys; then it, and cntfree, of a counter on the issuing die ask its table
and park; on another die of the module, and for a module that no import entry serves, they are posted, with the lowest free
journal entry, and else cntdec sends its COUNTER packet from such an entry; the reissue that finds the answer completes, a
refusal pending with it (07 R171, R187; 15 R394, R395).  cntbind traps SEG_RIGHTS with reason 14 for a malformed record and 15
for cores that do not qualify, and else asks the table (15 R393).  That −2 comes before −1 and that cntbind parks until the
table answers (log 61), that a reset under way answers −1 (log 28), that the release is waited for at the issue (log 62), and
the entry by which a decrement reaches another module (log 20), are the model's choices. -/
def Obligations.CounterInstructions : Prop :=  ∀ (s : State) (slot : Nat) (t : Thread), let a := Agent.thread slot; let owner := s.ownerOf (coreOf slot)
    (∀ d x : BitVec 5, let f := oneSrc d x
      Ready s a t (.cntnew d x) f →
      let v := operand s a t f 1
      let id := (start s t f).nextId
      let k := lowFree (s.die a.die).counters 0
      let old := tget (s.die a.die).counters k {}
      let b := (start s t f).fresh
      if bits v.toNat 63 32 ≠ 0 then Completes s a t (.cntnew d x) f (answers b id (destOf s a t f) (status (-2))) (.pend id) (t.pc + 4) none (exec (.cntnew d x) s)
      else if 65536 ≤ k ∨ s.fenced (s.partOf a.die) = true then Completes s a t (.cntnew d x) f (answers b id (destOf s a t f) (status (-1))) (.pend id) (t.pc + 4) none (exec (.cntnew d x) s)
      else Completes s a t (.cntnew d x) f
        (answers (b.modDie a.die (fun r => { r with counters := tset r.counters k { st := if v = 0 then .ready else .armed, val := v.setWidth 32, owner := owner, gen := old.gen } }))
          id (destOf s a t f) (handle k a.die (s.modnum a.die) old.gen.toNat)) (.pend id) (t.pc + 4) none (exec (.cntnew d x) s)) ∧
    (∀ (i : Instr) (x : BitVec 5) (q : Option Nat → Req) (e : Nat → Event),
      let h := operand s a t (onlySrc x) 1
      counterOp slot t h a.die owner i = some (x, q, e) → Ready s a t i (onlySrc x) →
      let rel : Option Nat := if i = .cntdec x then some (if hModule h = s.modnum a.die then 4 else clamped s a 5) else none
      let next := t.prog = .none ∨ ∃ sc last at_, t.prog = .probes sc last at_ []
      (ReleaseWaits t rel → Parks (s.dues ((maskBits t).map (fun m => Event.fenceEchoArrival a.num m))) a .fence (.probes (rel.getD 0) s.nextId s.now (maskBits t)) (exec i s)) ∧
      (next → ReleaseDone s a t rel → hModule h = s.modnum a.die → hDie h = a.die →
        Parks (asks s (q none) e) a (.answer s.nextId) (.asked s.nextId) (exec i s)) ∧
      (∀ v, t.prog = .served v none → Completes s a t i (onlySrc x) s .none (t.pc + 4) none (exec i s)) ∧
      (∀ v m, t.prog = .served v (some m) → Completes s a t i (onlySrc x) (s.raise a t.tag (asyncOf m)) .none (t.pc + 4) none (exec i s)) ∧
      (∀ k, next → ReleaseDone s a t rel → hModule h = s.modnum a.die → hDie h ≠ a.die → freeJournal s (coreOf slot) = some k →
        let j : JEnt := { pointer := h, owner := owner, slot := slot % 64, typ := 1, size := 0, reason := 0, seq := 0, tag := t.tag, id := s.nextId }
        Completes s a t i (onlySrc x) (asks (takeJournal s (coreOf slot) k j) (q (some k)) e) .none (t.pc + 4) none (exec i s)) ∧
      (next → ReleaseDone s a t rel → (hDie h ≠ a.die ∨ hModule h ≠ s.modnum a.die) → freeJournal s (coreOf slot) = none → Parks s a .journal t.prog (exec i s)) ∧
      (∀ k, next → ReleaseDone s a t rel → hModule h ≠ s.modnum a.die → freeJournal s (coreOf slot) = some k →
        let j : JEnt := { pointer := h, owner := owner, slot := slot % 64, typ := 1, size := 0, reason := 0, seq := 0, tag := t.tag, id := s.nextId }
        let b := takeJournal s (coreOf slot) k j
        (∀ n, i = .cntdec x → counterImport s (s.partOf a.die) owner (hModule h) = some n →
          let p := counterPacket s a.die (coreOf slot) k s.nextId n h
          Completes s a t i (onlySrc x) (countClamp (asks b (.sent (coreOf slot) k a.die p.1 p.2.1 p.2.2 0 s.now false) .requestReplayTimeout) a 5) .none (t.pc + 4) none (exec i s)) ∧
        (i = .cntdec x → counterImport s (s.partOf a.die) owner (hModule h) = none →
          Completes s a t i (onlySrc x) (countClamp (asks b (q (some k)) e) a 5) .none (t.pc + 4) none (exec i s)) ∧
        (i = .cntfree x → Completes s a t i (onlySrc x) (asks b (q (some k)) e) .none (t.pc + 4) none (exec i s)))) ∧
    (∀ (x y : BitVec 5) (b c : State) (ws : List Nat) (segs : List (BitVec 128)), let i := Instr.cntbind x y
      let f : Fields := { srcs := [(1, x), (2, y)] }
      let p := operand s a t f 2
      Ready s a t i f →
      (∀ v, t.prog = .served v none → Completes s a t i f s .none (t.pc + 4) none (exec i s)) ∧
      (t.prog = .none → readAny (envOf s a t i f) slot s p p 6 = .ok (b, ws) →
        readSegs (envOf s a t i f) slot b p ((ws.map (BitVec.ofNat 64)).drop 5) = .ok (c, segs) →
        let r : LRec := { dw := ws.map (BitVec.ofNat 64), segs := segs, owner := owner }
        if r.malformed then Traps s a .segRights p (info142 14 0 false (bits p.toNat 63 61)) (exec i s)
        else if coresOk c r (c.partOf a.die) = false then Traps s a .segRights p (info142 15 0 false (bits p.toNat 63 61)) (exec i s)
        else Parks (asks c (.cntBind slot t.tag (operand s a t f 1) r) .counterBind) a (.answer c.nextId) (.asked c.nextId) (exec i s)))

/-- rinv and rinvr answer −4 for malformed request words and −3 for a destination outside the partition that no import entry
serves; else they park on their release, as a fence of .sys clamped to the tenant does, and then, with a journal entry free and
room on S, the argument registers are read, S is counted, and the INVOKE packet stands on its way with the result PENDING
(07 R171, R187; 16 R400-R402).  rreply of a token without VALID does nothing, and of one with VALID parks on its release
likewise and then sends its REPLY and counts S (16 R411).  That the release is waited for at the issue is the model's choice
(log 62). -/
def Obligations.Invocations : Prop :=  ∀ (s : State) (slot : Nat) (t : Thread), let a := Agent.thread slot; let core := coreOf slot
    (∀ (d x y : BitVec 5) (i : Instr) (reply : Bool), let f := twoSrc d x y
      (i, reply) ∈ [(Instr.rinv d x y, false), (Instr.rinvr d x y, true)] → Ready s a t i f →
      let tw := operand s a t f 1
      let hw := operand s a t f 2
      let b := start s t f
      (invMalformed tw.toNat hw.toNat = true → Completes s a t i f b (.val (status (-4))) (t.pc + 4) none (exec i s)) ∧
      (invMalformed tw.toNat hw.toNat = false → invOutside s a.die tw.toNat = true → importServes s a.die (s.ownerOf core) tw.toNat = false →
        Completes s a t i f b (.val (status (-3))) (t.pc + 4) none (exec i s)) ∧
      (∀ k, invMalformed tw.toNat hw.toNat = false → (invOutside s a.die tw.toNat = true → importServes s a.die (s.ownerOf core) tw.toNat = true) →
        argCheck (envOf s a t i f) (bits hw.toNat 27 24) = none → ReleaseDone b a t (some (clamped s a 5)) → t.cnt.s < 63 → freeJournal s core = some k →
        let rs := List.range' 10 (bits hw.toNat 27 24)
        let p := invPacket b a.die core k b.nextId tw.toNat hw.toNat (rs.map t.reg)
        let j : JEnt := { pointer := tw, owner := s.ownerOf core, slot := slot % 64, typ := 2, size := 0, reason := 0, seq := 0, tag := t.tag, id := b.nextId, dst := some (destOf s a t f), reply := reply }
        let u := consumeAll t (rs.map (fun r => (5, r)))
        Completes s a t i f (countClamp (asks ((takeJournal (b.setTh a u) core k j).setTh a { u with cnt := { u.cnt with s := t.cnt.s + 1 } })
            (.sent core k a.die p.1 p.2.1 p.2.2 0 s.now false) .requestReplayTimeout) a 5)
          (.pend b.nextId) (t.pc + 4) none (exec i s)) ∧
      (invMalformed tw.toNat hw.toNat = false → (invOutside s a.die tw.toNat = true → importServes s a.die (s.ownerOf core) tw.toNat = true) →
        argCheck (envOf s a t i f) (bits hw.toNat 27 24) = none → ReleaseWaits t (some (clamped s a 5)) →
        Parks (b.dues ((maskBits t).map (fun m => Event.fenceEchoArrival a.num m))) a .fence (.probes (clamped s a 5) b.nextId b.now (maskBits t)) (exec i s))) ∧
    (∀ x y : BitVec 5, let i := Instr.rreply x y
      let f : Fields := { srcs := [(1, x), (2, y)] }
      Ready s a t i f →
      let k := (operand s a t f 1).toNat
      (bitAt k 63 = false → Completes s a t i f s .none (t.pc + 4) none (exec i s)) ∧
      (bitAt k 63 = true → ReleaseWaits t (some (clamped s a 5)) →
        Parks (s.dues ((maskBits t).map (fun m => Event.fenceEchoArrival a.num m))) a .fence (.probes (clamped s a 5) s.nextId s.now (maskBits t)) (exec i s)) ∧
      (bitAt k 63 = true → ReleaseDone s a t (some (clamped s a 5)) → 63 ≤ t.cnt.s → Parks s a (.counterFull 1) t.prog (exec i s)) ∧
      (bitAt k 63 = true → ReleaseDone s a t (some (clamped s a 5)) → t.cnt.s < 63 →
        Completes s a t i f (countClamp (asks (s.setTh a { t with cnt := { t.cnt with s := t.cnt.s + 1 } })
          (.reply slot t.tag a.die (s.answerPort a.die) (mkHdr 6 1 (bits k 62 47) (s.modnum a.die) (bits k 46 42) a.die 0 0)
            [BitVec.ofNat 128 (k * 2 ^ 64 + (operand s a t f 2).toNat)] false) .requestReplayTimeout) a 5)
          .none (t.pc + 4) none (exec i s)))

/-- impset, expset and htset write the entry of their index for the issuing core's partition: an index above 12 bits traps
ILLEGAL, a malformed image SEG_FORM with reason 17, an entry that is not the owner's, before or after, SEG_RIGHTS with
reason 16 for every owner but 0; the thread parks until every die holds the entry, and its reissue completes (16 R413): that
the entry stands on every die at the issue that parks is the model's choice (log 64).
ctxout asks for the slot that its word names and ctxin for the context of its handle; reserved bits trap ILLEGAL, a
register of the issuer that keeps an error traps with it before ctxout, and ctxin parks while the counters of its context
are not 0 (14 R366, R367). -/
def Obligations.TablesAndContexts : Prop :=
  (∀ (s b : State) (a : Agent) (t : Thread) (i : Instr) (x y : BitVec 5) (n : Nat) (bad : Nat → Bool) (owner : Nat → Nat) (old : Part → Nat → Nat)
      (put : Part → Nat → Nat → Part) (q : Target),
      tableOp b a i = some (x, y, n, bad, owner, old, put) → Ready s a t i (kTwo x y) →
      (t.prog = .met → Completes s a t i (kTwo x y) s .none (t.pc + 4) none (exec i s)) ∧
      (t.prog ≠ .met → reach (envOf s a t i (kTwo x y)) (specImage n n) (operand s a t (kTwo x y) 2) = .ok b q →
        let k := (operand s a t (kTwo x y) 1).toNat
        let p := operand s a t (kTwo x y) 2
        let part := s.partOf a.die
        let me := b.ownerOf a.core
        (4096 ≤ k → Traps s a .illegal (wordVal i) (info348 14 0) (exec i s)) ∧
        (∀ v, k < 4096 → readImage (envOf s a t i (kTwo x y)) b q n = .ok v → b.partOf a.die = part →
          if bad v then Traps s a .segForm p (info142 17 0 false (bits p.toNat 63 61)) (exec i s)
          else if me ≠ 0 ∧ (owner v ≠ me ∨ owner (old (b.part part) k) ≠ me) then Traps s a .segRights p (info142 16 0 false (bits p.toNat 63 61)) (exec i s)
          else Parks (drainRings ((imageDone (envOf s a t i (kTwo x y)) b q n).modPart part (fun r => put r k v)) part) a .table .met (exec i s)))) ∧
  (∀ (s : State) (slot : Nat) (t : Thread) (d x : BitVec 5), let a := Agent.thread slot
      let f : Fields := { oneSrc d x with kOnly := true }
      let w := operand s a t f 1
      let b := start s t f
      let owner := s.ownerOf (coreOf slot)
      (Ready s a t (.ctxout d x) f →
        (∀ r m, markedEntry t = some (r, m) → Traps (b.setTh a (t.setEnt r { st := .released })) a m.cause m.tval m.tinfo (exec (.ctxout d x) s)) ∧
        (markedEntry t = none → (bits w.toNat 63 29 ≠ 0 ∨ bits w.toNat 15 14 ≠ 0 ∨ bits w.toNat 7 6 ≠ 0) → Traps b a .illegal (wordVal (.ctxout d x)) (info348 12 0) (exec (.ctxout d x) s)) ∧
        (∀ target, markedEntry t = none → bits w.toNat 63 29 = 0 → slotOfCoord w.toNat = some target →
          Completes s a t (.ctxout d x) f (asks b (.ctxout (destOf s a t f) slot target owner) .ctxoutRequestArrival) (.pend b.nextId) (t.pc + 4) none (exec (.ctxout d x) s))) ∧
      (∀ i ∈ [Instr.ctxinRestore d x, Instr.ctxinDiscard d x], Ready s a t i f →
        let waits := fun n => ∃ fr u, frameOf s a.die w.toNat owner = some (n, fr, u) ∧ (ctxinTarget s a.die w.toNat owner fr u).isSome ∧ frameBusy u = true
        (bits w.toNat 62 61 ≠ 0 → Traps b a .illegal (wordVal i) (info348 12 0) (exec i s)) ∧
        (∀ n, bits w.toNat 62 61 = 0 → waits n → Parks b a (.frame n) t.prog (exec i s)) ∧
        (bits w.toNat 62 61 = 0 → (∀ n, ¬ waits n) →
          Completes s a t i f (asks b (.ctxin (destOf s a t f) slot w owner) .ctxinRequestArrival) (.pend b.nextId) (t.pc + 4) none (exec i s))))

/-- oseed, odraw, oshare and oxq answer what their rules say of the issuing owner's entry on the issuing die, with xd PENDING
and counted on L; an operand that is refused traps ILLEGAL with reason 15 and its number (17 R432, R433, R435, R437, R438).
oplace refuses a structure that its mode does not admit, and a host line in structures 1 and 3, with ILLEGAL; its modes
answer the place of the line or page that its pointer names, and mode 5 asks the line's home slice.  oreseed parks while a
sweep of its owner is in progress, and else gives the owner its new seed on every die of the partition, the old one
retiring, with the sweep begun and the generation one higher (17 R429, R434, R436): that every die has it at the one step of
the issue is the model's choice (log 70). -/
def Obligations.OwnerInstructions : Prop :=
  (∀ (s : State) (a : Agent) (t : Thread) (i : Instr) (f : Fields) (x y : Nat) (r : Nat ⊕ Word),
      ownerOp s a x y i = some (f, r) → Ready s a t i f → x = (operand s a t f 1).toNat → y = (operand s a t f 2).toNat →
        (∀ n, r = .inl n → Traps (start s t f) a .illegal (wordVal i) (info348 15 n) (exec i s)) ∧
        (∀ v, r = .inr v → t.cnt.l < 63 →
          Completes s a t i f (ownerAnswers (start s t f) a (destOf s a t f) v) (.pend (start s t f).nextId) (t.pc + 4) none (exec i s)) ∧
        (∀ v, r = .inr v → 63 ≤ t.cnt.l → Parks (start s t f) a (.counterFull 0) t.prog (exec i s))) ∧
  (∀ (s : State) (a : Agent) (t : Thread),
      (∀ (d x y : BitVec 5), let i := Instr.oplace d x y; let f := twoSrc d x y
        Ready s a t i f →
        let w := (operand s a t f 2).toNat
        let st := bits w 15 0
        let mode := bits w 19 16
        let admits := if mode = 0 then decide (st = 0 ∨ st = 1 ∨ st = 3) else if mode = 2 ∨ mode = 3 then decide (st ≤ 3) else decide (mode ≤ 6 ∧ st = 0)
        let e := envOf s a t i f
        (2 ^ 20 ≤ w ∨ admits = false → Traps (start s t f) a .illegal (wordVal i) (info348 15 2) (exec i s)) ∧
        (∀ b q, w < 2 ^ 20 → admits = true → reach e specPlace (operand s a t f 1) = .ok b q → t.cnt.l < 63 → (∃ tb, b.getTh a = some tb) →
          (q.kind = 4 → (st = 1 ∨ st = 3) → Traps (start s t f) a .illegal (wordVal i) (info348 15 2) (exec i s)) ∧
          ((q.kind = 4 → st ≠ 1 ∧ st ≠ 3) → mode ≠ 5 → Completes s a t i f (ownerAnswers b a (destOf s a t f) (BitVec.ofNat 64
              (if mode = 0 then placeNow e b q st else if mode = 1 then homeSlice q.place else if mode = 2 then keyA (placeSeed e q st) st
                else if mode = 3 then keyB (placeSeed e q st) st else if mode = 4 then lineNo q.place else placeRetiring e q)))
            (.pend b.nextId) (t.pc + 4) none (exec i s)) ∧
          (mode = 5 → Completes s a t i f
            (sendAccess (b.modTh a (fun u => { u with cnt := { u.cnt with l := u.cnt.l + 1 } }))
              { request s a t { q with place := q.place / 256 * 256 } .lineQuery 256 0 with dst := some (destOf s a t f) })
            (.pend b.nextId) (t.pc + 4) none (exec i s)))) ∧
      (∀ (d x : BitVec 5), let i := Instr.oreeseed d x
        let f : Fields := { oneSrc d x with kOnly := true }
        Ready s a t i f →
        let b := start s t f
        let part := s.partOf a.die
        let o := s.agentOwner a
        let seed := seedFor b (operand s a t f 1)
        let c := (reseed b part o seed).tock
        (sweeping b part o = true → Parks b a .sweep t.prog (exec i s)) ∧
        (sweeping b part o = false → t.cnt.l < 63 →
          Completes s a t i f (ownerAnswers c a (destOf s a t f) ((c.ownerEnt a.die o).gen.setWidth 64)) (.pend c.nextId) (t.pc + 4) none (exec i s) ∧
          (operand s a t f 1 ≠ 0 → seed = operand s a t f 1) ∧ seed ≠ 0 ∧
          ∀ d ∈ s.diesOf part, (c.ownerEnt d o).seed = seed ∧ (c.ownerEnt d o).retiring = (s.ownerEnt d o).seed ∧ (c.ownerEnt d o).sweep = true ∧
            (c.ownerEnt d o).gen = (s.ownerEnt d o).gen + 1)))

/-- wpk clears its thread's flag of the source that its operand selects, and then completes with what it finds there, or
parks on the flag; qkick parks on its release, as a fence of .sys does, and then wakes the queue's thread or the scheduler,
where the queue is registered and neither halted nor disabled, and does nothing elsewhere; qstat answers the pending line, the
pending bit that it clears, the entry of a slot that it binds or unbinds, or the entry of a slot; malformed operands trap
ILLEGAL (07 R171; 19 R465, R468-R470).  While die 0 holds the host memory of a queue's control block for a reset, both wait
(18 R452); that they park for it is the model's choice (log 125). -/
def Obligations.SextantInstructions : Prop :=  ∀ (s : State) (die h : Nat) (t : Thread) (d x : BitVec 5), let a := Agent.sextant die h; let f := oneSrc d x
    let w := (operand s a t f 1).toNat
    let b := start s t f
    let p := s.partOf die
    (∀ i ∈ wpkForms d x, Ready s a t i f →
      let src := bits w 1 0
      let bad := (src = 0 ∧ 31 < h) ∨ src = 3 ∨ bits w 31 2 ≠ 0
      let held := src = 0 ∧ ∃ q, tfind (s.qmap p).slots (die * 32 + h) = some q ∧ queueHeld s p q.1 = true
      let c := b.modSx die h (fun y => { y with flags := tset y.flags src false })
      (bad → Traps b a .illegal (wordVal i) (info348 12 0) (exec i s)) ∧
      (¬ bad → held → Parks b a .table .none (exec i s)) ∧
      (∀ v, ¬ bad → ¬ held → wpkFinds c die h src (bits w 63 32) = some v → Completes s a t i f c (.val (BitVec.ofNat 64 v)) (t.pc + 4) none (exec i s)) ∧
      (¬ bad → ¬ held → wpkFinds c die h src (bits w 63 32) = none → Parks c a (.flag src) .none (exec i s))) ∧
    (Ready s a t (.qkick x) (onlySrc x) →
      let k := (operand s a t (onlySrc x) 1).toNat
      (1024 ≤ k → Traps s a .illegal (wordVal (.qkick x)) (info348 12 0) (exec (.qkick x) s)) ∧
      (k < 1024 → queueHeld s p k = true → Parks s a .table t.prog (exec (.qkick x) s)) ∧
      (k < 1024 → queueHeld s p k = false → ReleaseWaits t (some 5) →
        Parks (s.dues ((maskBits t).map (fun m => Event.fenceEchoArrival a.num m))) a .fence (.probes 5 s.nextId s.now (maskBits t)) (exec (.qkick x) s)) ∧
      (k < 1024 → queueHeld s p k = false → ReleaseDone s a t (some 5) →
        Completes s a t (.qkick x) (onlySrc x)
          (if (kickTaken s p k).isNone then s
           else match slotOfQueue s p k with
             | some n => (kickFlag s n).dueOnce (.queuePacketStart p k)
             | none => (flagAll (setPending s p k) (s.frontDie p) 1).dueOnce (.schedulerRun p))
          .none (t.pc + 4) none (exec (.qkick x) s))) ∧
    (∀ i ∈ qstatForms d x, Ready s a t i f →
      let gives := fun (v : Nat) (c : State) => Completes s a t i f (answers c.fresh c.nextId (destOf s a t f) (BitVec.ofNat 64 v)) (.pend c.nextId) (t.pc + 4) none (exec i s)
      let slot := bits w 20 16 * 32 + bits w 25 21
      let entry := match tfind (s.qmap p).slots slot with | some (q, _) => 1024 + q | none => 0
      (4 ≤ bits w 63 60 → Traps b a .illegal (wordVal i) (info348 12 0) (exec i s)) ∧
      (bits w 63 60 = 0 → bits w 59 4 = 0 →
        gives (((s.qmap p).pending.map (fun q => if q / 64 = bits w 3 0 then 2 ^ (q % 64) else 0)).sum) b) ∧
      (bits w 63 60 = 1 → bits w 59 10 = 0 →
        (if (s.qmap p).pending.contains (bits w 9 0) then
          gives 1 (flagAll (b.modQmap p (fun m => { m with pending := m.pending.filter (fun q => q != bits w 9 0) })) (s.frontDie p) 1)
         else gives 0 b)) ∧
      (bits w 63 60 = 2 → bits w 59 26 = 0 → bits w 15 11 = 0 → s.dieIn (bits w 20 16) p = true → bitAt w 10 = true →
        (if (s.die (slot / 32)).plat.qslots ≤ slot % 32 ∨ (∃ k, slotOfQueue s p (bits w 9 0) = some k ∧ k ≠ slot) then gives (2 ^ 64 - 1) b
         else gives entry (bindSlot b p slot (bits w 9 0)))) ∧
      (bits w 63 60 = 2 → bits w 59 26 = 0 → bits w 15 11 = 0 → s.dieIn (bits w 20 16) p = true → bitAt w 10 = false →
        gives entry (if entry ≠ 0 ∧ tget (s.sxThread (slot / 32) (slot % 32)).flags 0 false = true then setPending (unbindSlot b p slot) p (entry % 1024)
          else unbindSlot b p slot)) ∧
      (bits w 63 60 = 3 → bits w 59 26 = 0 → bits w 15 0 = 0 → s.dieIn (bits w 20 16) p = true → gives entry b))

/-- A position of a core moves its clock on by one position and selects at most one slot, the table's own where it is
eligible: an asynchronous trap that the slot may take is taken, with its pc saved, and else its next instruction is
selected (05 R107-R110, 14 R343, R345).  A committed table takes effect at position 0.  A wake whose condition is met, or
that finds a trap to take, makes its thread eligible two positions on (05 R114), a wfi to retire before its trap (14 R351), and a thread that waits for the copy queues
wakes when one has room (11 R279).  A Sextant cycle selects the next ready
hardware thread (19 R458). -/
def Obligations.Positions : Prop :=  ∀ s : State,
    (∀ core, let c := s.core core; let e := Event.rotationPosition core
      (c.commit = none ∨ c.pos % 64 ≠ 0) →
      (selectSlot s core c.pos = none → ∃ b, Does s e b ∧ b.selected = s.selected ∧ (b.core core).pos = c.pos + 1) ∧
      (bitAt (c.rotEntry c.pos) 7 = true → eligible s core c.pos false (bits (c.rotEntry c.pos) 5 0) = true →
        selectSlot s core c.pos = some (bits (c.rotEntry c.pos) 5 0, false)) ∧
      (∀ k spare t, selectSlot s core c.pos = some (k, spare) → tfind s.threads (core * 64 + k) = some t →
        (nextTrap t = none ∨ t.prog = .roused → ∃ b u, Does s e b ∧ b.selected = some (.thread (core * 64 + k)) ∧ (b.core core).pos = c.pos + 1 ∧
          tfind b.threads (core * 64 + k) = some u ∧ tfind (b.core core).slotIssue k = some c.pos ∧ u.regs = t.regs ∧ u.pc = t.pc) ∧
        (∀ x, nextTrap t = some x → t.prog ≠ .roused → t.csr.tvec &&& 0xFFFC ≠ 0 → k < 64 → ∃ b u, Does s e b ∧ b.selected = s.selected ∧
          tfind b.threads (core * 64 + k) = some u ∧ u.mode = .k ∧ u.pc = t.csr.tvec &&& 0xFFFC ∧ u.csr.tepc = t.pc ∧
          u.csr.tcause = BitVec.ofNat 64 (2 ^ 63 + x.mark.cause.code) ∧ u.csr.tval = x.mark.tval ∧ u.csr.tinfo = x.mark.tinfo ∧
          u.traps = t.traps.erase x))) ∧
    (∀ core, let c := s.core core
      Does s (.rotationTableSwitch core) (if c.pos % 64 = 0 then s.setCore core { c with rot := c.commit.getD c.rot, commit := none } else s)) ∧
    (∀ n t p, s.getTh (agentOf n) = some t → t.park = some p →
      ((nextTrap t).isSome ∨ parkMet s (agentOf n) t p = true → ∃ b u, Does s (.parkWake n) b ∧ b.getTh (agentOf n) = some u ∧
        u.park = none ∧ u.wakePos = (s.core (agentOf n).core).pos + 2 ∧ u.prog = if p = .wfi then .roused else t.prog) ∧
      ((nextTrap t).isNone → parkMet s (agentOf n) t p = false → (∀ x, p ≠ .msend x) → p ≠ .copyQueue → p ≠ .held →
        Does s (.parkWake n) (s.due (.parkWake n))) ∧
      (∀ slot, n = slot → slot < 26214400 → (nextTrap t).isNone → p = .copyQueue → let cl := clusterOf (coreOf slot)
        (freeEngine (s.cluster cl) = none → Does s (.parkWake n) (s.due (.parkWake n))) ∧
        ((∃ k, freeEngine (s.cluster cl) = some k) → (∀ q ∈ copiersAt s cl, s.ownerOf (coreOf q.1) = s.ownerOf (coreOf slot)) →
          (∀ o ∈ presentAt s (6, dieOf (coreOf slot), cl % 200), o = s.ownerOf (coreOf slot)) →
          ∃ b u, Does s (.parkWake n) b ∧ tfind b.threads slot = some u ∧ u.park = none))) ∧
    (∀ die, let now := max s.now (s.die die).sxAt
      let order := (List.range' 1 48).map (fun i => ((s.die die).lastSx + i) % 48)
      ((∀ h ∈ order, sxReady (s.sxThread die h) now = false) → ∃ b, Does s (.sextantCycle die) b ∧ b.now = now ∧ b.selected = s.selected) ∧
      (∀ h, order.find? (fun k => sxReady (s.sxThread die k) now) = some h → nextTrap (s.sxThread die h).th = none →
        ∃ b, Does s (.sextantCycle die) b ∧ b.now = now ∧ b.selected = some (.sextant die h) ∧ (b.die die).lastSx = h ∧ (b.sxThread die h).lastCycle = some now))

/-- An access is performed when it arrives at its on-chip bank: a load without earlier stores in view answers the bytes of
memory, extended as its form says, or the error of a bad word; a store, an AMO and an SC that holds its reservation write
exactly the bytes of their address; an SC without its reservation answers 1 and writes nothing (06 R143, R154, R156, R158,
R164, R165).  Work whose partition number is not its bank's is discarded with memory as it was, an unrecoverable fault of the partition
that it named (18 R441, R448). -/
def Obligations.BankAccesses : Prop :=  ∀ (s : State) (id : Nat) (x : Access), s.MemOk → AtBank s id x → x.size ∈ [1, 2, 4, 8] →
    let e := Event.memoryAccessArrival id
    let raw := s.rd x.addr x.size
    let good := s.poisoned x.addr x.size = false ∧ s.uncorr x.addr x.size = false
    (∀ p, mismatch s x = some p → ∃ b, Does s e b ∧ b.mem = s.mem ∧ b.net = terase s.net id ∧ (b.part p).ufaults = min ((s.part p).ufaults + 1) 0xFFFF ∧
      ((s.part p).st ≠ 4 → (s.part p).st ≠ 3 → (s.part p).resetStep = 0 → (b.part p).resetStep = 1 ∧ (b.part p).resetCause = 3 ∧ Event.partitionReset p ∈ b.agenda)) ∧
    (mismatch s x = none →
    (∀ sg, x.kind = .load sg → visibleStores s id x = [] →
      (good → ∃ b, Does s e b ∧ b.mem = s.mem ∧ Answered b id x (widened sg x.size raw) none) ∧
      (s.uncorr x.addr x.size = true → ∃ b, Does s e b ∧ b.mem = s.mem ∧ Answered b id x 0 (some (accMark .eccUncorr 0 x))) ∧
      (s.uncorr x.addr x.size = false → s.poisoned x.addr x.size = true → ∃ b, Does s e b ∧ b.mem = s.mem ∧ Answered b id x 0 (some (accMark .poison 0 x)))) ∧
    (x.kind = .store → (x.size = 8 ∨ good) → ∃ b, Does s e b ∧ Stored s.mem b.mem x.addr x.data x.size) ∧
    (x.kind = .store → x.size < 8 → ¬ good → ∃ b, Does s e b ∧ b.mem = s.mem ∧ b.poisoned x.addr x.size = true) ∧
    (∀ op, x.kind = .amo op → good → ∃ b, Does s e b ∧ Stored s.mem b.mem x.addr (amoNew op x.size raw x.data) x.size ∧
      Answered b id x (widened (x.size == 4) x.size raw) none) ∧
    (∀ t, x.kind = .sc → s.getTh x.agent = some t → t.tag = x.tag →
      (∀ r, t.resv = some r → r.granule = x.addr / 32 → s.now < r.expires → (x.size = 8 ∨ good) →
        ∃ b, Does s e b ∧ Stored s.mem b.mem x.addr x.data x.size ∧ Answered b id x 0 none) ∧
      (t.resv = none → ∃ b, Does s e b ∧ b.mem = s.mem ∧ Answered b id x 1 none)))

/-- A write at its slice is performed once, and its identifier stands in the slice's replay filter from then on; an
identifier that stands there is not written again, and a full filter, or an older store to its bytes, makes the write wait
(07 R168, 08 R214).  A fill makes the line
ready for every access that waits for it (17 R423), once its owner is alone at the memory controller or has won there and no
row hit of its own goes first (17 R422, R424, R425; 20 R480).  Full/empty accesses whose bit is not as they need it join the word's
list, or are sent back with a full one (06 R151, R152). -/
def Obligations.SliceAccesses : Prop :=  ∀ (s : State) (id : Nat) (x : Access), s.MemOk →
    (AtSlice s id x → x.kind = .store → (x.size = 8 ∨ (s.poisoned x.addr x.size = false ∧ s.uncorr x.addr x.size = false)) →
      ∃ b, Does s (.sliceWrite id) b ∧ Stored s.mem b.mem x.addr x.data x.size ∧ ∃ p ∈ filterOf b (homeDie x.addr) (homeSlice x.addr), p.1 = x.ident id) ∧
    (tfind s.net id = some x → x.done = false → x.sent = false →
      let f := filterOf s (homeDie x.addr) (homeSlice x.addr)
      ((∃ p ∈ f, p.1 = x.ident id) → Does s (.sliceWrite id) s) ∧
      ((∀ p ∈ f, p.1 ≠ x.ident id) → x.isStore = true → storeBehind s id x = true → Does s (.sliceWrite id) (s.due (.sliceWrite id))) ∧
      ((∀ p ∈ f, p.1 ≠ x.ident id) → (x.isStore = true → storeBehind s id x = false) → 64 ≤ f.length →
        Does s (.sliceWrite id) ({ s with net := tset s.net id { x.arrived s.now with atFilter := true } }.due (.sliceWrite id)))) ∧
    (∀ die line owner, let e := Event.dieCacheFill die line owner
      let a := line * 256
      let w := s.net.filter (fun q => fillWaits line owner q.2)
      let need := w.foldl (fun v q => v ||| q.2.sectors) 0
      let held := ∃ l, lineOf s a = some l ∧ need &&& ~~~l.valid = 0
      let behind := ∀ q ∈ w, behind s (controller a) (q.2.waiting q.1) = true
      let won := ∃ q ∈ w, q.2.granted = true
      let rival := rivalAt s owner (controller a)
      (w = [] → Does s e s) ∧
      (held ∨ isHost a = true ∨ won ∨ (¬ behind ∧ rival = false) → ∃ b, Does s e b ∧ b.mem = s.mem ∧
        ∀ k y, tfind b.net k = some y → fillWaits line owner y = false) ∧
      (w ≠ [] → ¬ held → isHost a = false → ¬ won → behind → Does s e (s.due e)) ∧
      (w ≠ [] → ¬ held → isHost a = false → ¬ won → ¬ behind → rival = true →
        Does s e ((s.dueOnce (.arbitrationRound (homeDie a) 1 (packageOf (offOf a)))).due e))) ∧
    (tfind s.net id = some x → x.isFe = true → x.listed = false → x.done = false → blocked s id x = false → targetFenced s x = false →
      pointOf s x = none → mismatch s x = none → (spaceOf x.addr ≠ 0 ∨ lineReady s x = true) →
      let c := if spaceOf x.addr = 0 then dieLookup s x.addr x.owner else s
      let d := feEnter c id x
      (feReady c x = false → (waitList c x.addr).length < 64 → Does s (.feAccessArrival id)
        (setWaitList { d with net := tset d.net id { x with listed := true } } x.addr (waitList d x.addr ++ [id]))) ∧
      (feReady c x = false → 64 ≤ (waitList c x.addr).length → Does s (.feAccessArrival id) (feRefused c id x)) ∧
      (feReady c x = true → Does s (.feAccessArrival id) (serveWord (feEffect d id x) x.addr 65)))

/-- The value of an answer makes its PENDING register PRESENT, with its count, or attaches its mark, and L falls where it
counts there (05 R120, 06 R145, R164).  A posted answer frees its journal entry, or records the refusal there and raises its
trap (08 R198-R200).  A reservation, a merge-buffer line and a full/empty backoff end at their cycle (06 R149, R152, R156).
A packet leaves its core once it is through the points of its way, refused where its port's partition is fenced (17 R424; 18
R452); unanswered, it is sent again with the same header and beats, and given up after three replays (08 R214, 16 R401). -/
def Obligations.AnswersArrive : Prop :=  ∀ s : State,
    (∀ id dst v m countsL acq fl t, tfind s.reqs id = some (.value dst v m countsL acq fl) → dst.push = none → dst.reg ≠ 0 → s.getTh dst.agent = some t → t.tag = dst.tag →
      (t.ent dst.reg).st = .pending → (t.ent dst.reg).req = id →
      ∃ b u, Does s (.registerValueArrival id) b ∧ b.getTh dst.agent = some u ∧ b.mem = s.mem ∧ u.fstat = t.fstat ||| fl.setWidth 64 ∧ u.pc = t.pc ∧
        u.ent dst.reg = (match m with | none => { val := v, st := .present, cnt := dst.cnt } | some k => { t.ent dst.reg with mark := some k }) ∧
        (∀ r, r ≠ dst.reg → u.ent r = t.ent r) ∧ u.cnt = { t.cnt with l := if countsL then t.cnt.l - 1 else t.cnt.l }) ∧
    (∀ core k j, tfind (s.core core).journal k = some j → j.reason = 0 → j.typ = 0 → tfind s.net j.id = none →
      Does s (.postedAnswerArrival core k 0) (s.modCore core (fun c => { c with journal := terase c.journal k })) ∧
      (∀ r t, 0 < r → r < 16 → tfind s.threads (core * 64 + j.slot) = some t → t.tag = j.tag → ∃ b u, Does s (.postedAnswerArrival core k r) b ∧
        tfind (b.core core).journal k = some { j with reason := r } ∧ tfind b.threads (core * 64 + j.slot) = some u ∧ u.traps = t.traps ++ [refusalTrap core k r j])) ∧
    (∀ n t r, s.getTh (agentOf n) = some t → t.resv = some r → Does s (.reservationExpiry n)
      (if r.expires ≤ s.now then s.setTh (agentOf n) { t with resv := none } else s.due (.reservationExpiry n))) ∧
    (∀ c l, (∀ q ∈ (s.cluster c).merge, q.1 = l → q.2 ≤ s.now) → ∃ b, Does s (.mergeBufferExpiry c l) b ∧
      (b.cluster c).merge = (s.cluster c).merge.filter (fun q => q.1 != l)) ∧
    (∀ n t c, s.getTh (agentOf n) = some t → t.park = some (.feRetry c) → Does s (.feListRetry n) (if c ≤ s.now then s.wake (agentOf n) else s.due (.feListRetry n))) ∧
    (∀ ident, ∃ b, Does s (.replayAck ident) b ∧ ∀ die slice, ∀ p ∈ filterOf b die slice, p.1 ≠ ident) ∧
    (∀ die slice unit addr cls owner ident, Does s (.bankWatchEvent die slice unit addr cls owner ident)
      (s.due (.eventRecord die (BitVec.ofNat 64 (2 * 2 ^ 56 + slice)) 0 (BitVec.ofNat 64 (cls.toNat * 2 ^ 60 + owner.toNat * 2 ^ 48 + unit % 4 * 2 ^ 46 + ident.toNat)) addr))) ∧
    (∀ id core j die port h bs n at_, tfind s.net id = none → tfind s.reqs id = some (.sent core j die port h bs n at_ false) →
      let e := Event.requestReplayTimeout id
      (portFenced s die port h = false → Through s id (packetWay s (clusterOf core) die port h) → ∃ b, Does s e b ∧
        tfind b.reqs id = some (.sent core j die port h bs 0 s.now true) ∧ b.claims = terase s.claims id ∧ e ∈ b.agenda) ∧
      (portFenced s die port h = true → hTyp h ≠ 5 → ∃ b, Does s e b ∧ b.claims = terase s.claims id ∧ b.reqs = s.reqs ∧ Event.postedAnswerArrival core j 3 ∈ b.agenda)) ∧
    (∀ id core j die port h bs n at_, tfind s.net id = none → tfind s.reqs id = some (.sent core j die port h bs n at_ true) →
      let e := Event.requestReplayTimeout id
      let after := if hDmod h = s.modnum die then 16384 else 262144
      (s.now < at_ + after → Does s e (s.due e)) ∧
      (at_ + after ≤ s.now → n < 3 → Does s e ((({ s with reqs := tset s.reqs id (.sent core j die port h bs (n + 1) s.now true) }).route die port h bs).due e)) ∧
      (at_ + after ≤ s.now → 3 ≤ n → Does s e (s.due (if hTyp h = 5 then .answer die h [BitVec.ofNat 128 (statusByte (-5) * 2 ^ 48 + bIdent bs)] else .postedAnswerArrival core j 7))))

/-- A number of any format rounds to itself without a flag, under every mode (04 R79-R81, R87, R89); sums and products of
finite values are exact before their one rounding, and an exact zero sum of nonzero values takes the sign of the mode
(04 R88). -/
def Obligations.Numbers : Prop :=  (∀ (c code : Nat) (rm : Rm), c ≤ 9 → code < 2 ^ fmtBits c → (fmtValue c code).isNan = false → roundTo c rm (fmtValue c code) = (code, 0)) ∧
  (∀ (rdn na nb : Bool) (ma mb : Nat) (ea eb e0 : Int), e0 ≤ ea → e0 ≤ eb → ∃ n m e,
    vAdd rdn (.fin na ma ea) (.fin nb mb eb) = (.fin n m e, 0) ∧ (m = 0 ∨ e0 ≤ e) ∧
    amount n m e e0 = amount na ma ea e0 + amount nb mb eb e0 ∧ (m = 0 → ma ≠ 0 → n = rdn)) ∧
  (∀ (na nb : Bool) (ma mb : Nat) (ea eb fa fb : Int), fa ≤ ea → fb ≤ eb → ∃ n m e,
    vMul (.fin na ma ea) (.fin nb mb eb) = (.fin n m e, 0) ∧ fa + fb ≤ e ∧ amount n m e (fa + fb) = amount na ma ea fa * amount nb mb eb fb)

/-- A probe's echo clears its bit of the fence that waits for it, once the point has performed what went before (07 R186).
barinit writes its block where no member has arrived and is refused otherwise (07 R194).  An arrival counts one member more,
and the last one clears the count, moves the generation on and wakes the members parked on the block (07 R195, R196). -/
def Obligations.OrderingEvents : Prop :=  ∀ s : State, s.MemOk →
    (∀ n bit t sc last since bs, s.getTh (agentOf n) = some t → t.prog = .probes sc last since bs → bit ∈ bs → (agentOf n).num = n →
      (echoReady s (agentOf n) t sc last bit = false → Does s (.fenceEchoArrival n bit) (s.due (.fenceEchoArrival n bit))) ∧
      (echoReady s (agentOf n) t sc last bit = true → ∃ b u, Does s (.fenceEchoArrival n bit) b ∧ b.getTh (agentOf n) = some u ∧
        u.prog = .probes sc last since (bs.filter (fun k => k != bit)) ∧ u.regs = t.regs ∧ b.mem = s.mem)) ∧
    (∀ id slot ea addr n sc t, tfind s.reqs id = some (.barinit slot t.tag ea addr n sc) → tfind s.threads slot = some t → t.prog = .asked id →
      blockBusy s id t.tag addr = false →
      let v := s.rd addr 16
      (bitAt v 35 = true → bits v 88 64 ≠ 0 → ∃ b u, Does s (.barinitAtBank id) b ∧ b.mem = s.mem ∧ tfind b.threads slot = some u ∧
        u.prog = .refused { cause := .segRights, tval := ea, tinfo := info142 7 9 false (bits ea.toNat 63 61) } ∧ u.cnt.s = t.cnt.s - 1) ∧
      ((bitAt v 35 = false ∨ bits v 88 64 = 0) → ∃ b u, Does s (.barinitAtBank id) b ∧ tfind b.threads slot = some u ∧
        Stored s.mem b.mem addr (n + sc * 2 ^ 32 + 2 ^ 35 + (if bitAt v 35 then bits v 127 96 else 0) * 2 ^ 96) 16 ∧
        u.prog = .served 0 none ∧ u.cnt.s = t.cnt.s - 1)) ∧
    (∀ id slot ea addr sc t, tfind s.reqs id = some (.bar slot t.tag ea addr sc) → tfind s.threads slot = some t → t.prog = .asked id →
      blockBusy s id t.tag addr = false →
      let v := s.rd addr 16
      let n := (bits v 88 64 + 1) % 2 ^ 25
      ∃ b u w, Does s (.barrierArrival id) b ∧ tfind b.threads slot = some u ∧ Stored s.mem b.mem addr w 16 ∧
        bits w 63 0 = bits v 63 0 ∧
        (if bits v 24 0 ≤ n then bits w 88 64 = 0 ∧ bits w 127 96 = (bits v 127 96 + 1) % 2 ^ 32 ∧ u.prog = .served 1 none
         else bits w 88 64 = n ∧ bits w 127 96 = bits v 127 96 ∧ u.prog = .none ∧ u.park = some (.barrier addr (bits v 127 96)) ∧
           u.bar = some { ptr := ea, gen := BitVec.ofNat 32 (bits v 127 96), scope := sc })) ∧
    (∀ core addr, ∃ b, Does s (.barrierReleaseDelivery core addr) b ∧ b.mem = s.mem ∧
      ∀ k t g, tfind s.threads k = some t → coreOf k = core → t.park = some (.barrier addr g) → bits (s.rd addr 16) 127 96 ≠ g →
        ∃ u, tfind b.threads k = some u ∧ u.park = none)

/-- A lock whose holder has given it up is free once that thread's accesses to the bank are performed, and a free lock goes
to its first waiter once no access of another is left on the bank (14 R356, R358); held for LIMIT cycles it is taken away and
LOCK_TIMEOUT raised in its holder (14 R359).  Words pushed enter the receiving queue in order, those after a late one wait,
and a pop's room comes back (11 R293).
One strip of the head tile operation, with nothing before it and no bad word among what it reads, writes the strip's
elements and scale bytes at their places, and nothing else of memory, joins its flags to its thread and moves the operation
on; a bad word stops it with nothing written (10 R247, R248, R255; 04 R84, R93; the values
of the elements are stated by TileElements).  That a strip reads its sources at one moment is the model's choice among those
of 10 R256.  An octet's entry moves on by one, and without queued work writes nothing (12 R308); a written table takes effect at
entry 0 (12 R323).  A reissue of the sequencer enters its operation, with the generators and
numbers that its word captured, with room, waits without, and with a failed check, a tile name beyond the limit or an item with
an error (03 R75, 18 R446) raises
its trap and ends the block (12 R321, R322). -/
def Obligations.LocksPortsAndTileEvents : Prop :=
  (∀ (s : State) (core n : Nat), let l := s.lock core n; let e := Event.bankLockGrant core n
      (∀ h k, l.holder = some h → l.releasing = some k →
        Does s e (if bankPending s core n k (fun m => m == h) then s.due e
          else (s.setLock core n { l with holder := none, releasing := none }).dueOnce e)) ∧
      (∀ h, l.holder = some h → l.releasing = none → Does s e s) ∧
      (∀ slot k r, l.holder = none → l.waiters = (slot, k) :: r →
        (grantable s core n slot k = false → Does s e (s.due e)) ∧
        (grantable s core n slot k = true → ∃ b, Does s e b ∧ (b.lock core n).holder = some slot ∧ (b.lock core n).since = s.now ∧
          (∀ w ∈ (b.lock core n).waiters, w.1 ≠ slot) ∧ Event.lockTimeout core n ∈ b.agenda)) ∧
      (∀ h t, l.holder = some h → tfind s.threads h = some t →
        let lim := max 64 (s.core core).locklim.toNat
        (s.now < l.since + lim → Does s (.lockTimeout core n) (s.due (.lockTimeout core n))) ∧
        (l.since + lim ≤ s.now → ∃ b u, Does s (.lockTimeout core n) b ∧ (b.lock core n).holder = none ∧ tfind b.threads h = some u ∧
          u.traps = t.traps ++ [{ mark := { cause := .lockTimeout, tval := BitVec.ofNat 64 n, tinfo := BitVec.ofNat 64 lim }, seq := 0, isLock := true, journal := none }])) ∧
      (let q := (s.core core).queue n
       let w := (q.coming.takeWhile (fun p => p.2.isSome)).filterMap Prod.snd
       (∃ b, Does s (.portWordArrival core n) b ∧
         (b.core core).queue n = { q with words := q.words ++ w, coming := q.coming.drop w.length, tail := (q.tail + w.length) % 16 }) ∧
       (∃ b, Does s (.portRoomReturn core n) b ∧ (b.core core).queue n = { q with unseen := 0 }))) ∧
  (∀ s : State, s.MemOk →
      (∀ core op rest w, (s.core core).tileQ = op :: rest → tileWord op.ins = some w →
        let foot := op.foot w
        let reads := stripReads op w op.next
        let out := stripOut op w s core op.next
        let touched := reads.map (fun p => (p.1, p.2.1)) ++ out.rows.map (fun r => (dBase r.1.d + r.2.1 * dPitch r.1.d, r.1.rowBytes)) ++ out.scales.map (fun r => (r.1, 1))
        let free := scalarAhead s core op foot = false ∧ matrixAhead s core op foot = false ∧ bankHeld s core op.slot touched = false
        (free → firstFault s core reads = none → ∃ b, Does s (.tileStrip core) b ∧
          (∀ a, ¬ stripBytes core out a → memRead b.mem a = memRead s.mem a) ∧ (Once core out → Holds s b core out) ∧
          (∀ t, tfind s.threads op.slot = some t → t.tag = op.tag → ∃ u, tfind b.threads op.slot = some u ∧ u.fstat = t.fstat ||| out.flags.setWidth 64) ∧
          (op.next + 1 < tileStrips op → (b.core core).tileQ = (op :: rest).map (fun o => if o.id = op.id then { o with next := op.next + 1 } else o))) ∧
        (free → (firstFault s core reads).isSome → ∃ b, Does s (.tileStrip core) b ∧ b.mem = s.mem) ∧
        (¬ free → Does s (.tileStrip core) (s.due (.tileStrip core)))) ∧
      (∀ octet, ∃ b, Does s (.vernierEntry octet) b ∧ (b.octet octet).entry = ((s.octet octet).entry + 1) % 64 ∧
        ((∀ p < 8, (s.core (octet * 8 + p)).matQ = []) → b.mem = s.mem)) ∧
      (∀ octet tab, let o := s.octet octet
        o.pendingWrite = some tab →
        (o.entry = 0 → ∃ b, Does s (.vernierTableSwitch octet) b ∧ b.octet octet = { o with vernier := tab, pendingWrite := none, entry := 0 }) ∧
        (o.entry ≠ 0 → octetBusy s octet = true → Does s (.vernierTableSwitch octet) (s.due (.vernierTableSwitch octet)))) ∧
      (∀ slot t w, tfind s.threads slot = some t → t.seqr.reissuing = true → t.held = [] → t.seqr.words[t.seqr.idx]? = some w →
        let g : Stag := { q := t.seqr.q, w := t.seqr.stagger.toNat }
        let i := stagInstr g w.ins
        let e := Event.rptReissue slot
        s.parkedByReset (coreOf slot) = false →
        let names := ∀ p ∈ (reissueFields i).tiles, p.2.toNat < t.tlim
        let sound := ∀ n ∈ (reissueFields i).items, t.ecc.contains n = false
        let u := { t with gens := w.gens, num := w.num }
        let stops := fun (c : Cause) => ∃ b u, Does s e b ∧ tfind b.threads slot = some u ∧ u.seqr = {} ∧ (∃ x, u.traps = t.traps ++ [x] ∧ x.mark.cause = c) ∧ b.mem = s.mem
        (¬ names → stops .tileName) ∧ (names → ¬ sound → stops .eccUncorr) ∧
        (names → sound → fld i.word 0 7 ≠ 0x5B →
        (∀ op, queueOp s slot u g i w.pc w.xa w.xb = .ok op →
          let room := t.cnt.t < 63 ∧ queueRoom (s.core (coreOf slot)) op.mat = true
          (room → Does s e (((withOp s (.thread slot) op).modSlot slot advanceSeq).due e)) ∧ (¬ room → Does s e (s.due e))) ∧
        (∀ c r o, queueOp s slot u g i w.pc w.xa w.xb = .error (c, r, o) → stops c))))

/-- A transfer that its engine does not work on, or that waits, does nothing yet; one whose cells are all written ends, with
OK (1), POISONED (2) at the first marked element, or its plan's code; a unit written within the module, once past the contended
points of its way, writes the encodings of its cells at their bytes, a nibble beside the other one, and nothing else (08 R206;
11 R278, R282, R288; 17 R424).  A transfer whose number is not its die's partition is discarded (18 R441, R448).  A completion writes the
final status into the ring, joins the flags and takes one from C (11 R278; 04 R93).  A stream pushes its words in order while the queue has room (11 R295).  A contribution is
refused with SUB 1 to 7, or staged with ARRIVED one more, and the last one makes the delivery due (11 R300); the delivery
writes the tree sum of every element and clears ARRIVED (11 R301).  The order of the refusals, a bad BUF before SUB 3, and DST
and BUF aligned to 1 byte are the model's choices (log 53). -/
def Obligations.TransferEvents : Prop :=  ∀ (s : State) (id : Nat) (t : Transfer), s.MemOk → tfind s.transfers id = some t →
    (t.ended = none → misnumbered s t = none → (running s id t = false ∨ t.wait.isSome = true ∨ faultWaits s id t = true) → Does s (.copyUnitWrite id) (s.due (t.event id))) ∧
    (∀ p, t.ended = none → misnumbered s t = some p → ∃ b, Does s (.copyUnitWrite id) b ∧ b.mem = s.mem ∧ b.transfers = terase s.transfers id ∧
      (b.part p).ufaults = min ((s.part p).ufaults + 1) 0xFFFF) ∧
    (Works s id t → ∀ p, t.plan s = .ok p →
      (p.cells.drop t.unit = [] → ∃ b, Does s (.copyUnitWrite id) b ∧ b.mem = s.mem ∧ (if p.code ≠ 1 then Ended b id p.code 0 p.row p.col else match t.first with | some (i, j) => Ended b id 2 0 i j | none => Ended b id 1 0 0 0)) ∧
      (∀ c rest ready, p.cells.drop t.unit = c :: rest →
        let u := unitSize t.target.kind
        let unit := (c :: rest).takeWhile (fun x => x.at_ / u == c.at_ / u)
        let low := lowCell unit
        let place := placeOfKind t.target.core t.target.kind low
        let bytes := cellBytes (fun k => s.rd (place + (k - low)) 1) ready
        evalCells unit = (ready, none) → t.target.kind ≠ 3 → t.target.kind ≠ 5 → t.deny = 0 → spaceOf place ≠ 7 →
        engineBlocked s id t place u = false → Through s id (engineWay s t true place (cellSpan ready)) →
        ∃ b tr, Does s (.copyUnitWrite id) b ∧ tfind b.transfers id = some tr ∧ tr.unit = t.unit + unit.length ∧ tr.ended = none ∧
          t.event id ∈ b.agenda ∧
          (∀ y ∈ bytes, memRead b.mem (place + (y.1 - low)) = BitVec.ofNat 8 y.2) ∧
          ∀ x, (∀ y ∈ bytes, place + (y.1 - low) ≠ x) → memRead b.mem x = memRead s.mem x)) ∧
    (∀ code sub row col th, t.ended = some (code, sub, row, col) → t.wait = none → tfind s.threads t.slot = some th → th.tag = t.tag →
      ∃ b u, Does s (.copyCompletion id) b ∧ tfind b.threads t.slot = some u ∧ u.cnt = { th.cnt with c := th.cnt.c - 1 } ∧
        u.fstat = th.fstat ||| t.flags.setWidth 64 ∧ u.regs = th.regs ∧ u.pc = th.pc ∧
        u.ringEnt t.seq.toNat = statusBits t.seq.toNat code sub row col t.bytes ∧
        ((∀ d a, t.ins ≠ .czip d a ∧ t.ins ≠ .cunzip d a) → b.mem = s.mem)) ∧
    (Works s id t →
      let a := t.at_ + t.unit * streamStride t.xs
      let q := (s.core t.core).queue 4
      (8 ≤ q.used → Does s (.sbindStreamPush id) (s.due (.sbindStreamPush id))) ∧
      (∀ v bad, q.used < 8 → tfind t.seen a = some (v, bad) → ∃ b, Does s (.sbindStreamPush id) b ∧ b.mem = s.mem ∧
        ((b.core t.core).queue 4).words = q.words ++ [{ val := v, mark := if bad then some (streamMark (t.err.getD .poison)) else none, slot := t.slot }] ∧
        (t.unit + 1 < streamCount t.xs → Event.sbindStreamPush id ∈ b.agenda ∧ ∃ tr, tfind b.transfers id = some tr ∧ tr.unit = t.unit + 1 ∧ tr.ended = none) ∧
        (streamCount t.xs ≤ t.unit + 1 → Ended b id (if bad = true ∨ t.first.isSome then 2 else 1) 0 0 0))) ∧
    (let blk := placeOfKind t.core t.kind t.at_
     let r := redBlk s blk
     let o := mkOpnd 0 t.desc t.code.toNat false false
     let no := fun k => ∃ b, Does s (.redContributionArrival id) b ∧ b.mem = s.mem ∧ Ended b id 9 k 0 0
     t.ended = none → t.unit = 0 → misnumbered s t = none → running s id t = true → o.foot.any (fun x => engineBlocked s id t (aLocal t.core x.1) x.2) = false →
     Through s id (plain (crossed (clusterOf t.core) (diePlace (redDie blk)))) →
       (r.ok = false → no 1) ∧ (r.ok = true → r.n ≤ t.xs.toNat → no 2) ∧
       (∀ k buf d, r.ok = true → t.xs.toNat < r.n → redTarget s t r.buf (r.area + r.map) true [2] = some (k, buf) → redTarget s t r.dst r.out false [1, 2, 3] = d →
         let seen := bitAt (s.rd (buf + r.area + t.xs.toNat / 8) 1) (t.xs.toNat % 8)
         (seen = true → no 3) ∧
         (seen = false → dRows t.desc ≠ r.rows ∨ dCols t.desc ≠ r.cols → no 4) ∧
         (seen = false → dRows t.desc = r.rows → dCols t.desc = r.cols → r.int = true → fmtInt t.code.toNat = false → no 5) ∧
         (seen = false → dRows t.desc = r.rows → dCols t.desc = r.cols → (r.int = true → fmtInt t.code.toNat = true) → d = none → no 6) ∧
         (∀ w x, seen = false → dRows t.desc = r.rows → dCols t.desc = r.cols → (r.int = true → fmtInt t.code.toNat = true) → d = some w →
           tfind (s.die (redDie blk)).red blk = some x → x.dst ≠ w ∨ x.buf ≠ buf → no 7) ∧
         (∀ w, seen = false → dRows t.desc = r.rows → dCols t.desc = r.cols → (r.int = true → fmtInt t.code.toNat = true) → d = some w →
           (∀ x, tfind (s.die (redDie blk)).red blk = some x → x.dst = w ∧ x.buf = buf) → r.arrived + 1 < 2 ^ 25 →
           ∃ b, Does s (.redContributionArrival id) b ∧ (redBlk b blk).arrived = r.arrived + 1 ∧
             (r.arrived + 1 = r.n → Event.reductionDelivery (redDie blk) blk ∈ b.agenda) ∧
             (r.arrived + 1 ≠ r.n → ∃ code i j, (code = 1 ∨ code = 2) ∧ Ended b id code 0 i j)))) ∧
    (∀ die blk r, tfind (s.die die).red blk = some r → r.last = some id → faultWaits s id t = false → t.ended = none → r.dst.1 ≠ 3 →
      let c := redBlk s blk
      (∀ x, r.dst.2 ≤ x → x < r.dst.2 + c.out → (x < blk ∨ blk + 32 ≤ x) ∧ (x < r.buf ∨ r.buf + c.area + c.map ≤ x)) →
      (c.rows ≤ 1 ∨ 4 * c.cols ≤ c.dpitch) →
      filtersTake s (roundLines c (fun o => (r.dst.2 + o, false))) = true →
      Through s id ((roundLines c (fun o => (r.dst.2 + o, false))).flatMap (fun a => unitWrite s (unitPlace die) a 4)) →
      ∃ b, Does s (.reductionDelivery die blk) b ∧ (redBlk b blk).arrived = 0 ∧
        (∀ i j, i < c.rows → j < c.cols → b.rd (r.dst.2 + (i * c.dpitch + 4 * j)) 4 = (redSum s c r.buf i j).1 % 2 ^ 32) ∧
        ∃ code x y, (code = 1 ∨ code = 2) ∧ Ended b id code 0 x y)

/-- A walk starts at its owner's root once no other walk holds its walker and no other owner's walk goes first; it goes level by
level, whatever the walk cache holds: from the cache's entry, or from the one in memory once the read has passed the points on
its way; and the entry decides: a fault is FAULTED and recorded in the lowest free buffer entry with a notice, or dropped; a
malformed entry is denied; a leaf goes to the TLBs of its waiters and frees the entry; a pointer leads on (09 R220, R223-R229).
The pager serves a notice: the host is sent the vector, or every recorded fault gets MAPPED or DENY in order and then REPLAY_ALL,
MAPPED for a page mapped already, or with the leaf of owner 0's choice entered in its table, DENY where there is none (09 R231).
MAPPED and DENY give the entry its state and free the buffer entry; REPLAY_ALL keeps only entries that are still walked, and a
waiter of a denied page's entry finds the denial, which no other thread does (09 R232, R233).  INVAL removes the translations
of its range and is busy until the accesses through them are performed (09 R235).  A migration is refused with its code, or
starts with its page and frames as they then stand, takes an engine's queue, and at last copies the frame, rewrites the leaf and
drops the translations (09 R238).  That a waiter finds a denial through the replay, and which engine a migration takes, is the
model's choice (log 49). -/
def Obligations.TranslationEvents : Prop :=  ∀ (s : State) (die : Nat), s.MemOk →
    let x := (s.die die).xlat
    (∀ e p lvl table, tfind x.pend e = some p → p.st = .walking → p.vpn < 2 ^ 36 →
      (p.at_ = some (lvl, table) ∨
        p.at_ = none ∧ walkerBusy s die e = false ∧ (p.granted = true ∨ walkRivals s die e p = []) ∧ lvl = 1 ∧ table = (s.ownerEnt die p.owner).troot) →
      let p := { p with at_ := some (lvl, table) }
      let va := p.vpn * 65536
      let pa := table + 8 * vaIndex va lvl
      let way := unitRead s (unitPlace die) (aDev pa) 8
      let hit := walkHit s die p.owner va lvl pa
      (table = 0 → lvl = 1 → ∃ b, Does s (.pageWalk die e) b ∧ b.mem = s.mem ∧ LevelRead s b die e 1 0 p) ∧
      (¬ (table = 0 ∧ lvl = 1) →
        (∀ w, hit = some w → ∃ b, Does s (.pageWalk die e) b ∧ b.mem = s.mem ∧ LevelRead s b die e lvl w.ent.toNat p) ∧
        (hit = none → Through s (walkWho die e) way → ∃ b, Does s (.pageWalk die e) b ∧ b.mem = s.mem ∧ LevelRead s b die e lvl (s.rd (aDev pa) 8) p) ∧
        (hit = none → tfind s.claims (walkWho die e) = none → way ≠ [] → ∃ b, Does s (.pageWalk die e) b ∧ b.mem = s.mem ∧
          tfind (b.die die).xlat.pend e = some p ∧ Event.pageWalk die e ∈ b.agenda ∧ ∃ c, tfind b.claims (walkWho die e) = some c ∧ c.path = way ∧ c.owner = p.owner))) ∧
    (∀ e p, tfind x.pend e = some p → p.st = .walking → p.at_ = none → walkerBusy s die e = true → Does s (.pageWalk die e) (s.due (.pageWalk die e))) ∧
    (x.noticePending = true → ∃ b, Does s (.pagerNotice die) b ∧ (b.die die).xlat.noticePending = false ∧
      (hostPager s die = true → b.outbox = s.outbox ++ [.msix (fnOf s (s.partOf die)) (bits x.pgcfg.toNat 26 16)] ∧ b.mem = s.mem) ∧
      (hostPager s die = false → (b.die die).xlat.droppedBit = false ∧ ∃ l : List Event, (b.die die).xlat.cmdQ = x.cmdQ ++ l ++ [.fbcmdReplayAll die] ∧ l.length = (recorded s die).length ∧
        (∀ (k n : Nat) (p : PendEnt), (recorded s die)[k]? = some (n, p) → l[k]? = some (.fbcmdDeny die n) ∨ l[k]? = some (.fbcmdMapped die n) ∧ (s.ownerEnt die p.owner).troot ≠ 0) ∧
        (∀ n p, recorded s die = [(n, p)] →
          (mapped s die p.owner p.vpn = true → l = [.fbcmdMapped die n] ∧ b.mem = s.mem) ∧
          (mapped s die p.owner p.vpn = false → Config.pagerLeaf die p.owner p.vpn = none → l = [.fbcmdDeny die n] ∧ b.mem = s.mem) ∧
          (∀ leaf at_ t, mapped s die p.owner p.vpn = false → pagerChoice s die p.owner p.vpn = some leaf → pagerTables s die p.owner p.vpn = some (at_, t) →
            l = [.fbcmdMapped die n] ∧ b.rd (aDev at_) 8 = leaf % 2 ^ 64)))) ∧
    (∀ n e p, tfind x.fbent n = some e → tfind x.pend e = some p →
      (∃ b, Does s (.fbcmdMapped die n) b ∧ tfind (b.die die).xlat.pend e = some { p with st := .resolved } ∧ (b.die die).xlat.fbent = terase x.fbent n) ∧
      (∃ b, Does s (.fbcmdDeny die n) b ∧ tfind (b.die die).xlat.pend e = some { p with st := .denied 9 } ∧ (b.die die).xlat.fbent = terase x.fbent n)) ∧
    (∀ n, tfind x.fbent n = none → (∃ b, Does s (.fbcmdMapped die n) b ∧ (b.die die).xlat.cmderr = true ∧ (b.die die).xlat.pend = x.pend) ∧
      (∃ b, Does s (.fbcmdDeny die n) b ∧ (b.die die).xlat.cmderr = true ∧ (b.die die).xlat.pend = x.pend)) ∧
    (∃ b, Does s (.fbcmdReplayAll die) b ∧ (b.die die).xlat.pend = x.pend.filter (fun p => p.2.st == .walking) ∧ (b.die die).xlat.fbent = [] ∧
      (b.die die).xlat.dropped = [] ∧ (b.die die).xlat.replays = (x.replays + 1) % 256 ∧ b.mem = s.mem ∧
      ∀ n t e p, tfind s.threads n = some t → t.park = some (.page die e) → tfind x.pend e = some p → p.st = .denied 9 →
        (p.waiters.any (fun w => w.1 == n) = true → tfind b.threads n = some { t with prog := .denied 9 p.vpn }) ∧
        ((∀ q ∈ x.pend, q.1 = e → q.2.waiters.any (fun w => w.1 == n) = false) → tfind b.threads n = some t)) ∧
    (∀ owner, let first := bits x.invva.toNat 51 16
      let count := bits x.invva.toNat 15 0
      (x.busy = true → ∃ b, Does s (.fbcmdInval die owner) b ∧ (b.die die).xlat.cmderr = true ∧ (b.die die).xlat.tlb2 = x.tlb2) ∧
      (x.busy = false → ∃ b, Does s (.fbcmdInval die owner) b ∧ Dropped s b (s.partOf die) owner first count ∧ (b.die die).xlat.busy = true ∧
        Event.invalComplete die ∈ b.agenda ∧ (b.die die).xlat.invWaits = accessesOf s (s.partOf die) owner first count)) ∧
    (x.busy = true → bits x.migstat.toNat 3 0 ≠ 1 →
      (x.invWaits.any (stillOut s) = true → Does s (.invalComplete die) (s.due (.invalComplete die))) ∧
      (x.invWaits.any (stillOut s) = false → ∃ b, Does s (.invalComplete die) b ∧ (b.die die).xlat.busy = false ∧ b.mem = s.mem)) ∧
    (x.busy = true → ∃ b, Does s (.fbcmdMigrate die) b ∧ (b.die die).xlat.cmderr = true ∧ (b.die die).xlat.migstat = x.migstat) ∧
    (x.busy = false → ∃ b, Does s (.fbcmdMigrate die) b ∧
      (migRefusal s die = 0 → (b.die die).xlat.migstat = 1 ∧ (b.die die).xlat.busy = true ∧ Event.migrationComplete die ∈ b.agenda ∧
        ∃ m, (b.die die).xlat.mig = some m ∧ (m.owner, m.vpn, m.new) = migPage x ∧ m.engine = none ∧
          ∀ pa leaf, smallLeaf s die m.owner m.vpn = some (pa, leaf) → m.old = leafPa false leaf 0) ∧
      (migRefusal s die ≠ 0 → (b.die die).xlat.migstat = BitVec.ofNat 64 (migRefusal s die) ∧ (b.die die).xlat.busy = false)) ∧
    (∀ m, x.mig = some m →
      let e := Event.migrationComplete die
      (m.engine = none → migEngine s die = none → Does s e (s.due e)) ∧
      (∀ c g, m.engine = none → migEngine s die = some (c, g) → ∃ b, Does s e b ∧ b.mem = s.mem ∧ e ∈ b.agenda ∧
        (b.die die).xlat.mig = some { m with engine := some (c, g, s.nextId) } ∧ (b.cluster c).queue g = (s.cluster c).queue g ++ [s.nextId]) ∧
      (∀ c g k, m.engine = some (c, g, k) →
        let busy := fun (p : Nat × Access) => !p.2.done && !p.2.listed && spaceOf p.2.addr == 0 && p.2.addr / 65536 == m.old / 65536
        (s.active c g k = false ∨ s.net.any busy = true ∨ filtersTake s (migWrites s die m) = false → Does s e (s.due e)) ∧
        (∀ pa leaf, s.active c g k = true → s.net.any busy = false → filtersTake s (migWrites s die m) = true → Through s k (migPoints s c m) →
          smallLeaf s die m.owner m.vpn = some (pa, leaf) → bitAt leaf 5 = false → m.old % 65536 = 0 → m.new % 65536 = 0 → m.new < 2 ^ 52 →
          ∃ b, Does s e b ∧ (b.die die).xlat.migstat = 0 ∧ (b.die die).xlat.busy = false ∧ (b.die die).xlat.mig = none ∧
            Dropped s b (s.partOf die) m.owner m.vpn 1 ∧ b.rd (aDev pa) 8 = leaf - bits leaf 51 16 * 2 ^ 16 + m.new ∧
            ∀ k < 65536, (m.new + k < aDev pa ∨ aDev pa + 8 ≤ m.new + k) → memRead b.mem (m.new + k) = memRead s.mem (m.old + k))))

/-- A spawn or gspawn at its target core answers −4 for a malformed word, −3 for a core it may not use, −1 without empty slots,
−2 without descriptor blocks, with nothing created; else the lowest open slots get their threads and the answer is the first
slot (05 R125, R133; 15 R390); within a cycle a core serves launch placements first and then spawns by their spawners'
coordinates (05 R134).  A launch waits for room, and is then placed core by core with its threads numbered (15 R370, R374); it ages by one level for each 64 µs (15 R378); when its last thread has ended its
messages are gone, DONE is decremented and its packet completes (15 R371, R383). -/
def Obligations.CreationEvents : Prop :=  ∀ (s : State) (id : Nat),
    (∀ dst from_ target ew args segs num launch, tfind s.reqs id = some (.spawn dst from_ target ew args segs num launch) →
      let e := ew.toNat
      let bad := bits e 63 22 ≠ 0 ∨ bitAt e 20 = true ∨ bits e 19 18 = 3 ∨ bits e 1 0 ≠ 0
      let own := clusterOf (coreOf from_)
      let core := if bits target 28 24 = own / 200 ∧ bits target 23 16 = own % 200 then some (own * 64 + bits target 13 8) else none
      let mine := fun c => targetOk s c (s.ownerOf (coreOf from_)) = true
      let turn := fun c => makeTurn s c (1 + coordOf from_) = true
      let no := fun (v : Int) => ∃ b, Does s (.spawnArrival id) b ∧ b.threads = s.threads ∧ Told b id dst (BitVec.ofInt 64 v)
      ((∃ c, core = some c ∧ ¬ turn c) → Does s (.spawnArrival id) (s.due (.spawnArrival id))) ∧
      ((∀ c, core = some c → turn c) →
      (bad → no (-4)) ∧ (¬ bad → (∀ c, core = some c → ¬ mine c) → no (-3)) ∧
      (∀ c, ¬ bad → core = some c → mine c → openSlots s c (bitAt e 21) = [] → no (-1)) ∧
      (∀ c k l, ¬ bad → core = some c → mine c → openSlots s c (bitAt e 21) = k :: l →
        (lowBlock (heldBlocks s c) (4 * 2 ^ bits e 19 18) = none → no (-2)) ∧
        (∀ tb, lowBlock (heldBlocks s c) (4 * 2 ^ bits e 19 18) = some tb → ∃ b, Does s (.spawnArrival id) b ∧ Told b id dst (BitVec.ofNat 64 k) ∧
          Born b c k tb { pc := BitVec.ofNat 64 (bits e 15 0), win := 8 * (bits e 17 16 + 1), tlim := 4 * 2 ^ bits e 19 18, elastic := bitAt e 21, regs := (args.zipIdx).map (fun p => (10 + p.2, p.1)), sgs := segs, num := { lindex := num.lindex, lcount := num.lcount }, launch := launch, group := 0, made := .spawned } ∧
          ∀ n, n ≠ c * 64 + k → tfind b.threads n = tfind s.threads n)))) ∧
    (∀ dst from_ dw segs lcount launch, tfind s.reqs id = some (.gspawn dst from_ dw segs lcount launch) →
      let d := fun (k : Nat) => (dw.getD k 0).toNat
      let g := bits (d 0) 29 24 + 1
      let core := coreOfCoord (d 1)
      let mine := fun c => dieOf c = dieOf (coreOf from_) ∧ targetOk s c (s.ownerOf (coreOf from_)) = true
      let turn := fun c => makeTurn s c (1 + coordOf from_) = true
      let no := fun (v : Int) => ∃ b, Does s (.spawnArrival id) b ∧ b.threads = s.threads ∧ Told b id dst (BitVec.ofInt 64 v)
      ((∃ c, core = some c ∧ ¬ turn c) → Does s (.spawnArrival id) (s.due (.spawnArrival id))) ∧
      ((∀ c, core = some c → turn c) →
      (groupBad dw = true → no (-4)) ∧ (groupBad dw = false → (∀ c, core = some c → ¬ mine c) → no (-3)) ∧
      (∀ c, groupBad dw = false → core = some c → mine c →
        let ks := openSlots s c (bitAt (d 0) 21)
        (ks.length < g → no (-1)) ∧
        (g ≤ ks.length → lowBlocks (4 * 2 ^ bits (d 0) 19 18) g (heldBlocks s c) = none → no (-2)) ∧
        (∀ bs, g ≤ ks.length → lowBlocks (4 * 2 ^ bits (d 0) 19 18) g (heldBlocks s c) = some bs →
          ∃ b, Does s (.spawnArrival id) b ∧ Told b id dst (BitVec.ofNat 64 (ks.headD 0)) ∧
            tfind b.groups s.nextId = some { live := g, done := dw.getD 4 0, owner := s.ownerOf (coreOf from_), die := dieOf c } ∧
            ∀ r k tb, r < g → ks[r]? = some k → bs[r]? = some tb → Born b c k tb (memberBirth dw segs lcount launch s.nextId g r))))) ∧
    (∀ l core, tfind s.launches id = some l → l.waiting = true → l.kind = 0 → l.placed.contains core = false →
      let e := Event.launchPlacement id core
      let r := l.record
      let n := core - r.origin.getD 0
      let take := min r.slots (r.lcount - n * r.slots)
      (take ≠ 0 → heldBack s (l.rank s id) core = true ∨ makeTurn s core 0 = false ∨ roomOn s l core take = none → Does s e (s.due e)) ∧
      (∀ ks bs, take ≠ 0 → heldBack s (l.rank s id) core = false → makeTurn s core 0 = true → roomOn s l core take = some (ks, bs) →
        ∃ b, Does s e b ∧
          tfind b.launches id = some { l with placed := l.placed ++ [core], live := l.live + take, waiting := decide (l.placed.length + 1 < r.cores) } ∧
          ∀ j k tb, ks[j]? = some k → bs[j]? = some tb → Born b core k tb (r.birth id (n * r.slots + j) j r.slots (n % r.depth)))) ∧
    (∀ l, tfind s.launches id = some l → l.waiting = true →
      let lv := min 3 (l.record.prio + (s.now - l.entered) / 256000)
      ∃ b, Does s (.launchAgeing id) b ∧ tfind b.launches id = some { l with level := lv } ∧ (lv < 3 → Event.launchAgeing id ∈ b.agenda)) ∧
    (∀ l, tfind s.launches id = some l →
      (l.waiting = true ∨ l.live ≠ 0 → Does s (.launchDone id) s) ∧
      (l.waiting = false → l.live = 0 → l.inv = none → ∃ b, Does s (.launchDone id) b ∧ b.launches = terase s.launches id ∧
        (b.die l.home).msgs = (s.die l.home).msgs.filter (fun m => m.launch != id) ∧
        (l.record.done ≠ 0 → tfind b.reqs s.nextId = some (.cntDec none l.record.done none l.home l.record.owner) ∧ Event.counterDecrement s.nextId ∈ b.agenda) ∧
        (∀ p q k, l.packet = some (p, q, k) → Event.packetComplete p k ∈ b.agenda)))

/-- A message enters its store, or is gone where its launch has ended (15 R383, R384, R396); a phase report is recorded at the paired
thread, wherever it runs on its core or in its saved record, and never lowered (15 R386); a bounded wait whose limit has
passed is woken to trap; a parked rwait reads its block again at every write of it and after 256 cycles, up to its limit: its condition
then ends the wait, a bad word wakes it to report it, and otherwise it stays parked with the HEAD and TAIL read (15 R398,
R399). -/
def Obligations.WaitEvents : Prop :=  ∀ s : State,
    (∀ id slot home m, tfind s.reqs id = some (.msg slot home m) → ∃ b, Does s (.messageStoreArrival id) b ∧
        (b.die home).msgs = (if (tfind s.launches m.launch).isSome then (s.die home).msgs ++ [m] else (s.die home).msgs) ∧
        b.reqs = terase s.reqs id ∧ b.mem = s.mem) ∧
    (∀ slot link value launch,
      let e := Event.phaseReportArrival slot link value launch
      let mine := fun (t : Thread) => t.launch == launch && t.made == .launched && t.num.grank.toNat % 64 == slot % 64
      let told := fun (t : Thread) => { t with reported := tset t.reported link (max (tget t.reported link 0) value) }
      let runs := s.threads.find? (fun p => coreOf p.1 == coreOf slot && mine p.2)
      (∀ k t, runs = some (k, t) → tfind s.threads k = some t → Does s e { s with threads := tset s.threads k (told t) }) ∧
      (∀ n f t, runs = none → tfind (s.die (dieOf (coreOf slot))).frames n = some f → coreOf f.slot = coreOf slot → f.saved = some t → mine t = true →
        ∃ b, Does s e b ∧ b.threads = s.threads ∧ tfind (b.die (dieOf (coreOf slot))).frames n = some { f with saved := some (told t) })) ∧
    (∀ slot xp lim c h k t, tfind s.threads slot = some t → t.park = some (.qwait xp lim) → t.prog = .since c h k →
      (s.now ≤ lim → Does s (.qtimeout slot) (s.due (.qtimeout slot))) ∧
      (lim < s.now → ∃ b u, Does s (.qtimeout slot) b ∧ tfind b.threads slot = some u ∧ u.park = none ∧ u.prog = .expired 0 0 ∧ u.pc = t.pc ∧ u.regs = t.regs)) ∧
    (∀ slot place last lim c h k t, tfind s.threads slot = some t → t.park = some (.rwait place last lim) → t.prog = .since c h k →
      (s.now ≤ lim → Does s (.rtimeout slot) (s.due (.rtimeout slot))) ∧
      (lim < s.now → ∃ b u, Does s (.rtimeout slot) b ∧ tfind b.threads slot = some u ∧ u.park = none ∧ u.prog = .expired h k ∧ u.pc = t.pc ∧ u.regs = t.regs) ∧
      (let bad := s.poisoned place 32 = true ∨ s.uncorr place 32 = true
       let v := s.rd place 32
       (lim < s.now → Does s (.rwaitPoll slot) s) ∧
       (s.now ≤ lim → s.now < last + 256 → Does s (.rwaitPoll slot) (s.due (.rwaitPoll slot))) ∧
       (s.now ≤ lim → last + 256 ≤ s.now → ∃ b u, Does s (.rwaitPoll slot) b ∧ tfind b.threads slot = some u ∧ u.pc = t.pc ∧ u.regs = t.regs ∧
         (¬ bad → ringReady v = true → u.park = none ∧ u.prog = .met) ∧
         (bad → u.park = none ∧ u.prog = t.prog) ∧
         (¬ bad → ringReady v = false → u.park = some (.rwait place s.now lim) ∧ u.prog = .since c (ringHead v) (ringTail v) ∧ Event.rwaitPoll slot ∈ b.agenda))) ∧
      (∀ w a v n, a < place + 32 → place < a + n → s.now ≤ lim →
        let b := s.perfWrite w a v n
        let good := ringReady (b.rd place 32) = true ∧ b.poisoned place 32 = false ∧ b.uncorr place 32 = false
        ∃ u, tfind b.threads slot = some u ∧
          (good → u.prog = .met) ∧
          (¬ good → u.park = some (.rwait place s.now lim) ∧ u.prog = .since c (ringHead (b.rd place 32)) (ringTail (b.rd place 32)))))

/-- Operations on a counter that arrive in one cycle act in the order of their requesters' numbers, and those of a partition in
reset wait (15 R381; 18 R450).  A decrement takes one from an ARMED or BOUND counter and makes it READY at 0, where its bound
task enters a ready queue; on a READY counter it is counted only; one for another module without an import is refused with
REASON 1 (the model's choice, log 112); that of a DONE handle of another module passes the points of its way and goes out with
replays, or is counted as refused where no import or port takes it (15 R371; 08 R214); a bind runs its task at once on a READY
counter and keeps it else; a free moves the generation on; an operation on no counter of the partition is refused, with
REASON 3 or 5 where it was posted (15 R381, R382, R394; log 61).  A ctxout answers −1 to −4, or saves the target's thread into
the lowest free frame, its slot empty; a ctxin answers −1 to −5, discards its context, or restores its thread, waiting while L,
S or C of the context is not 0 (14 R365-R367).  The numbers of requesters (log 117), the lowest free frame and the generation
that a freed frame moves on (log 69) are the model's choice. -/
def Obligations.CounterAndContextEvents : Prop :=  ∀ (s : State) (id : Nat),
    let turn := fun (h : Word) (req : Nat) => ∀ c t k, tfind (s.die (hDie h)).counters (hIndex h) = some c → c.last = some (t, k) → t = s.now → k ≤ req
    let served := fun (c : CntEnt) (req : Nat) => { c with last := some (s.now, req) }
    (∀ slot tag h journal die owner, tfind s.reqs id = some (.cntDec (some (slot, tag)) h journal die owner) →
      let e := Event.counterDecrement id
      let entry := fun (b : State) => tfind (b.die (hDie h)).counters (hIndex h)
      let told := fun (b : State) (ok : Bool) => ∀ k, journal = some k → ok = true → Event.postedAnswerArrival (coreOf slot) k 0 ∈ b.agenda
      let own := coreOf slot
      (hModule h ≠ s.modnum die → Does s e ({ s with reqs := terase s.reqs id }.due (.postedAnswerArrival own (journal.getD 0) 1))) ∧
      (hModule h = s.modnum die → ¬ turn h own → Does s e (s.due e)) ∧
      (hModule h = s.modnum die → turn h own →
        (counterOf s h = none ∨ s.partOf (hDie h) ≠ s.partOf die → (journal = none → Does s e (answerProg { s with reqs := terase s.reqs id } (.thread slot) tag id (.served 0 (some (freedMark s slot h))))) ∧
          ∀ k, journal = some k → ∃ r, (r = 3 ∨ r = 5) ∧ Does s e ({ s with reqs := terase s.reqs id }.due (.postedAnswerArrival (coreOf slot) k r))) ∧
        (∀ c, counterOf s h = some c → s.partOf (hDie h) = s.partOf die → s.fenced (s.partOf die) = true → Does s e (s.due e)) ∧
        (∀ c, counterOf s h = some c → s.partOf (hDie h) = s.partOf die → s.fenced (s.partOf die) = false →
          (c.st = .armed → ∃ b, Does s e b ∧ entry b = some (served { c with val := c.val - 1, st := if c.val.toNat ≤ 1 then .ready else .armed } own) ∧ told b true) ∧
          (c.st = .bound → 1 < c.val.toNat → ∃ b, Does s e b ∧ entry b = some (served { c with val := c.val - 1 } own) ∧ told b true ∧ b.launches = s.launches) ∧
          (c.st = .ready → ∃ b, Does s e b ∧ entry b = some (served c own) ∧ told b true ∧ b.launches = s.launches) ∧
          (∀ r, c.st = .bound → c.val.toNat ≤ 1 → c.record = some r →
            (taskFull s r (hDie h) = true → Does s e (s.due e)) ∧
            (taskFull s r (hDie h) = false → ∃ b, Does s e b ∧ entry b = some (served { c with val := 0, st := .ready, record := none } own) ∧ told b true ∧
              (coresOk s r (s.partOf (hDie h)) = true → ∃ l, tfind b.launches s.nextId = some l ∧ l.record = r ∧ l.home = homeOf r (hDie h) ∧ l.waiting = true)))))) ∧
    (∀ h die owner, tfind s.reqs id = some (.cntDec none h none die owner) → hModule h ≠ s.modnum die →
      let e := Event.counterDecrement id
      let lost := { s with reqs := terase s.reqs id }.dieEv die 1 owner
      (counterImport s (s.partOf die) owner (hModule h) = none → Does s e lost) ∧
      (∀ i, counterImport s (s.partOf die) owner (hModule h) = some i →
        let p := counterPacket s die (die * 12800) 0 id i h
        (portFenced s die p.1 p.2.1 = true → Does s e ({ s with reqs := terase s.reqs id, claims := terase s.claims id }.dieEv die 1 owner)) ∧
        (portFenced s die p.1 p.2.1 = false → Through s id (packetWay s (unitPlace die) die p.1 p.2.1) → ∃ b, Does s e b ∧ tfind b.reqs id = some (.done die owner p.1 p.2.1 p.2.2 0 s.now) ∧
          Event.requestReplayTimeout id ∈ b.agenda))) ∧
    (∀ slot tag h r c, tfind s.reqs id = some (.cntBind slot tag h r) → hModule h = s.modnum (dieOf (coreOf slot)) → counterOf s h = some c →
      s.partOf (hDie h) = s.partOf (dieOf (coreOf slot)) →
      (¬ turn h (coreOf slot) ∨ s.fenced (s.partOf (hDie h)) = true → Does s (.counterBind id) (s.due (.counterBind id))) ∧
      (turn h (coreOf slot) → s.fenced (s.partOf (hDie h)) = false →
      (c.st ≠ .ready → ∃ b, Does s (.counterBind id) b ∧ tfind (b.die (hDie h)).counters (hIndex h) = some (served { c with st := .bound, record := some r } (coreOf slot))) ∧
      (c.st = .ready → taskFull s r (hDie h) = false → coresOk s r (s.partOf (hDie h)) = true → ∃ b l, Does s (.counterBind id) b ∧ tfind b.launches s.nextId = some l ∧ l.record = r ∧ l.waiting = true))) ∧
    (∀ slot tag h k c, tfind s.reqs id = some (.cntFree slot tag h (some k)) → hModule h = s.modnum (dieOf (coreOf slot)) →
      s.partOf (hDie h) = s.partOf (dieOf (coreOf slot)) → counterOf s h = some c → c.owner = s.ownerOf (coreOf slot) →
      (¬ turn h (coreOf slot) ∨ s.fenced (s.partOf (hDie h)) = true → Does s (.counterFree id) (s.due (.counterFree id))) ∧
      (turn h (coreOf slot) → s.fenced (s.partOf (hDie h)) = false →
      ∃ b, Does s (.counterFree id) b ∧ tfind (b.die (hDie h)).counters (hIndex h) = some (served { gen := c.gen + 1 } (coreOf slot)) ∧ Event.postedAnswerArrival (coreOf slot) k 0 ∈ b.agenda)) ∧
    (∀ dst from_ target owner, tfind s.reqs id = some (.ctxout dst from_ target owner) →
      let die := dieOf (coreOf from_)
      let no := fun (v : Int) => ∃ b, Does s (.ctxoutRequestArrival id) b ∧ b.threads = s.threads ∧ Told b id dst (BitVec.ofInt 64 v)
      let away := dieOf (coreOf target) ≠ die ∨ s.fenced (s.partOf (dieOf (coreOf target))) = true ∨ (owner ≠ 0 ∧ s.ownerOf (coreOf target) ≠ owner)
      (tfind s.threads target = none → no (-1)) ∧
      (∀ t, tfind s.threads target = some t →
        (target = from_ → no (-2)) ∧ (target ≠ from_ → away → no (-3)) ∧
        (target ≠ from_ → ¬ away → freeFrame s die (clusterOf (coreOf target)) = none → no (-4)) ∧
        (∀ n, target ≠ from_ → ¬ away → freeFrame s die (clusterOf (coreOf target)) = some n →
          ∃ b u, Does s (.ctxoutRequestArrival id) b ∧ Told b id dst (BitVec.ofNat 64 ((tget (s.die die).frames n {}).gen.toNat * 65536 + n)) ∧
            (tget (b.die die).frames n {}).saved = some u ∧ (tget (b.die die).frames n {}).owner = s.ownerOf (coreOf target) ∧
            u.pc = t.pc ∧ u.mode = t.mode ∧ u.regs = t.regs ∧ { u.csr with tprog := t.csr.tprog } = t.csr ∧ u.num = t.num ∧ u.tag = t.tag ∧ u.resv = none ∧
            b.threads.length + 1 = s.threads.length))) ∧
    (∀ dst from_ xs owner, tfind s.reqs id = some (.ctxin dst from_ xs owner) →
      let die := dieOf (coreOf from_)
      let e := Event.ctxinRequestArrival id
      let no := fun (v : Int) => ∃ b, Does s e b ∧ b.threads = s.threads ∧ b.dies = s.dies ∧ Told b id dst (BitVec.ofInt 64 v)
      (frameOf s die xs.toNat owner = none → no (-4)) ∧
      (∀ n f t, frameOf s die xs.toNat owner = some (n, f, t) →
        (ctxinTarget s die xs.toNat owner f t = none → no (-3)) ∧
        (∀ c, ctxinTarget s die xs.toNat owner f t = some c →
          (frameBusy t = true → Does s e (s.due e)) ∧
          (frameBusy t = false → bitAt xs.toNat 63 = true → ∃ b, Does s e b ∧ Told b id dst 0 ∧ (tget (b.die die).frames n {}).saved = none ∧
            (tget (b.die die).frames n {}).gen = f.gen + 1) ∧
          (frameBusy t = false → bitAt xs.toNat 63 = false →
            (openSlots s c t.elastic = [] → no (-1)) ∧
            (∀ k l, openSlots s c t.elastic = k :: l →
              (lowBlock (heldBlocks s c) t.tlim = none → no (-2)) ∧
              (∀ tb, lowBlock (heldBlocks s c) t.tlim = some tb → (pmapRefusal s (c * 64 + k) t t.pmap.toNat).isSome = true → no (-5)) ∧
              (∀ tb, lowBlock (heldBlocks s c) t.tlim = some tb → pmapRefusal s (c * 64 + k) t t.pmap.toNat = none →
                ∃ b u, Does s e b ∧ Told b id dst (BitVec.ofNat 64 k) ∧ tfind b.threads (c * 64 + k) = some u ∧ u.tb = tb ∧ u.pc = t.pc ∧ u.mode = t.mode ∧
                  u.regs = t.regs ∧ { u.csr with tprog := t.csr.tprog } = t.csr ∧ u.num = t.num ∧ u.tag = t.tag))))))

/-- An INVOKE is dropped where it is malformed, refused with −5 or −3, answered again where its identifier has been seen, and
else admitted in its turn: −2 for an invalid handler; 0 into its queue while quota and room last and its ring is empty; 1 into
its ring, as a record of 128 bytes in device memory; −6 or −1 without room (16 R402, R405, R406, R407).  The heads of a ring
move on as their records stand while quota and room last (16 R408).  The head of a queue is placed as a group of its own on a
core with room, waits, also for the core's turn (05 R134), or is discarded with −2 (16 R409, R413); an empty ring stays as it is
as its record leaves.  A REPLY ends the invocation that its token names, and is counted where it names none; a group that ends
with no reply of its token taken sends NOREPLY (16 R411).  The model's choices: where a ring's records stand (log 9) and which
place the next one takes (log 119); that −5 is answered also while a thermal trip holds launches (log 66); where an INVOKE from
a peer meets its ingress check (log 100); that one which comes after a later one in a cycle is taken in the next (log 101); and
that a reply to a peer has answered its group as it leaves (log 118). -/
def Obligations.InvocationEvents : Prop :=  ∀ (s : State) (die : Nat),
    (∀ h bs, let e := Event.invoke die h bs
      let part := s.partOf die
      let u := unitOf s die
      let r : InvRec := { hdr := h, beats := bs, token := tokenOf s h bs }
      let hv := s.handler part r.handler
      let ok := hdrOk h && hTyp h == 5 && bs.length == bbits h 123 120
      let seen := u.filter.find? (fun p => p.1 == bIdent bs)
      let turn := admitTurn s die (admitKey h bs) = true
      let inside := hSmod h ≠ s.modnum die ∨ sameTenant s die h = true ∨ invokePasses s die h bs = true
      let taken := takesNone s die = false ∧ turn ∧ inside
      let fits := (u.ring r.handler).isEmpty = true ∧ u.held r.handler < bits hv 30 24 ∧ u.room r.prio = true
      let ans := fun (a : Int) => ∃ b, Does s e b ∧ b.mem = s.mem ∧ StatusSent s b die h bs a ∧ (unitOf b die).queues = u.queues
      (ok = false → ∃ b, Does s e b ∧ unitOf b die = u ∧ b.mem = s.mem) ∧
      (ok = true → takesNone s die = true → ans (-5)) ∧
      (ok = true → takesNone s die = false → ¬ turn → ∃ b, Does s e b ∧ unitOf b die = u ∧ b.mem = s.mem ∧ e ∈ b.agenda) ∧
      (ok = true → takesNone s die = false → turn → ¬ inside → ans (-3)) ∧
      (∀ p, ok = true → taken → seen = some p → ans (BitVec.ofNat 8 p.2).toInt) ∧
      (ok = true → taken → seen = none → bitAt hv 31 = false → ans (-2)) ∧
      (ok = true → taken → seen = none → bitAt hv 31 = true → fits → ∃ b, Does s e b ∧ StatusSent s b die h bs 0 ∧
        (unitOf b die).queue r.prio = u.queue r.prio ++ [{ r with since := s.now }] ∧ Event.invocationPlacement die r.prio ∈ b.agenda) ∧
      (ok = true → taken → seen = none → bitAt hv 31 = true → ¬ fits → bits hv 21 20 = 1 → (u.ring r.handler).length < bits hv 63 48 →
        let spot := ringSpot s die r.handler hv (tget u.spillNext r.handler 0) (bits hv 63 48)
        (∀ n, spot = some n → let a := ringPlace s die hv n
          ∃ b, Does s e b ∧ StatusSent s b die h bs 1 ∧ (unitOf b die).ring r.handler = u.ring r.handler ++ [{ r with ring := a }] ∧
            tget (unitOf b die).spillNext r.handler 0 = n + 1 ∧ Stored s.mem b.mem a r.image 128) ∧
        (spot = none → ans (-1))) ∧
      (ok = true → taken → seen = none → bitAt hv 31 = true → ¬ fits → bits hv 21 20 = 2 → ans (-6)) ∧
      (ok = true → taken → seen = none → bitAt hv 31 = true → ¬ fits → bits hv 21 20 = 0 → ans (-1))) ∧
    (∀ h, let u := unitOf s die
      let hv := s.handler (s.partOf die) h
      (u.ring h = [] → Does s (.spillRingMove die h) s) ∧
      (∀ r0 l, u.ring h = r0 :: l → let r := readRecord s r0; (bitAt hv 31 = true ∧ bits hv 30 24 ≤ u.held h) ∨ u.room r.prio = false → Does s (.spillRingMove die h) s) ∧
      (∀ r0 l, u.ring h = r0 :: l → let r := readRecord s r0; (bitAt hv 31 = false ∨ u.held h < bits hv 30 24) → u.room r.prio = true → ∃ b m, Does s (.spillRingMove die h) b ∧
        (unitOf b die).queue r.prio = u.queue r.prio ++ { r with since := s.now } :: m ∧ Event.invocationPlacement die r.prio ∈ b.agenda)) ∧
    (∀ q r l, (unitOf s die).queue q = r :: l →
      let e := Event.invocationPlacement die q
      let hv := s.handler (s.partOf die) r.handler
      (bitAt hv 31 = false → ∃ b, Does s e b ∧ b.threads = s.threads ∧ (bitAt r.token.toNat 63 = true → StatusSent s b die r.hdr r.beats (-2))) ∧
      (bitAt hv 31 = true → invPool s die q hv r = [] → Does s e (s.due e)) ∧
      (∀ core, bitAt hv 31 = true → r.any = false → invPool s die q hv r = [core] → makeTurn s core 0 = false ∨ invRoom s r hv core = none → Does s e (s.due e)) ∧
      (∀ core ks bs, bitAt hv 31 = true → r.any = false → invPool s die q hv r = [core] → makeTurn s core 0 = true → invRoom s r hv core = some (ks, bs) →
        ∃ b, Does s e b ∧ ((unitOf s die).ring r.handler = [] → (unitOf b die).spill = (unitOf s die).spill) ∧ (∃ n, tfind b.launches s.nextId = some n ∧ n.kind = 2 ∧ n.live = r.size ∧ n.inv = some r ∧ n.waiting = false) ∧
          (∀ j k tb, ks[j]? = some k → bs[j]? = some tb → Born b core k tb (invBirth r hv s.nextId j)) ∧
          (r.strm = true → ((b.core core).queue 5).words.map PortWord.val = ((s.core core).queue 5).words.map PortWord.val ++ r.args))) ∧
    (∀ h bs, let e := Event.reply die h bs
      let x := (beat1 bs).toNat
      hdrOk h = true → hTyp h = 6 → bs.length = bbits h 123 120 → s.fenced (s.partOf die) = false →
        (∀ core k j d, replyEntry s die h (x / 2 ^ 64) = some (core, k, j) → j.dst = some d → ∃ b, Does s e b ∧ Told b j.id d (BitVec.ofNat 64 (x % 2 ^ 63)) ∧ b.mem = s.mem ∧
          (hSmod h ≠ s.modnum die → b.launches = s.launches) ∧
          ∀ id l r, hSmod h = s.modnum die → tfind s.launches id = some l → l.home = hSdie h → l.inv = some r → r.token.toNat = x / 2 ^ 64 →
            tfind b.launches id = some { l with inv := some { r with token := 0 } }) ∧
        (replyEntry s die h (x / 2 ^ 64) = none → ∃ b, Does s e b ∧ b.launches = s.launches ∧ (unitOf b die).replyDrops = min ((unitOf s die).replyDrops + 1) (2 ^ 16 - 1) ∧ b.mem = s.mem)) ∧
    (∀ id slot tag d port h bs, tfind s.net id = none → tfind s.reqs id = some (.reply slot tag d port h bs false) → hDmod h ≠ s.modnum d →
      Through s id (packetWay s (clusterOf (coreOf slot)) d port h) → ∃ b, Does s (.requestReplayTimeout id) b ∧ b.reqs = terase s.reqs id ∧ b.mem = s.mem ∧
        ∀ k l r, tfind s.launches k = some l → l.home = d → l.inv = some r → r.token.toNat = (beat1 bs).toNat / 2 ^ 64 →
          tfind b.launches k = some { l with inv := some { r with token := 0 } }) ∧
    (∀ id l r, tfind s.launches id = some l → l.waiting = false → l.live = 0 → l.inv = some r → ∃ b, Does s (.launchDone id) b ∧
      b.launches = terase s.launches id ∧ (bitAt r.token.toNat 63 = true → StatusSent s b l.home r.hdr r.beats (-7)))

/-- A WRITE, READ or ATOMIC that the ingress check admits and translates, and that has passed the contended points of its way,
is performed at its home slice, a write or atomic once only by its identifier, and is answered; one that is refused is answered with the REASON and changes no byte; one that
waits is due again (16 R405; 08 R214; 20 R479).  A COUNTER decrements the counter of its export entry's owner once, in its turn
(20 R479; 15 R381).  An ANSWER goes to the entry that its identifier names (16 R401, R402).  PAUSE and RESUME stop and start a
class, and a PAUSE is repeated, in the control beat of a flit, while the buffer is full (16 R415; 20 R478).  A flit is taken in
sequence only, and with its CRC (20 R478); training and loss set a link (20 R474, R477, R486).  The model's choices: the
negative REASON of a refused READ or ATOMIC (log 67), the filter of a die's COUNTERs (log 45), that a PAUSE or RESUME travels in
a flit without a packet and that training clears the packets kept (log 68), and the requester number of a COUNTER (log 117). -/
def Obligations.FabricEvents : Prop :=  ∀ (s : State) (die : Nat), s.MemOk →
    (∀ h bs, let n := 2 ^ hSize h
      let key := filterKey s die h bs
      let seen := fun a => (filterOf s (homeDie a) (homeSlice a)).find? (fun p => p.1 == key)
      let thru := fun (t : State) (w : Bool) a => Through t (packetClaim s die h bs) (if w then unitWrite t (unitPlace die) a n else unitRead t (unitPlace die) a n)
      let good := fun a => s.poisoned a n = false ∧ s.uncorr a n = false
      (packetOk 1 h bs = true → let e := Event.write die h bs
        let i := ingress s die h bs { w := true } 1
        (∀ r t, i = .refuse r t → ∃ b, Does s e b ∧ b.mem = s.mem ∧ StatusSent s b die h bs (-(r : Int))) ∧
        (∀ t, i = .wait t → Does s e (t.due e)) ∧
        (∀ a o t, i = .place a o t →
          (∀ p, seen a = some p → ∃ b, Does s e b ∧ b.mem = s.mem ∧ StatusSent s b die h bs p.2.toInt) ∧
          (seen a = none → thru t true a → (8 ≤ n ∨ good a) → ∃ b, Does s e b ∧ Stored s.mem b.mem a (beatsVal (bs.drop 1) % 2 ^ (8 * n)) n ∧ StatusSent s b die h bs 0 ∧
            (key, 0) ∈ filterOf b (homeDie a) (homeSlice a)) ∧
          (seen a = none → thru t true a → n < 8 → ¬ good a → ∃ b, Does s e b ∧ b.mem = s.mem ∧ StatusSent s b die h bs (-4) ∧
            (key, -4) ∈ filterOf b (homeDie a) (homeSlice a)))) ∧
      (packetOk 2 h bs = true → hResp h = false → let e := Event.read die h bs
        let i := ingress s die h bs { r := true } 0
        (∀ r t, i = .refuse r t → ∃ b, Does s e b ∧ b.mem = s.mem ∧ StatusSent s b die h bs (-(r : Int))) ∧
        (∀ a o t, i = .place a o t → thru t false a → ∃ b, Does s e b ∧ b.mem = s.mem ∧
          (hSmod h = s.modnum die → ∃ x, Event.read (hSdie h) x (mkBeat1 0 0 (bIdent bs) :: beatsOf (s.rd a n) n) ∈ b.agenda))) ∧
      (packetOk 3 h bs = true → hResp h = false → let e := Event.atomic die h bs
        let i := ingress s die h bs { r := true, w := true, a := true } 2
        (∀ r t, i = .refuse r t → ∃ b, Does s e b ∧ b.mem = s.mem ∧ StatusSent s b die h bs (-(r : Int))) ∧
        (∀ a o t, i = .place a o t → seen a = none → thru t true a → good a → hOp h ≠ 31 → ∃ b, Does s e b ∧
          Stored s.mem b.mem a (amoNew (hOp h) n (s.rd a n) (bbits (bs.getD 1 0) 63 0 % 2 ^ (8 * n))) n ∧ (key, BitVec.ofNat 64 (s.rd a n)) ∈ filterOf b (homeDie a) (homeSlice a) ∧
          (hSmod h = s.modnum die → ∃ x, Event.atomic (hSdie h) x (mkBeat1 0 0 (bIdent bs) :: beatsOf (s.rd a n) n) ∈ b.agenda))) ∧
      (packetOk 4 h bs = true → s.fenced (s.partOf die) = false → (filterOf s die 64).any (fun p => p.1 == key) = false →
        let e := Event.counter die h bs
        let hd := BitVec.ofNat 64 (bbits (bs.getD 1 0) 63 0)
        (exportAdmits s die 2 h bs = false → ∃ b, Does s e b ∧ StatusSent s b die h bs (-1) ∧ ∀ d, (b.die d).counters = (s.die d).counters) ∧
        (exportAdmits s die 2 h bs = true → counterOf s hd = none → ∃ b, Does s e b ∧ StatusSent s b die h bs (-5) ∧ ∀ d, (b.die d).counters = (s.die d).counters) ∧
        (∀ c, exportAdmits s die 2 h bs = true → counterOf s hd = some c → c.st = .armed → s.partOf (hDie hd) = s.partOf die →
          c.owner = bits (s.exportEnt (s.partOf die) (hExp h)) 63 52 → let req := bIdent bs / 2 ^ 24
          ((∃ k, c.last = some (s.now, k) ∧ req < k) → Does s e (s.due e)) ∧
          ((∀ k, c.last = some (s.now, k) → k ≤ req) → ∃ b, Does s e b ∧ StatusSent s b die h bs 0 ∧
            tfind (b.die (hDie hd)).counters (hIndex hd) = some { c with val := c.val - 1, st := if c.val.toNat ≤ 1 then .ready else .armed, last := some (s.now, req) }))) ∧
      (packetOk 7 h bs = true → sentAccess s die bs = none → sentReq s die bs = none → ∀ core k j, entryOfIdent s (bIdent bs) = some (core, k, j) → dieOf core = die →
        let e := Event.answer die h bs
        (j.typ = 1 → answerStatus bs = 0 → ∃ b, Does s e b ∧ Event.postedAnswerArrival core k 0 ∈ b.agenda) ∧
        (∀ d, j.typ = 2 → j.reply = false → j.dst = some d → (answerStatus bs ≠ -7 ∨ replyDue s die = false) → ∃ b, Does s e b ∧ Told b j.id d (BitVec.ofInt 64 (answerStatus bs))))) ∧
    (∀ p c, (0 < c → c ≤ 3 → Does s (.pause p c) (s.modPort p (fun r => { r with pausedUs := tset r.pausedUs c true }))) ∧
      (c = 0 ∨ 3 < c → Does s (.pause p c) s) ∧
      (∃ b, Does s (.resume p c) b ∧ b.mem = s.mem ∧ (b.port p).pausedUs = terase (s.port p).pausedUs c ∧ (b.port p).waiting = (s.port p).waiting.filter (fun w => w.1 != c)) ∧
      (tget (s.port p).pausedPeer c false = true → 262144 < bufFill (s.port p) c → ∃ b, Does s (.pauseRepeat p c) b ∧ b.outbox = s.outbox ++ (if (s.port p).up then [.flit p (mkFlit ((s.port p).txSeq + 1).toNat (s.port p).rxSeq.toNat (2 ^ (c + 4)) 0 [])] else []) ∧ Event.pauseRepeat p c ∈ b.agenda) ∧
      (tget (s.port p).pausedPeer c false = false ∨ bufFill (s.port p) c ≤ 262144 → Does s (.pauseRepeat p c) s)) ∧
    (∀ p (l : List Beat), let r := s.port p
      let c := (l.headD 0).toNat
      let good := Config.flitCrc (BitVec.ofNat 128 (c - c % 2 ^ 32) :: l.drop 1) = BitVec.ofNat 32 c
      (r.up = false ∨ l.length ≠ 16 ∨ ¬ good → Does s (.flitReceive p l) s) ∧
      (r.up = true → l.length = 16 → good → ∃ b, Does s (.flitReceive p l) b ∧ b.mem = s.mem ∧
        (b.port p).rxSeq = if BitVec.ofNat 16 (bits c 127 112) = r.rxSeq + 1 then r.rxSeq + 1 else r.rxSeq)) ∧
    (∀ p ok, ∃ b, Does s (.linkTraining p ok) b ∧ (b.port p).up = ok ∧ (b.port p).txSeq = 0 ∧ (b.port p).rxSeq = 0 ∧ (b.port p).unacked = [] ∧ (b.port p).waiting = [] ∧ b.threads = s.threads ∧ b.mem = s.mem) ∧
    (∀ p, Does s (.fabricLinkLost p) (s.modPort p (fun r => { r with up := false, rest := [], unacked := [], waiting := [] }))) ∧
    (∀ rate width, Does s (.hostLinkTraining rate width) (if (rate = 128 ∨ rate = 64 ∨ rate = 32) ∧ (width = 16 ∨ width = 8) then { s with cxl := some (rate, width) } else s))

/-- A round of two or more owners moves the draw counter of each on by one; the owner that the drawn number gives wins, and of
each owner's requests the one that the point would serve next is granted where its owner wins and has lost a round otherwise, so
for the walks of a walker (17 R424-R426; 09 R224).  A sweeper visits one set after the other
while its owner's sweep lasts, and ends when no retiring line is left (17 R430).  A write of an owner-table dword takes its
fields, is refused into REGERR where a reserved bit or a sum stands against it (17 R416, R417; 19 R471); the exceedance
counters are cleared, DMONSEL sets its selector and clears its counter (17 R428; 20 R488); a read of the host gives it the
register's value, 0 where its function has none there (20 R476; that the host reads is an event is the model's choice, log 108).  A core without live threads gets
its owner, its side store zero and its queues empty, which a thread bound to one of them reads in FLUSHED (01 R18; 11 R292). -/
def Obligations.OwnerEvents : Prop :=  ∀ (s : State) (die : Nat), s.MemOk →
    (∀ cls inst, cls ≠ 3 →
      let present := presentAt s (cls, die, inst)
      (present.length < 2 → Does s (.arbitrationRound die cls inst) s) ∧
      (2 ≤ present.length → ∃ b w, Does s (.arbitrationRound die cls inst) b ∧ b.mem = s.mem ∧
        Wins s die cls (roundNumber s die cls inst present) present w ∧
        (∀ o ∈ present, tget (b.ownerEnt die o).draws (pointNo cls inst) 0 = (tget (s.ownerEnt die o).draws (pointNo cls inst) 0 + 1) % 2 ^ 40) ∧
        (((waitsAt s (cls, die, inst)).map (fun x => (x.claim, x.key))).Nodup → ∀ o ∈ present, ∀ h,
          headOf (openRow s (cls, die, inst)) ((waitsAt s (cls, die, inst)).filter (fun x => x.owner == o && !x.granted)) = some h →
          (∀ c, h.claim = true → tfind s.claims h.key = some c → tfind b.claims h.key = some (if o = w then { c with granted := true } else { c with lost := c.lost + 1 })) ∧
          (∀ x, h.claim = false → tfind s.net h.key = some x → tfind b.net h.key = some (if o = w then { x with granted := true } else { x with lost := x.lost + 1 }))))) ∧
    (∀ inst, let l := (walksAt s die inst).filter (fun q => !q.2.granted)
      let present := (l.map (fun q => q.2.owner)).eraseDups
      (present.length < 2 → Does s (.arbitrationRound die 3 inst) s) ∧
      (2 ≤ present.length → (l.map Prod.fst).Nodup → ∃ b w, Does s (.arbitrationRound die 3 inst) b ∧ b.mem = s.mem ∧
        Wins s die 3 (roundNumber s die 3 inst present) present w ∧
        (∀ o ∈ present, tget (b.ownerEnt die o).draws (pointNo 3 inst) 0 = (tget (s.ownerEnt die o).draws (pointNo 3 inst) 0 + 1) % 2 ^ 40) ∧
        ∀ o k y, l.find? (fun q => q.2.owner == o) = some (k, y) →
          tfind (b.die die).xlat.pend k = some (if o = w then { y with granted := true } else { y with lost := y.lost + 1 }))) ∧
    (∀ slice o, let n := sweepNext s die slice o
      ((s.ownerEnt die o).sweep = false ∨ 257 ≤ n → Does s (.sweeperVisit die slice o) s) ∧
      ((s.ownerEnt die o).sweep = true → n < 256 → ∃ b, Does s (.sweeperVisit die slice o) b ∧ b.mem = s.mem ∧ sweepNext b die slice o = n + 1 ∧ Event.sweeperVisit die slice o ∈ b.agenda) ∧
      ((s.ownerEnt die o).sweep = true → n = 256 → retiringSets s die slice o = [] → ∃ b, Does s (.sweeperVisit die slice o) b ∧ b.mem = s.mem ∧
        (sweepNext b die slice o = 257 ∨ (b.ownerEnt die o).sweep = false))) ∧
    (∀ o dw v, o < 4096 → dw < 4 →
      let e := Event.ownerTableWrite die o dw v
      let n := v.toNat
      (n &&& ownerRsv dw ≠ 0 → Does s e (regErr s die (32 * o + 8 * dw))) ∧
      (dw = 3 → ∃ b, Does s e b ∧ (b.ownerEnt die o).seed = v ∧ b.mem = s.mem) ∧
      (dw = 0 → n &&& ownerRsv 0 = 0 →
        let t := s.modOwner die o (fun e => ownerOfImage e (setBits (ownerImage e) 63 0 n))
        (ownersBad t die = true → Does s e (regErr s die (32 * o))) ∧
        (ownersBad t die = false → Does s e t ∧ (t.ownerEnt die o).v = bitAt n 0 ∧ (t.ownerEnt die o).troot = bits n 51 15 * 2 ^ 15 ∧ (t.ownerEnt die o).seed = (s.ownerEnt die o).seed))) ∧
    (∀ o, Does s (.exceedanceCounterClear die o) (s.modOwner die o (fun e => { e with exN := 0, exE := [] }))) ∧
    (∀ n v, ∃ b, Does s (.dmonselWrite die n v) b ∧ tget (b.die die).plat.dmon n 1 = 0 ∧
      tget (b.die die).plat.dmonsel n 0 = BitVec.ofNat 64 (v.toNat - (v.toNat &&& regRsv (.monsel n)))) ∧
    (∀ off v, (sxReg off = none → Does s (.registerWrite 33 die off v) s) ∧
      (∀ r, sxReg off = some r → r ≠ .xlat 0x88 → v.toNat &&& regRsv r ≠ 0 → Does s (.registerWrite 33 die off v) (regErr s die off)) ∧
      (∀ r, sxReg off = some r → v.toNat &&& regRsv r = 0 → regPut s 33 die r v.toNat = none → Does s (.registerWrite 33 die off v) (regErr s die off)) ∧
      (∀ r t, sxReg off = some r → v.toNat &&& regRsv r = 0 → regPut s 33 die r v.toNat = some t → Does s (.registerWrite 33 die off v) t) ∧
      (∀ fn, fn ≠ 33 → hostReg s fn off = none → Does s (.registerWrite fn die off v) s) ∧
      (∀ fn d r t, fn ≠ 33 → hostReg s fn off = some (d, r) → r ≠ .xlat 0x88 → regPut s fn d r (v.toNat - (v.toNat &&& regRsv r)) = some t → Does s (.registerWrite fn die off v) t)) ∧
    (∀ fn off, Does s (.registerRead fn off) { s with outbox := s.outbox ++ [.hostReg fn off (match hostReg s fn off with | some (d, r) => BitVec.ofNat 64 (regGet s d r) | none => 0)] } ∧
      (0x8000 ≤ off → fn < 32 → hostReg s fn off = none)) ∧
    (∀ core o, (o = (s.core core).owner ∨ s.coreLive core = true → Does s (.coreOwnerAssign core o) s) ∧
      (o ≠ (s.core core).owner → s.coreLive core = false → ∃ b, Does s (.coreOwnerAssign core o) b ∧ (b.core core).owner = o ∧ (b.core core).ports = [] ∧
        Cleared s b (fun a => spaceOf a == 5 && offOf a / 2048 == core) ∧
        ∀ n t q, tfind s.threads n = some t → outQueue n t = some (core, q) → ∃ u, tfind b.threads n = some u ∧ u.pc = t.pc ∧ u.regs = t.regs ∧ bitAt u.pmap.toNat 47 = true))

/-- A reset is requested by PCMD, an FLR or Sextant, each with its cause (18 R449).  The steps of a reset follow one another:
nothing is accepted from the first on, the on-chip storage of the partition becomes zero in the fifth, its threads are gone in
the sixth, and the seventh reports the state and the cause (18 R450).  ZERO clears its device memory (18 R453).  A module reset
leaves device and host memory, the fused minimum and the time, and puts all else to its reset value (18 R439).  Boot starts
the hardware threads of a die in K mode, or retires its partition (20 R481).  PDIES takes an accepted set and the dies leave
the others (18 R455); VFCFG takes effect at the next reset only (18 R443).  The fused minimum only rises (20 R481); scrubbing
counts corrected errors and marks bad data, which stands bad from the error on (18 R445, R447); its reads contend as owner 0's
(18 R447).  The model's choices: what a module reset keeps (log 31), that a failed boot retires the partition (log 74), the
points of the scrub engine's on-chip reads (log 104), die-cache errors kept by the memory word (log 109) and the fault that
changes a carried partition number (log 103). -/
def Obligations.PartitionEvents : Prop :=  ∀ s : State, s.MemOk →
    (∀ p v, (bitAt v.toNat 0 = false → Does s (.pcmdReset p v) s ∧ Does s (.sextantResetRequest p v) s) ∧
      (bitAt v.toNat 0 = true → (∃ b, Does s (.pcmdReset p v) b ∧ Requested s b p 1 (bitAt v.toNat 1) (bitAt v.toNat 2)) ∧
        (∃ b, Does s (.sextantResetRequest p v) b ∧ Requested s b p 4 (bitAt v.toNat 1) (bitAt v.toNat 2)))) ∧
    (∀ f, (bitAt (s.vfNow f) 63 = true → ∃ b, Does s (.flr f) b ∧ Requested s b (bits (s.vfNow f) 36 32) 2 false false) ∧
      (bitAt (s.vfNow f) 63 = false → Does s (.flr f) s)) ∧
    (∀ p, let n := (s.part p).resetStep
      (n = 0 → Does s (.partitionReset p) s) ∧
      (0 < n → n < 7 → ∃ b, Does s (.partitionReset p) b ∧ (b.part p).resetStep = n + 1 ∧ Event.partitionReset p ∈ b.agenda ∧
        (n = 1 → (b.part p).st = 2) ∧
        (n = 5 → Cleared s b (fun a => onChipOf s p a)) ∧
        (n = 6 → ∀ q ∈ b.threads, s.dieIn (dieOf (coreOf q.1)) p = false)) ∧
      (7 ≤ n → ∃ b, Does s (.partitionReset p) b ∧ (b.part p).resetStep = 0 ∧ (b.part p).st = stateAfter s p ∧
        (b.part p).resets = min ((s.part p).resets + 1) 0xFFFF ∧ (b.part p).cause = (s.part p).resetCause)) ∧
    (∀ p, ((s.part p).st ≠ 3 → Does s (.zeroClear p) s) ∧
      ((s.part p).st = 3 → ∃ b, Does s (.zeroClear p) b ∧ (b.part p).st = (if (s.part p).rel then 0 else 1) ∧ Cleared s b (fun a => spaceOf a == 0 && s.dieIn (homeDie a) p))) ∧
    (∃ b, Does s .moduleReset b ∧ b.threads = State.reset.threads ∧ b.cores = State.reset.cores ∧ b.dies = State.reset.dies ∧ b.minVersion = s.minVersion ∧ b.now = s.now ∧
      Cleared s b (fun a => !(spaceOf a == 0 || spaceOf a == 4))) ∧
    (∀ die v i, ((s.die die).booted = true → Does s (.dieBoot die v i) s) ∧
      ((s.die die).booted = false → s.minVersion ≤ v → Config.imageGood die i = true → ∃ b, Does s (.dieBoot die v i) b ∧ (b.die die).booted = true ∧ (b.die die).firmware = (v, i) ∧
        ∀ t < 48, (b.sxThread die t).running = true ∧ (b.sxThread die t).th.mode = .k ∧ (b.sxThread die t).th.pc = Config.sextantEntry die t) ∧
      ((s.die die).booted = false → v < s.minVersion ∨ Config.imageGood die i = false → ∃ b, Does s (.dieBoot die v i) b ∧ (b.die die).booted = false ∧
        (b.part (s.partOf die)).st = 4 ∧ (b.part (s.partOf die)).failDie = die ∧ die ∈ (b.part (s.partOf die)).failed)) ∧
    (∀ p v, (pdiesWrite s p (v.toNat % 2 ^ 32) = none → Does s (.pdiesWrite p v) s) ∧
      (isRect (v.toNat % 2 ^ 32) = false → Does s (.pdiesWrite p v) s) ∧
      (∀ t, p < 32 → pdiesWrite s p (v.toNat % 2 ^ 32) = some t → Does s (.pdiesWrite p v) t ∧ t.pdies p = v.toNat % 2 ^ 32 ∧
        ∀ q d, q < 32 → d < 32 → q ≠ p → bitAt (t.pdies q) d = (bitAt (s.pdies q) d && !bitAt v.toNat d))) ∧
    (∀ f v, f < 32 → let x := v.toNat - (v.toNat &&& regRsv (.vfcfg f))
      (bitAt x 63 = true → bits x 31 0 = 0 → Does s (.vfcfgWrite f v) s) ∧
      (∀ t, vfcfgWrite s f x = some t → ∃ b, Does s (.vfcfgWrite f v) b ∧ b.vfReg f = x ∧ b.vfNow f = s.vfNow f)) ∧
    (∀ v, Does s (.raiseSecurityMinimum v) { s with minVersion := max s.minVersion v }) ∧
    (∀ die st addr, (scrubFree s die st addr 1 = true → ∃ b, Does s (.scrubPass die st addr 1) b ∧ b.mem = s.mem ∧ (b.die die).plat.ce = min ((s.die die).plat.ce + 1) 0xFFFFFFFF) ∧
      (scrubFree s die st addr 2 = true → st ≠ 4 → st ≠ 7 → scrubWords s die st addr ≠ [] → ∃ b, Does s (.scrubPass die st addr 2) b ∧ b.mem = s.mem ∧ (∀ w ∈ scrubWords s die st addr, wordAddr w ∈ b.poison) ∧
        (b.die die).plat.ued = min ((s.die die).plat.ued + 1) 0xFFFF) ∧
      (∃ b, Does s (.scrubPass die st addr 4) b ∧ b.mem = s.mem ∧ ∀ w ∈ scrubWords s die st addr, w ∈ b.eccBad) ∧
      (∃ b, Does s (.scrubPass die st addr 5) b ∧ b.mem = s.mem ∧ (∀ x, tfind s.net addr = some x → tfind b.net addr = some { x with part := some (st % 32) }) ∧
        ∀ t, tfind s.transfers addr = some t → tfind b.transfers addr = some { t with part := some (st % 32) }) ∧
      (scrubWay s die st addr 0 = [] → Does s (.scrubPass die st addr 0) s) ∧
      (∀ x ∈ scrubWay s die st addr 2, rivalAt s 0 x.1 = true → tfind s.claims (scrubWho die st addr) = none →
        ∃ b, Does s (.scrubPass die st addr 2) b ∧ b.poison = s.poison ∧ tfind b.claims (scrubWho die st addr) = some { owner := 0, path := [x], came := s.now } ∧
          Event.scrubPass die st addr 2 ∈ b.agenda))

/-- The sensors of a die raise or let fall its step, and at the critical temperature reset its partition with cause 3 and hold
its launches until the die is below T0 (20 R484, R485); the power step is every die's (20 R484).  A debug command acts on the slot
that DBGTGT names and leaves RESULT with BUSY clear: 2 for a selector outside the table, 3 where the slot is empty, 1 where it
runs; a release resumes as tret would, MISALIGNED included (19 R473; 14 R350, R364).  An SPDM request is answered (20 R482).  An
event record enters the ring, or OVF is set (19 R472).  A load request made while the loader is busy is ignored; a malformed one,
or one for cores that may not be loaded, ends with its code; else every core gets the image (02 R49).  A host request is served
at its home slice; one that waits stays ahead of those after it (08 R205).  That a trip is a crossing of TCRIT, or comes where no
hold stands (log 75), and the order in which a debug command's RESULTs are found (log 76) are the model's choice. -/
def Obligations.PlatformEvents : Prop :=  ∀ (s : State) (die : Nat), s.MemOk →
    let x := (s.die die).plat
    (∀ v, let tmax := hottest v.toNat
      let c := x.thrcfg.toNat
      (∃ b, Does s (.thermalStepRise die v) b ∧ (b.die die).plat.sensors = v ∧ (b.die die).plat.thH = max x.thH (thTarget c tmax)) ∧
      (thTarget c tmax ≤ x.thH → ∀ t, x.thBelow = some t → x.thH ≠ 0 → thReleased c x.thH tmax = true →
        (t + bits c 47 32 * 4000 ≤ s.now → ∃ b, Does s (.thermalStepFall die v) b ∧ (b.die die).plat.thH = x.thH - 1) ∧
        (s.now < t + bits c 47 32 * 4000 → ∃ b, Does s (.thermalStepFall die v) b ∧ (b.die die).plat.thH = x.thH)) ∧
      (let p := s.partOf die
       let r := s.part p
       (bits c 31 24 ≤ tmax → hottest x.sensors.toNat < bits c 31 24 ∨ r.thermalHold = false → r.st ≠ 4 → r.st ≠ 3 → r.resetStep = 0 →
         ∃ b, Does s (.thermalTrip die v) b ∧ (b.part p).resetStep = 1 ∧ (b.part p).resetCause = 3 ∧ (b.part p).ufaults = min (r.ufaults + 1) 0xFFFF ∧
           Event.partitionReset p ∈ b.agenda ∧ (bits c 7 0 ≤ tmax → (b.part p).thermalHold = true ∧ die ∈ (b.part p).tripped)) ∧
       (r.tripped = [die] → tmax < bits c 7 0 → tmax < bits c 31 24 → ∃ b, Does s (.thermalTrip die v) b ∧ (b.part p).thermalHold = false ∧ (b.part p).tripped = [])) ∧
      (tmax < bits c 31 24 → ∃ b, Does s (.thermalTrip die v) b ∧ (b.die die).plat.sensors = v ∧ (b.part (s.partOf die)).resetStep = (s.part (s.partOf die)).resetStep)) ∧
    (∀ w, ∃ b, Does s (.powerStepChange w) b ∧ b.powerW = w.toNat ∧ b.mem = s.mem ∧ b.threads = s.threads) ∧
    Does s (.throttleStepApply die) (s.modPlat die (fun p => { p with thK := p.thNext.getD p.thK, thNext := none })) ∧
    (let sel := x.dbgSel.toNat
     let ends := fun (e : Event) (r : Nat) => ∃ b, Does s e b ∧ dbgDone b die = (r, 0) ∧ b.threads = s.threads
     (dbgKnown sel = false → ends (.dbgRead die) 2) ∧ (dbgWritable sel = false → ends (.dbgWrite die) 2) ∧
     (dbgSlot s die = none → (∀ e ∈ [Event.dbgRelease die, .dbgHold die, .dbgUnhold die], ends e 3) ∧
       (dbgKnown sel = true → sel < 0x40000 → ends (.dbgRead die) 3) ∧ (dbgWritable sel = true → ends (.dbgWrite die) 3))) ∧
    (∀ slot, dbgSlot s die = some slot → let sel := x.dbgSel.toNat
      (tfind s.threads slot = none → 1 ≤ sel → sel < 32 → (∃ b, Does s (.dbgRead die) b ∧ dbgDone b die = (3, 0)) ∧ (∃ b, Does s (.dbgWrite die) b ∧ dbgDone b die = (3, 0))) ∧
      (tfind s.threads slot = none → ∃ b, Does s (.dbgRelease die) b ∧ dbgDone b die = (3, 0)) ∧
      (∀ t, tfind s.threads slot = some t →
        (t.win ≤ sel → 1 ≤ sel → sel < 32 → ∃ b, Does s (.dbgRead die) b ∧ dbgDone b die = (2, 0) ∧ b.threads = s.threads) ∧
        (1 ≤ sel → sel < t.win → sel < 32 →
          (∃ b, Does s (.dbgRead die) b ∧ dbgDone b die = (0, 0) ∧ b.threads = s.threads ∧ ((t.ent sel).st = .present → (b.die die).plat.dbgData = (t.ent sel).val)) ∧
          (dbgMayWrite s slot = true → ∃ b u, Does s (.dbgWrite die) b ∧ dbgDone b die = (0, 0) ∧ tfind b.threads slot = some u ∧
            u.ent sel = { val := x.dbgData, st := .present, cnt := 0 } ∧ u.pc = t.pc ∧ ∀ r, r ≠ sel → u.ent r = t.ent r) ∧
          (dbgMayWrite s slot = false → ∃ b, Does s (.dbgWrite die) b ∧ dbgDone b die = (1, 0) ∧ b.threads = s.threads)) ∧
        (t.stopped = true → t.csr.tepc.toNat % 4 = 0 → ∃ b u, Does s (.dbgRelease die) b ∧ dbgDone b die = (0, 0) ∧ tfind b.threads slot = some u ∧ u.stopped = false ∧ u.pc = t.csr.tepc ∧ u.regs = t.regs) ∧
        (t.stopped = true → t.csr.tepc.toNat % 4 ≠ 0 → ∃ b, Does s (.dbgRelease die) b ∧ dbgDone b die = (0, 0) ∧
          b.threads = ((s.setTh (.thread slot) { t with stopped := false }).takeTrap (.thread slot) .misaligned false t.csr.tepc (info142 0 15 false (bits t.csr.tepc.toNat 63 61))).threads) ∧
        (t.stopped = false → ∃ b, Does s (.dbgRelease die) b ∧ dbgDone b die = (1, 0) ∧ b.threads = s.threads) ∧
        (∃ b, Does s (.dbgHold die) b ∧ dbgDone b die = (0, 0) ∧ tfind b.threads slot = some { t with hold := true }) ∧
        (∃ b, Does s (.dbgUnhold die) b ∧ dbgDone b die = (0, 0) ∧ tfind b.threads slot = some { t with hold := false }))) ∧
    (∀ n (k : BitVec 256), (∃ r, Does s (.getCertificate n) { s with outbox := s.outbox ++ [.spdm 0 r] }) ∧ (∃ r, Does s (.challenge k) { s with outbox := s.outbox ++ [.spdm 1 r] }) ∧
      (∃ r, Does s (.getMeasurements n) { s with outbox := s.outbox ++ [.spdm 2 r] })) ∧
    (∀ k, ∃ r, Does s (.keyExchange k) { s with sessions := s.sessions + 1, outbox := s.outbox ++ [.spdm 3 r] }) ∧
    (∀ d0 d1 d2 d3, let at_ := aSram die (0xFE000 + 32 * x.evW.toNat)
      (x.evW + 1 = x.evR → ∃ b, Does s (.eventRecord die d0 d1 d2 d3) b ∧ (b.die die).plat.evOvf = true ∧ b.mem = s.mem) ∧
      (x.evW + 1 ≠ x.evR → ∃ b, Does s (.eventRecord die d0 d1 d2 d3) b ∧ (b.die die).plat.evW = x.evW + 1 ∧
        Stored s.mem b.mem at_ (d0.toNat + d1.toNat * 2 ^ 64 + d2.toNat * 2 ^ 128 + d3.toNat * 2 ^ 192) 32)) ∧
    (∀ part a, bits s.ldstat.toNat 3 0 = 1 → Does s (.loadRequest part a false) s) ∧
    (∀ part a, bits s.ldstat.toNat 3 0 ≠ 1 → s.holdsHost part = true → Does s (.loadRequest part a false) (s.due (.loadRequest part a false))) ∧
    (∀ part a, bits s.ldstat.toNat 3 0 ≠ 1 → s.holdsHost part = false →
      (loadReq s a.toNat = none → ∃ b, Does s (.loadRequest part a false) b ∧ b.ldstat = 0x13 ∧ b.mem = s.mem) ∧
      (∀ r h, loadReq s a.toNat = some r → imageHdr s r = some h →
        (loadCoresOk s r = false → ∃ b, Does s (.loadRequest part a false) b ∧ b.ldstat = 0x14 ∧ b.mem = s.mem) ∧
        (loadCoresOk s r = true → ∃ b, Does s (.loadRequest part a false) b ∧ b.ldstat = 1 ∧ b.loader.step = 3 ∧ Event.loadRequest part a true ∈ b.agenda ∧
          ∀ n < r.cores, (b.core (r.origin + n)).exb = h.exb ∧ (b.core (r.origin + n)).trapVec = BitVec.ofNat 64 h.tvec ∧
            ∀ k < h.llen, memRead b.mem (aLocal (r.origin + n) k) = memRead s.mem (aHost (r.image + 64 + k))))) ∧
    (∀ p w o data, let e := Event.hostMemRequest p w o data
      (hostWaits s p = true → Does s e { s with agenda := e :: s.agenda }) ∧
      (hostWaits s p = false → hdmPlace s p o = none → Does s e s) ∧
      (∀ a, hostWaits s p = false → hdmPlace s p o = some a →
        (w = false → ∃ b, Does s e b ∧ b.mem = s.mem ∧ b.outbox = s.outbox ++ [.hostData (s.rdBytes a 64)]) ∧
        (w = true → ∃ b, Does s e b ∧ b.outbox = s.outbox ∧ Stored s.mem b.mem a (data.foldr (fun b v => b.toNat + 256 * v) 0) data.length))) ∧
    (∀ line kind, (kind = 0 → ∃ b, Does s (.hostCoherenceRequest line kind) b ∧ b.mem = s.mem) ∧
      (kind ≠ 0 → ∃ b, Does s (.hostCoherenceRequest line kind) b ∧ ∀ a, (a < aHost (line * 256) ∨ aHost (line * 256) + 256 ≤ a) → memRead b.mem a = memRead s.mem a))

/-- A kick of a registered queue is deferred by LATTOL with its pending bit set; the delivery wakes its thread or the scheduler
(19 R465, R467).  The scheduler maps a pending queue onto the lowest free slot (19 R466).  A mapped queue reads its next packet
where its control block is sound, a packet is there, it is well formed and nothing holds it back, and RD moves on; a malformed
one halts it with the code (19 R463, R464).  A completion increments CDONE (19 R463).  Each of these waits while die 0 holds the
queue's control block for a reset, and where a slice's filter is full (18 R452; 08 R214).  That RD is written in memory at the
start, that the slot of a halted queue is unbound and that the pending bit is set as the kick arrives is the model's choice
(log 71). -/
def Obligations.QueueEvents : Prop :=  ∀ (s : State) (p q : Nat), s.MemOk →
    (queueHeld s p q = true → Does s (.kick p q) (s.due (.kick p q))) ∧
    (queueHeld s p q = false → kickTaken s p q = none → Does s (.kick p q) s) ∧
    (∀ c, queueHeld s p q = false → kickTaken s p q = some c → ∃ b, Does s (.kick p q) b ∧ (b.qmap p).deferred = (s.qmap p).deferred ++ [(q, s.now + c.lattol * 4000)] ∧
      Event.kickDelivery p ∈ b.agenda ∧ (slotOfQueue s p q = none → (b.qmap p).pending.contains q = true)) ∧
    ((s.qmap p).deferred.any (fun k => queueHeld s p k.1) = true → Does s (.kickDelivery p) (s.due (.kickDelivery p))) ∧
    ((s.qmap p).deferred.any (fun k => queueHeld s p k.1) = false → ∃ b, Does s (.kickDelivery p) b ∧ (b.qmap p).deferred = [] ∧ ∀ k ∈ (s.qmap p).deferred,
      (slotOfQueue s p k.1 ≠ none → Event.queuePacketStart p k.1 ∈ b.agenda) ∧
      (slotOfQueue s p k.1 = none → (b.qmap p).pending.contains k.1 = true ∧ Event.schedulerRun p ∈ b.agenda)) ∧
    (s.fenced p = true → Does s (.schedulerRun p) s) ∧
    (∃ b, Does s (.schedulerRun p) b ∧ (s.fenced p = false → (b.qmap p).pending ≠ [] → Event.schedulerRun p ∈ b.agenda)) ∧
    (∀ k l c, s.fenced p = false → queueHeld s p q = false → (s.qmap p).pending = [q] → (s.qmap p).leaving = [] → (s.qmap p).slots = [] → queueSlots s p = k :: l → qcbOf s p q = some c → c.state < 2 →
      ∃ b, Does s (.schedulerRun p) b ∧ tfind (b.qmap p).slots k = some (q, s.now) ∧ (b.qmap p).pending = [] ∧ Event.queuePacketStart p q ∈ b.agenda) ∧
    (∀ c slot, qcbOf s p q = some c → slotOfQueue s p q = some slot → let e := Event.queuePacketStart p q
      let halts := fun (n : Nat) => ∃ b, Does s e b ∧ b.rd (c.at_ + 40) 1 = n * 16 + 2 ∧ (b.qmap p).slots = terase (s.qmap p).slots slot ∧
        (c.vec ≠ 0x7FF → b.outbox = s.outbox ++ [.msix (fnOf s p) c.vec])
      let mapped := c.state = 1 ∧ tfind (s.qmap p).leaving slot = none ∧ s.fenced p = false
      let runs := mapped ∧ startHeld s p c = false
      let h := (ringBytes s p c c.rd 8).foldr (fun b v => b.toNat + 256 * v) 0
      let x : Packet := { queue := q, owner := c.owner, typ := pkTyp h, bytes := ringBytes s p c c.rd (min (pkLen h) c.avail), start := c.rd, time := s.timeNs (s.frontDie p), qcb := c.at_ }
      let n := inFlight s p q
      let held := 16 ≤ n ∨ (pkBar h = true ∧ n ≠ 0) ∨ resetWaits s p q = true ∨ (s.part p).thermalHold = true
      (¬ mapped → Does s e s) ∧ (mapped → startHeld s p c = true → Does s e (s.dueOnce e)) ∧ (runs → qcbBad s p c = true → halts 9) ∧ (runs → qcbBad s p c = false → c.avail < 16 → Does s e s) ∧
      (∀ k, runs → qcbBad s p c = false → 16 ≤ c.avail → pkMalformed s p c h x = some k → halts k) ∧
      (runs → qcbBad s p c = false → 16 ≤ c.avail → pkMalformed s p c h x = none → held → Does s e (s.dueOnce e)) ∧
      (runs → qcbBad s p c = false → 16 ≤ c.avail → pkMalformed s p c h x = none → ¬ held → ∃ b, Does s e b ∧ packetOf b p s.nextId = some x ∧
        b.rd (c.at_ + 16) 4 = (c.rd + pkLen h) % c.size ∧ pkEvent p s.nextId x.typ ∈ b.agenda ∧ e ∈ b.agenda)) ∧
    (∀ k x, packetOf s p k = some x → heldAt s p x.qcb = true ∨ filtersTake s [x.qcb] = false → Does s (.packetComplete p k) (s.due (.packetComplete p k))) ∧
    (∀ k x, packetOf s p k = some x → heldAt s p x.qcb = false → filtersTake s [x.qcb] = true → ∃ b, Does s (.packetComplete p k) b ∧
      b.rd (x.qcb + 44) 4 = (bits (s.rd x.qcb 64) 383 352 + 1) % 2 ^ 32 ∧ (b.part p).packets = terase (s.part p).packets k ∧ Event.queuePacketStart p x.queue ∈ b.agenda)

/-- A LAUNCH packet is submitted, tried again while the ready queues are full, or halts its queue with 6; a COPY reads the words
of its source a granule at a time, each once, writes each unit of its destination whole, past the points of its way, and halts
with 8 on a refused page (08 R206, R208); a WAIT completes when its condition holds and reads again until then; SIGNAL and
TIMESTAMP store their dword, and a SIGNAL sends its vector; NOP completes; RESET_QUEUE empties the ring and clears CDONE; INVOKE
sends the request of rinv, past the points of its way, and by its answer completes, tries again, or halts with 7 (19 R462, R464).
A packet waits while die 0 holds its queue's control block or the host memory that it names for a reset (18 R452). -/
def Obligations.QueuePackets : Prop :=  ∀ (s : State) (p k : Nat) (x : Packet), s.MemOk → packetOf s p k = some x →
    let done := fun (t : State) => t.due (.packetComplete p k)
    let row := pkEvent p k x.typ
    (1 ≤ x.typ → x.typ ≤ 8 → heldAt s p x.qcb = true → Does s row (s.due row)) ∧
    (heldAt s p x.qcb = false →
    (x.typ = 1 → ∀ e ∈ [Event.launch p k, .launchRetry p k], ∀ r t, submit s (pkRecord x) (queueDie s p x.queue) (some (p, x.queue, k)) = (r, t) →
      (r = 0 → Does s e t) ∧ (r = -1 → Does s e (t.due (.launchRetry p k))) ∧ (r ≠ 0 → r ≠ -1 → Does s e (refusePacket t p k x 6))) ∧
    (x.typ = 2 → let e := Event.copy p k
      let die := queueDie s p x.queue
      let who := packetWaiter p k
      let dst := x.d 3 + x.pos
      let goes := faultHolds s who x.fault = false ∧ x.pos < x.d 1
      (faultHolds s who x.fault = true → Does s e (s.due e)) ∧
      (faultHolds s who x.fault = false → x.d 1 ≤ x.pos → (x.poisoned = false → Does s e (done s)) ∧ (x.poisoned = true → Does s e (refusePacket s p k x 8))) ∧
      (goes → x.deny ≠ 0 → Does s e (refusePacket s p k x 8)) ∧
      (∀ w, goes → x.deny = 0 → pkUnread x = some w → bitAt w 63 = true →
        let a := aHost (bits w 51 0) - w % 32
        (pkBlocked s p a = true → Does s e (s.due e)) ∧
        (pkBlocked s p a = false → Through s who (unitRead s (unitPlace die) a 32) → ∃ b y, Does s e b ∧ b.mem = s.mem ∧ e ∈ b.agenda ∧
          packetOf b p k = some y ∧ y.pos = x.pos ∧ (visibleStores s s.nextId (pkAccess p k die x a 32) = [] → ∀ i < 4,
            (∀ v, tfind x.seen (w - w % 32 + 8 * i) = some v → tfind y.seen (w - w % 32 + 8 * i) = some v) ∧
            (tfind x.seen (w - w % 32 + 8 * i) = none → tfind y.seen (w - w % 32 + 8 * i) =
              some (BitVec.ofNat 64 (s.rd (a + 8 * i) 8), s.poisoned (a + 8 * i) 8 || s.uncorr (a + 8 * i) 8))))) ∧
      (goes → x.deny = 0 → pkUnread x = none → bitAt dst 63 = true →
        let at_ := aHost (bits dst 51 0)
        let byte := fun (i : Nat) => let o := x.d 2 + x.pos + i; bits (tget x.seen (o / 8 * 8) (0, false)).1.toNat (8 * (o % 8) + 7) (8 * (o % 8))
        (pkBlocked s p at_ = true → Does s e (s.due e)) ∧
        (pkBlocked s p at_ = false → Through s who (unitWrite s (unitPlace die) at_ (pkUnit x)) → ∃ b y, Does s e b ∧ e ∈ b.agenda ∧
          packetOf b p k = some y ∧ y.pos = x.pos + pkUnit x ∧
          ∀ a, memRead b.mem a = if at_ ≤ a ∧ a < at_ + pkUnit x then BitVec.ofNat 8 (byte (a - at_)) else memRead s.mem a))) ∧
    (x.typ = 3 → ∀ e ∈ [Event.wait p k, .waitReread p k], (pkHeld s p x = false → waitHolds s p x = true → Does s e (done s)) ∧
      (pkHeld s p x = true ∨ waitHolds s p x = false → Does s e (s.due (.waitReread p k)))) ∧
    (x.typ = 4 ∨ x.typ = 6 → pkHeld s p x = true → Does s row (s.due row)) ∧
    (x.typ = 4 → ∀ y, sxPlace (s.frontDie p) (x.d 2) = some y → spaceOf y ≠ 8 → pkHeld s p x = false → ∃ b, Does s (.signal p k) b ∧ Stored s.mem b.mem y (x.d 1) 8 ∧
      Event.packetComplete p k ∈ b.agenda ∧ b.outbox = if x.d 3 = 0x7FF then s.outbox else s.outbox ++ [.msix (fnOf s p) (x.d 3)]) ∧
    (x.typ = 6 → ∀ y, sxPlace (s.frontDie p) (x.d 2) = some y → spaceOf y ≠ 8 → pkHeld s p x = false → ∃ b, Does s (.timestamp p k) b ∧ Stored s.mem b.mem y x.time 8 ∧ Event.packetComplete p k ∈ b.agenda) ∧
    (x.typ = 7 → Does s (.nop p k) (done s)) ∧
    (x.typ = 8 → ∃ b, Does s (.resetQueue p k) b ∧ b.rd (x.qcb + 16) 4 = bits (s.rd x.qcb 64) 223 192 ∧ b.rd (x.qcb + 44) 4 = 0 ∧ Event.packetComplete p k ∈ b.agenda) ∧
    (x.typ = 5 → ∀ e ∈ [Event.queueInvoke p k, .invokeRetry p k],
      let die := queueDie s p x.queue
      let unserved := invOutside s die (x.d 2) = true ∧ importServes s die x.owner (x.d 2) = false
      (∀ a, x.answer = some a →
        (a = 0 ∨ a = 1 → Does s e (done s)) ∧
        (a = -1 → ∃ b, Does s e b ∧ packetOf b p k = some { x with answer := none } ∧ Event.invokeRetry p k ∈ b.agenda) ∧
        (a ≠ 0 → a ≠ 1 → a ≠ -1 → Does s e (refusePacket s p k x 7))) ∧
      (x.answer = none → invMalformed (x.d 2) (x.d 3) = true ∨ unserved → Does s e (refusePacket s p k x 7)) ∧
      (x.answer = none → invMalformed (x.d 2) (x.d 3) = false → ¬ unserved →
        let args := (List.range (bits (x.d 3) 27 24)).map (fun n => BitVec.ofNat 64 (x.d (4 + n)))
        let m := invPacket s die (die * 12800) 0 s.nextId (x.d 2) (x.d 3) args
        (portFenced s die m.1 m.2.1 = true → Does s e (refusePacket s p k x 7)) ∧
        (portFenced s die m.1 m.2.1 = false → Through s (packetWaiter p k) (packetWay s (unitPlace die) die m.1 m.2.1) →
          ∃ b, Does s e b ∧ tfind b.reqs s.nextId = some (.queue p k die m.1 m.2.1 m.2.2 0 s.now) ∧ Event.requestReplayTimeout s.nextId ∈ b.agenda))))

/-- In opcode SYSTEM, 0x00000073 traps SOFT and 0x00100073 traps BREAK; fn3 001, 010, 011, 101, 110 and 111 are the CSR
instructions; every other word traps ILLEGAL.  The device's own wfi and tret are words of custom-3 (03 R64).
Bits [1:0] of every instruction word are 0b11.  A word with other bits there, or with bits [4:2] all set, traps ILLEGAL
with the word fetched in TVAL (03 R56).
A MISC-MEM word with fn3 000 is a fence when rd and rs1 are 0 and fm is 0000 or 1000, and then does what fence.s.full.sys
does, whatever its pred and succ hold; with any other rd, rs1 or fm it traps ILLEGAL (03 R63). -/
def Obligations.SystemWords : Prop :=
  (∀ (s : State) (a : Agent) (t : Thread) (w : BitVec 32), s.selected = some a → s.getTh a = some t → fetch (fetching s) a t = .word w →
    let x : State := { fetching s with cur := some a }
    (w = 0x00000073 → Ready x a t .ecall {} → Traps x a .soft 0 0 (step s)) ∧
    (w = 0x00100073 → Ready x a t .ebreak {} → Traps x a .brk 0 0 (step s)) ∧
    (w.extractLsb' 0 7 = 0b1110011 →
      let d := w.extractLsb' 7 5
      let r := w.extractLsb' 15 5
      let n := w.extractLsb' 20 12
      (w.extractLsb' 12 3 = 1 → step s = exec (.csrrw d r n) x) ∧
      (w.extractLsb' 12 3 = 2 → step s = exec (.csrrs d r n) x) ∧
      (w.extractLsb' 12 3 = 3 → step s = exec (.csrrc d r n) x) ∧
      (w.extractLsb' 12 3 = 5 → step s = exec (.csrrwi d n r) x) ∧
      (w.extractLsb' 12 3 = 6 → step s = exec (.csrrsi d n r) x) ∧
      (w.extractLsb' 12 3 = 7 → step s = exec (.csrrci d n r) x) ∧
      ((w.extractLsb' 12 3 = 0 ∨ w.extractLsb' 12 3 = 4) → w ≠ 0x00000073 → w ≠ 0x00100073 →
        step s = .next ((fetching s).takeTrap a .illegal false (w.setWidth 64) 0))) ∧
    (∀ v, decodeWord v = .ok .wfi ∨ decodeWord v = .ok .tret → v.extractLsb' 0 7 = 0b1111011)) ∧
  (((∀ w i, decodeWord w = .ok i → w.extractLsb' 0 2 = 0b11 ∧ w.extractLsb' 2 3 ≠ 0b111) ∧
  ∀ (s : State) (a : Agent) (t : Thread) (w : BitVec 32), s.selected = some a → s.getTh a = some t → fetch (fetching s) a t = .word w →
    (w.extractLsb' 0 2 ≠ 0b11 ∨ w.extractLsb' 2 3 = 0b111) →
      step s = .next ((fetching s).takeTrap a .illegal false (w.setWidth 64) 0))) ∧
  (∀ (s : State) (a : Agent) (t : Thread) (w : BitVec 32), s.selected = some a → s.getTh a = some t → fetch (fetching s) a t = .word w →
    w.extractLsb' 0 7 = 0b0001111 → w.extractLsb' 12 3 = 0 →
    let x : State := { fetching s with cur := some a }
    if w.extractLsb' 7 5 = 0 ∧ w.extractLsb' 15 5 = 0 ∧ (w.extractLsb' 28 4 = 0b0000 ∨ w.extractLsb' 28 4 = 0b1000) then
      ∃ fm p q, step s = exec (.fence fm p q) x ∧ (Ready x a t (.fence fm p q) {} → step s = exec (.fenceS 0b11 0b101) x)
    else step s = .next ((fetching s).takeTrap a .illegal false (w.setWidth 64) 0))

/-- The results of the tile instructions.  A strip's elements, from the sources as they stand before it, each with one
rounding and its flags joined: those of elementOf for tfill, arithmetic, tmin and tmax, tabs and tneg, the bit operations,
tsel, tcmp, the transcendental functions, the conversions, tbcast and ttrans (10 R260-R268, R274, R275); tqnt's elements under
the scale byte of their block, the least whose power of two brings the block's largest magnitude within the format, and that
byte (10 R269; 04 R94); tsum by the tree of 04 R102 over its leaves, trmax and targmax by the first largest leaf that is no NaN
(10 R270-R273); tsparse's two kept elements of each group of four and the positions in the metadata tile (10 R276).  A strip
covers eight rows of the destination, within its valid extent (10 R245-R247). -/
def Obligations.TileElements : Prop :=
  (∀ (op : TileOp) (w : TileWord) (s : State) (core n : Nat) (d a b : Opnd), tileWord op.ins = some w → fmtBits d.fmt ≠ 0 →
    (op.tileOps w = [d] ∨ (op.tileOps w = [d, a] ∧ b = d) ∨ op.tileOps w = [d, a, b]) →
    let out := stripOut op w s core n
    let lo := 8 * n
    let hi := min (8 * n + 8) (min d.rows d.vr)
    (∀ g, elementOf op s core d a b = some g → (a = d ∧ b = d ∨ op.tileOps w ≠ [d]) →
      RowsAre out.rows d lo hi 0 d.vc (fun r c => (g r c).1) ∧ FlagsAre out.flags lo hi 0 d.vc (fun r c => (g r c).2) ∧ out.scales = []) ∧
    (∀ td ta ns, op.ins = .tqnt td ta ns → op.tileOps w = [d, a] →
      let block := fun (r k : Nat) => (List.range' (32 * k) (min 32 (d.vc - 32 * k))).map (a.val s core .zero r)
      let scale := fun (r k : Nat) => blockScale d.fmt (block r k)
      let g := fun (r c : Nat) => quantise d.fmt (scale r (c / 32)) (ns == 0) (a.val s core .zero r c)
      RowsAre out.rows d lo hi 0 d.vc (fun r c => (g r c).1) ∧ FlagsAre out.flags lo hi 0 d.vc (fun r c => (g r c).2) ∧
      ∀ p, p ∈ out.scales ↔ ∃ r k, lo ≤ r ∧ r < hi ∧ 32 * k < d.vc ∧ p = (dScale d.d + r * ((dCols d.d + 31) / 32) + k, scale r k)) ∧
    (∀ axis, axisOf op.ins = some axis → op.tileOps w = [d, a] →
      let top := min (8 * n + 8) (if axis = 0 then min d.rows d.vr else min 1 d.vr)
      let cols := if axis = 1 then d.vc else min 1 d.vc
      let vals := fun (r c : Nat) => (leavesOf axis a r c).map (fun p => a.val s core .zero p.1 p.2.1)
      let sig := fun (r c : Nat) => fIf ((vals r c).any Val.isSig) fNV
      ∃ f g, RowsAre out.rows d lo top 0 cols f ∧ FlagsAre out.flags lo top 0 cols g ∧ out.scales = [] ∧ ∀ r c, lo ≤ r → r < top → c < cols →
        (∀ td ta x, op.ins = .tsum td ta x → f r c = (treeVals d.fmt (vals r c)).1 ∧ g r c = if fmtInt d.fmt then 0 else (treeVals d.fmt (vals r c)).2) ∧
        (∀ td ta x, op.ins = .trmax td ta x →
          (∀ k v, FirstMax (vals r c) k v → f r c = (roundTo d.fmt .rne v).1 ∧ g r c = (roundTo d.fmt .rne v).2 ||| sig r c) ∧
          (vals r c ≠ [] → (∀ v ∈ vals r c, v.isNan = true) → f r c = (roundTo d.fmt .rne (.nan false)).1 ∧ g r c = (roundTo d.fmt .rne (.nan false)).2 ||| sig r c) ∧
          (vals r c = [] → f r c = match d.fmt with | 7 => 0x80 | 8 => 0 | 9 => 0x80000000 | _ => (roundTo d.fmt .rne (.inf true)).1)) ∧
        (∀ td ta x, op.ins = .targmax td ta x → g r c = sig r c ∧
          (∀ k v p, FirstMax (vals r c) k v → (leavesOf axis a r c)[k]? = some p → f r c = p.2.2) ∧
          ((∀ v ∈ vals r c, v.isNan = true) → f r c = 2 ^ 32 - 1))) ∧
    (∀ td ta, op.ins = .tsparse td ta → op.tileOps w = [d, a, b] →
      ∃ (k0 k1 : Nat → Nat → Nat) (x y : List (Opnd × Nat × Nat × List Nat)), out.rows = x ++ y ∧ out.scales = [] ∧
        (∀ r g, Kept (fun k => a.val s core .zero r (4 * g + k)) (k0 r g) (k1 r g)) ∧
        let e := fun (r c : Nat) => copied s core d a r (4 * (c / 2) + if c % 2 = 0 then k0 r (c / 2) else k1 r (c / 2)) r c
        RowsAre x d lo hi 0 d.vc (fun r c => (e r c).1) ∧ FlagsAre out.flags lo hi 0 d.vc (fun r c => (e r c).2) ∧
        RowsAre y b lo (min (min (8 * n + 8) d.rows) b.vr) 0 b.vc (fun r c => k1 r (2 * c) * 4 + k0 r (2 * c) + 16 * (k1 r (2 * c + 1) * 4 + k0 r (2 * c + 1))))) ∧
  (∀ (c : Nat) (l : List Nat), (treeSum c [] = (0, 0)) ∧ (∀ x, treeSum c [x] = (x, 0)) ∧
    (2 ≤ l.length → ∃ w : List Nat, w.length = (l.length + 1) / 2 ∧ (treeSum c l).1 = (treeSum c w).1 ∧
      (∀ i, 2 * i + 1 < l.length → w[i]? = some (treeAdd c (l.getD (2 * i) 0) (l.getD (2 * i + 1) 0)).1) ∧ (l.length % 2 = 1 → w[l.length / 2]? = l.getLast?))) ∧
  (∀ (c : Nat) (l : List Val), c = 4 ∨ c = 5 ∨ c = 6 →
    let k := blockScale c l
    let (m, e) := maxFinite c
    k ≤ 254 ∧ ((∀ v ∈ l, ∀ n x y, v = .fin n x y → x = 0) → k = 127) ∧
    (k < 254 → ∀ n x y, Val.fin n x y ∈ l → finLt false m (e + k - 127) false x y = false) ∧
    (0 < k → (∃ n x y, Val.fin n x y ∈ l ∧ x ≠ 0) → ∃ n x y, Val.fin n x y ∈ l ∧ finLt false m (e + k - 128) false x y = true))

/-- The served entry that ends a step of a core's matrix queue writes what the step says, and nothing else of memory: a block of
C or of gfill's tile with its elements at their places, its flags joined to its thread (12 R305, R308; 13 R339), 128 bytes of
mdld's elements, zeros outside the valid extent, into the core's slice of the side store, or zeros there for mdclr (12 R316).
Each element (i, j) of a block of C is the accumulation of its products over K by 04 R103: A's element (i, k) of the tile, of the
table row that the index names, of the values that the metadata nibble of a group of four leaves at its two positions, or of the
generator, times B's element (j, k), or (k, j) under .tb or of a generator; under .z from 0, else from C's own element (12 R303,
R306, R313, R315; 13 R329, R339).  A position of mmas that no kept value takes gives a zero product or none, a term outside an extent
none, the sign of a sum of zeros follows log 86, and the flags of truncated terms and of infinite results log 111: the model's
choices. -/
def Obligations.MatrixBlocks : Prop :=
  (∀ (s : State) (octet p : Nat) (op : TileOp) (rest : List TileOp), s.MemOk → p < 8 → Served s octet p op rest →
    let core := octet * 8 + p
    let n := op.next
    let slice := aSide octet (p * 2048)
    let blocks := fun (out : StripOut) => ∃ b, Does s (.vernierEntry octet) b ∧ (b.octet octet).entry = ((s.octet octet).entry + 1) % 64 ∧
      (∀ a, ¬ stripBytes core out a → memRead b.mem a = memRead s.mem a) ∧ (Once core out → Holds s b core out) ∧
      (∀ t, tfind s.threads op.slot = some t → t.tag = op.tag → ∃ u, tfind b.threads op.slot = some u ∧ u.fstat = t.fstat ||| out.flags.setWidth 64)
    (∀ w, matWord op.ins = some w → blocks (mulBlock s core op w n)) ∧
    (∀ d g, op.ins = .gfill d g → blocks (fillBlock s core op n)) ∧
    (∀ x y, op.ins = .mdld x y → let o := op.opnd 0 1 false false
      ∃ b, Does s (.vernierEntry octet) b ∧ ∀ a, memRead b.mem a =
        if slice + op.xs.toNat + 128 * n ≤ a ∧ a < slice + op.xs.toNat + min (128 * n + 128) (o.rows * o.cols) then
          let k := a - (slice + op.xs.toNat)
          BitVec.ofNat 8 (if k / o.cols < o.vr ∧ k % o.cols < o.vc then o.codeAt s core (k / o.cols) (k % o.cols) else 0)
        else memRead s.mem a) ∧
    (∀ x, op.ins = .mdclr x → let at_ := slice + bits op.xs.toNat 10 0
      ∃ b, Does s (.vernierEntry octet) b ∧ ∀ a, memRead b.mem a =
        if at_ + 128 * n ≤ a ∧ a < at_ + min (128 * n + 128) (bits op.xs.toNat 27 16) then 0 else memRead s.mem a)) ∧
  (∀ (s : State) (core n : Nat) (op : TileOp) (w : MatWord), matWord op.ins = some w →
    let m := op.matOps w
    let fa := fmtA w m op.gA
    let r0 := 8 * (n % ((m.c.rows + 7) / 8))
    let c0 := 8 * (n / ((m.c.rows + 7) / 8))
    let hi := min (r0 + 8) m.c.vr
    let cols := min (c0 + 8) m.c.vc - c0
    let out := mulBlock s core op w n
    let fresh := w.z = true ∧ (op.q = 0 ∨ op.zonce = false)
    let ps := fun (i j : Nat) => products (rowA s core op w m fa i) (colB s core op w m fa j)
    ∃ g : Nat → Nat → Nat × FlagSet, RowsAre out.rows m.c r0 hi c0 cols (fun i j => (g i j).1) ∧ FlagsAre out.flags r0 hi c0 cols (fun i j => (g i j).2) ∧ out.scales = [] ∧
      ∀ i j, r0 ≤ i → i < hi → c0 ≤ j → j < c0 + cols →
        (fmtInt m.c.fmt = true → (fresh → AccumulatedInt w.sat 0 (ps i j) (g i j)) ∧ (¬ fresh → AccumulatedInt w.sat (intValue 9 (m.c.codeAt s core i j)) (ps i j) (g i j))) ∧
        (fmtInt m.c.fmt = false → (fresh → Accumulated m.c.fmt (exactSum fa) w.sat .zero (ps i j) (g i j)) ∧
          (¬ fresh → Accumulated m.c.fmt (exactSum fa) w.sat (m.c.val s core .zero i j) (ps i j) (g i j)))) ∧
  (∀ (s : State) (core i j : Nat) (op : TileOp) (w : MatWord), matWord op.ins = some w →
    let m := op.matOps w
    let fa := fmtA w m op.gA
    let kc := chunkOf fa
    let at_ := fun (o : Opnd) (r k : Nat) => if r < o.vr ∧ k < o.vc then some (o.val s core .zero r k) else none
    (∀ g, op.gA = some g → ∀ k < kc, (rowA s core op w m fa i)[k]? = some (some (genVal s core g false i (k + op.q * kc)))) ∧
    (∀ a, op.gA = none → m.a = some a → w.gather = false → w.sparse = false → ∀ k < kc, (rowA s core op w m fa i)[k]? = some (at_ a i k)) ∧
    (∀ x t, op.gA = none → m.a = some x → m.t = some t → ∀ k < kc, (rowA s core op w m fa i)[k]? = some
      (if i < x.vr ∧ 0 < x.vc then at_ t (intValue 9 (x.codeAt s core i 0)).toNat k else none)) ∧
    (∀ a, op.gA = none → m.a = some a → w.gather = false → w.sparse = true → ∀ g pos, 2 * g < kc → pos < 4 →
      let meta_ := (memRead s.mem (aSide (octetOf core) (placeOf core * 2048 + op.moff * 128 + i * (kc / 4) + g / 2))).toNat
      let k0 := bits meta_ (4 * (g % 2) + 1) (4 * (g % 2))
      let k1 := bits meta_ (4 * (g % 2) + 3) (4 * (g % 2) + 2)
      ∃ e, (rowA s core op w m fa i)[4 * g + pos]? = some e ∧
        (pos = k0 → pos ≠ k1 → ∀ u, at_ a i (2 * g) = some u → e = some u) ∧ (pos ≠ k0 → pos = k1 → ∀ v, at_ a i (2 * g + 1) = some v → e = some v) ∧
        (pos = k0 → pos = k1 → ∀ u v, at_ a i (2 * g) = some u → at_ a i (2 * g + 1) = some v → e = some (vAdd false u v).1) ∧
        (pos ≠ k0 → pos ≠ k1 → e = some .zero ∨ e = none)) ∧
    (∀ g, op.gB = some g → ∀ k < w.k fa, (colB s core op w m fa j)[k]? = some (some (genVal s core g w.tb (k + op.q * w.k fa) j))) ∧
    (∀ b, op.gB = none → m.b = some b → ∀ k < w.k fa, (colB s core op w m fa j)[k]? = some (if w.tb then at_ b k j else at_ b j k)) ∧
    (∀ x y : List (Option Val), ∀ (k : Nat) (u v : Option Val), x[k]? = some u → y[k]? = some v →
      (products x y)[k]? = some (match u, v with | some p, some q => (vMul p q).1 | _, _ => .zero))) ∧
  (∀ (s : State) (core n : Nat) (op : TileOp) (g : GenCap), op.gA = some g →
    let d := op.opnd 0 0 false true
    let r0 := 8 * (n % ((d.rows + 7) / 8))
    let c0 := 8 * (n / ((d.rows + 7) / 8))
    let e := fun (i j : Nat) => put s core d .rne (genVal s core g false i j, 0) i j
    let out := fillBlock s core op n
    RowsAre out.rows d r0 (min (r0 + 8) d.vr) c0 (min (c0 + 8) d.vc - c0) (fun i j => (e i j).1) ∧
      FlagsAre out.flags r0 (min (r0 + 8) d.vr) c0 (min (c0 + 8) d.vc - c0) (fun i j => (e i j).2) ∧ out.scales = [])

/-- A step of a selected agent runs the instruction that its fetch and the decoder give, on the machine with the step counted;
a word that is no instruction and a fetch that traps take their trap.  A Jowick thread's fetch at or above EXB × 256 traps
OVERLAY, and below it gives the little-endian word of local store at the pc, or traps ECC_UNCORR or POISON on a bad one; where
the word has changed since the thread's last fence.i, the old value may come instead, but none that was bad.  With no agent selected, a step runs the row of the event that it draws (03 R53-R55, R75; the draw is the model's,
log 1). -/
def Obligations.StepRunsDecoded : Prop :=  ∀ s : State,
    (∀ (a : Agent) (t : Thread), s.selected = some a → s.getTh a = some t →
      (∀ w i, fetch (fetching s) a t = .word w → decodeWord w = .ok i → step s = exec i { fetching s with cur := some a }) ∧
      (∀ w e, fetch (fetching s) a t = .word w → decodeWord w = .error e →
        step s = .next ((fetching s).takeTrap a .illegal false (w.setWidth 64) 0)) ∧
      (∀ c v i, fetch (fetching s) a t = .trap c v i → step s = .next ((fetching s).takeTrap a c false v i)) ∧
      (∀ slot, a = .thread slot →
        let c := coreOf slot
        let at_ := aLocal c t.pc.toNat
        ((s.core c).exb * 256 ≤ t.pc.toNat → ∃ v, fetch (fetching s) a t = .trap .overlay t.pc v) ∧
        (t.pc.toNat < (s.core c).exb * 256 →
          ((∀ e ∈ (s.core c).codeLog, e.1 = t.pc.toNat → e.2.2 < t.fenceI) →
            (s.uncorr at_ 4 = true → fetch (fetching s) a t = .trap .eccUncorr t.pc 0) ∧
            (s.uncorr at_ 4 = false → s.poisoned at_ 4 = true → fetch (fetching s) a t = .trap .poison t.pc 0) ∧
            (s.uncorr at_ 4 = false → s.poisoned at_ 4 = false → fetch (fetching s) a t = .word (BitVec.ofNat 32 (s.rd at_ 4)))) ∧
          (∀ w, fetch (fetching s) a t = .word w →
            (w = BitVec.ofNat 32 (s.rd at_ 4) ∧ s.uncorr at_ 4 = false ∧ s.poisoned at_ 4 = false) ∨
            ∃ e ∈ (s.core c).codeLog, e.1 = t.pc.toNat ∧ t.fenceI ≤ e.2.2 ∧ e.2.1 = (w, none))))) ∧
    (s.selected = none → ∀ e rest, drawEvent s = (e, rest) → step s = exec e.row { s with tick := s.tick + 1, agenda := rest, ev := some e })

/-- The row of an event that names units of the module gives a next state; of one that does not, the row stops by name (01 R6,
R14; that the module's own activity is drawn as events is the model's, log 1). -/
def Obligations.EventRows : Prop :=  ∀ (s : State) (e : Event), s.ev = some e →
    (e.wf = true → ∃ b : State, exec e.row s = .next { b with ev := none }) ∧ (e.wf = false → exec e.row s = .fault .noSuchUnit)

/-- The words of the worked encodings, and some written out from the maps, decode to the instructions they stand for (03 R57-R74). -/
def Obligations.DecodeWords : Prop := ∀ p ∈ sampleWords, decodeWord p.1 = .ok p.2

/-- The decoder gives back every well-formed encoded instruction from its word, with every operand at every value; of rows that
share a word, the first (03 R53-R74). -/
def Obligations.DecodeEncode : Prop :=  ∀ (i : Instr) (w : BitVec 32), i.wf = true → encode i = some w → decodeWord w = .ok (firstForm i)

/-- Every word that the decoder takes is the word of the well-formed instruction that it gives: no bit of it is left unread
(03 R53-R74). -/
def Obligations.EncodeDecode : Prop :=  ∀ (w : BitVec 32) (i : Instr), decodeWord w = .ok i → i.wf = true ∧ encode i = some w

/-- Every step keeps the byte memory in its canonical form (06 R136 gives the memories; the form is the model's). -/
def Obligations.StepKeepsMemory : Prop := ∀ s s' : State, s.MemOk → step s = .next s' → s'.MemOk

/-- After module reset every slot is empty, the memory holds nothing and is in canonical form, each core belongs to owner 0
with the default rotation and shadow, LastServed 63, bfmt FP32 in every bank and locklim 4,096, each octet has the default
Vernier table, the invocation queues are 64 deep, and every die's THRCFG holds the fields of its table: DWELL 100, TCRIT 110,
HYST 4, STEP 2 and T0 95 (05 R107, 10 R242, 12 R308, 14 R342, R368, 16 R407, 20 R483). That the thermal and power steps and
the count of changes begin at 0 is the model's choice (log 23). -/
def Obligations.ResetState : Prop :=  let s := State.reset
  s.MemOk ∧ s.mem = [] ∧ (∀ k, s.getTh (.thread k) = none) ∧
  (∀ c, (s.core c).owner = 0 ∧ (s.core c).lastServed = 63 ∧ (s.core c).bfmt = 0x1111111111111111 ∧ (s.core c).locklim = 4096 ∧
    (s.core c).shadow = (s.core c).rot ∧ ∀ p < 64, (s.core c).rotEntry p = 128 + p) ∧
  (∀ q, ∀ e < 64, (tget s.octets q {}).vern e = 128 + e % 8) ∧
  (∀ d, ∀ k < 4, tget (s.die d).inv.depth k 64 = 64) ∧
  (∀ d, (s.die d).plat.thrcfg = 0x000000646E04025F ∧
    let p := (s.die d).plat; p.thH = 0 ∧ p.thK = 0 ∧ p.thCount = 0) ∧ s.powerW = 0
end

