-- ==== Sys2Proof/Laws/Issue.lean ====
section
/-!
SUPPORT. Issue: what the shared issue and retirement of an encoded instruction do, said once.
-/
namespace Sys2Proof.Laws
open Sys2Proof.Machine Sys2Proof.Claims

/-! ### Tables -/

theorem tfind_tset_same {α : Type} (l : Tbl α) (n : Nat) (v : α) : tfind (tset l n v) n = some v := by
  induction l with
  | nil => simp [tset, tfind]
  | cons p r ih =>
    obtain ⟨k, w⟩ := p
    simp only [tset]
    split
    · subst_vars; simp [tfind]
    · split
      · simp [tfind]
      · simp [tfind, *]

theorem tfind_tset_other {α : Type} (l : Tbl α) (n m : Nat) (v : α) (h : m ≠ n) : tfind (tset l n v) m = tfind l m := by
  induction l with
  | nil => simp [tset, tfind, h]
  | cons p r ih =>
    obtain ⟨k, w⟩ := p
    simp only [tset]
    split
    · subst_vars; simp [tfind, h]
    · split
      · simp only [tfind, h, if_false]
        split
        · have : m ≠ k := by omega
          have : m < k := by omega
          simp [*]
        · rfl
      · simp [tfind, ih]

@[simp] theorem tget_tset_same {α : Type} (l : Tbl α) (n : Nat) (v d : α) : tget (tset l n v) n d = v := by
  simp [tget, tfind_tset_same]

theorem tget_tset_other {α : Type} (l : Tbl α) (n m : Nat) (v d : α) (h : m ≠ n) : tget (tset l n v) m d = tget l m d := by
  simp [tget, tfind_tset_other, h]

/-! ### Agents -/

theorem getTh_setTh {s : State} {a : Agent} {t u : Thread} (h : s.getTh a = some t) : (s.setTh a u).getTh a = some u := by
  cases a with
  | thread k => simp [State.setTh, State.getTh, tfind_tset_same]
  | sextant d k =>
    simp only [State.getTh] at h
    split at h
    · simp_all [State.setTh, State.getTh, State.modSx, State.modDie, State.sxThread, State.die]
    · cases h

theorem getTh_fresh (s : State) (a : Agent) : s.fresh.getTh a = s.getTh a := by cases a <;> rfl

/-! ### Registers -/

theorem ent_setEnt (t : Thread) (r k : Nat) (e : RegEnt) :
    (t.setEnt r e).ent k = if k = r ∧ r ≠ 0 then e else t.ent k := by
  unfold Thread.setEnt Thread.ent
  by_cases h0 : r = 0
  · simp [h0]
  · by_cases hk : k = r
    · subst hk; simp [h0]
    · simp [h0, hk, tget_tset_other]

/-- Entries apart, a change of an entry leaves the record alone. -/
theorem setEnt_frame (t : Thread) (r : Nat) (e : RegEnt) : t.setEnt r e = { t with regs := (t.setEnt r e).regs } := by
  unfold Thread.setEnt; split <;> rfl

theorem consume_frame (t : Thread) (r : Nat) : consume t r = { t with regs := (consume t r).regs } := by
  unfold consume
  dsimp only
  split
  · rfl
  · split <;> exact setEnt_frame _ _ _

theorem cnt_toNat_ne {c : BitVec 4} {n : Nat} (h : c ≠ BitVec.ofNat 4 n) (hn : n < 16) : c.toNat ≠ n := by
  intro x; exact h (BitVec.eq_of_toNat_eq (by simpa [Nat.mod_eq_of_lt hn] using x))

theorem consume_ent (t : Thread) (r k : Nat) :
    (consume t r).ent k = if k = r ∧ r ≠ 0 then afterReads (t.ent k) 1 else t.ent k := by
  by_cases h : k = r ∧ r ≠ 0
  · rw [if_pos h]
    obtain ⟨rfl, h0⟩ := h
    unfold consume
    dsimp only
    by_cases hc : (t.ent k).cnt = 0
    · rw [if_pos hc, afterReads, if_pos (Or.inl hc)]
    · rw [if_neg hc, afterReads, if_neg (fun x => Or.elim x hc (by decide))]
      by_cases h1 : (t.ent k).cnt = 1
      · rw [if_pos h1, if_neg (by rw [h1]; decide), ent_setEnt, if_pos ⟨rfl, h0⟩]
      · have a0 := cnt_toNat_ne (n := 0) hc (by omega)
        have a1 := cnt_toNat_ne (n := 1) h1 (by omega)
        rw [if_neg h1, if_pos (by omega), ent_setEnt, if_pos ⟨rfl, h0⟩]
        rfl
  · rw [if_neg h]
    unfold consume
    dsimp only
    split
    · rfl
    · split <;> rw [ent_setEnt, if_neg h]

theorem afterReads_zero (e : RegEnt) : afterReads e 0 = e := by simp [afterReads]

theorem afterReads_add (e : RegEnt) (n m : Nat) : afterReads (afterReads e n) m = afterReads e (n + m) := by
  by_cases hn : n = 0
  · simp [hn, afterReads_zero]
  by_cases hm : m = 0
  · simp [hm, afterReads_zero]
  by_cases hc : e.cnt = 0
  · simp [afterReads, hc]
  by_cases h1 : n < e.cnt.toNat
  · have lt := e.cnt.isLt
    have hs : (e.cnt - BitVec.ofNat 4 n).toNat = e.cnt.toNat - n := by
      rw [BitVec.toNat_sub_of_le (by simp [BitVec.le_def]; omega)]; simp; omega
    have hz : e.cnt - BitVec.ofNat 4 n ≠ 0 := by
      intro x; have := congrArg BitVec.toNat x; rw [hs] at this; simp at this; omega
    have hne : ¬ (n + m = 0) := by omega
    simp only [afterReads, hc, hn, hm, hz, hne, h1, hs, or_self, if_false, if_true]
    by_cases h2 : n + m < e.cnt.toNat
    · rw [if_pos (by omega), if_pos h2]
      congr 1
      apply BitVec.eq_of_toNat_eq
      have h3 : (e.cnt - BitVec.ofNat 4 (n + m)).toNat = e.cnt.toNat - (n + m) := by
        rw [BitVec.toNat_sub_of_le (by simp [BitVec.le_def]; omega)]; simp; omega
      rw [h3, BitVec.toNat_sub_of_le (by rw [BitVec.le_def, hs]; simp; omega), hs]; simp; omega
    · rw [if_neg (by omega), if_neg h2]
  · have h2 : ¬ n + m < e.cnt.toNat := by omega
    have hne : ¬ (n + m = 0) := by omega
    simp only [afterReads, hc, hn, hne, h1, h2, or_self, if_false, true_or, if_true]

theorem consumeAll_frame (l : List (Nat × Nat)) (t : Thread) : consumeAll t l = { t with regs := (consumeAll t l).regs } := by
  induction l generalizing t with
  | nil => rfl
  | cons p r ih =>
    have : consumeAll t (p :: r) = consumeAll (consume t p.2) r := rfl
    rw [this, ih, consume_frame]

theorem consumeAll_ent (l : List (Nat × Nat)) (hl : ∀ p ∈ l, p.2 ≠ 0) (t : Thread) (k : Nat) :
    (consumeAll t l).ent k = afterReads (t.ent k) (l.filter (fun p => p.2 == k)).length := by
  induction l generalizing t with
  | nil => simp [consumeAll, afterReads_zero]
  | cons p r ih =>
    have e : consumeAll t (p :: r) = consumeAll (consume t p.2) r := rfl
    rw [e, ih (fun q hq => hl q (List.mem_cons_of_mem _ hq)), consume_ent]
    have h0 := hl p List.mem_cons_self
    by_cases hk : k = p.2
    · rw [if_pos ⟨hk, h0⟩, afterReads_add, List.filter_cons_of_pos (by simp [hk]), List.length_cons, Nat.add_comm]
    · rw [if_neg (fun x => hk x.1), List.filter_cons_of_neg (by simpa using fun x => hk x.symm)]

theorem entrySrcs_ne (t : Thread) (f : Fields) : ∀ p ∈ entrySrcs t f, p.2 ≠ 0 := by
  intro p hp
  simp only [entrySrcs, List.mem_filter, Bool.and_eq_true] at hp
  simpa using hp.2.1

/-! ### Issue -/

theorem find_none_of {α : Type} {l : List α} {q : α → Bool} (h : ∀ x ∈ l, q x = false) : l.find? q = none := by
  rw [List.find?_eq_none]; intro x hx; simp [h x hx]

theorem regCheck_fine {s : State} {a : Agent} {t : Thread} {i : Instr} {f : Fields} (h : Ready s a t i f) :
    regCheck t f = .fine := by
  unfold regCheck
  rw [find_none_of (fun p hp => by simp [(h.live p hp).1])]
  have h2 : ((entrySrcs t f).filter (fun p => (t.ent p.2).ecc && (t.ent p.2).st == .present)) = [] := by
    rw [List.filter_eq_nil_iff]; intro p hp; simp [(h.live p hp).2]
  have h3 : (itemsRead t f).filter (fun n => t.ecc.contains n) = [] := by
    rw [List.filter_eq_nil_iff]; intro n hn; rw [h.items n hn]; decide
  simp only [h2, h3, List.map_nil, List.append_nil]
  rw [find_none_of (fun p hp => by simpa using h.settled p hp)]

/-- An instruction that is ready passes every shared check. -/
theorem issue_ready {s : State} {a : Agent} {t : Thread} {i : Instr} {f : Fields} (h : Ready s a t i f) (body : Env → Res) :
    issue s a t i f body = finish (envOf s a t i f) f (body (envOf s a t i f)) := by
  have hb : (t.seqr.takes t.pc && !capturable i.word) = false := by
    cases hx : t.seqr.takes t.pc <;> simp [h.block, hx]
  have hm : (needsK f && t.mode == .u) = false := by
    cases hx : needsK f
    · rfl
    · rw [h.mode hx]; rfl
  have hr : rangeBad t f = none := find_none_of (fun p hp => by simpa using h.window p hp)
  have ht : tileBad t f = none := by
    unfold tileBad; rw [find_none_of (fun p hp => by simpa using h.tiles p hp)]; rfl
  have hp : ¬ ((decide (((inWords s a t).take (popFields t f).length).length < (popFields t f).length) || (pushes t f && !hasRoom s a.num t)) = true) := by
    have := h.words
    cases hx : pushes t f
    · simp [List.length_take]; omega
    · simp [List.length_take, h.room hx]; omega
  have hw : ((inWords s a t).take (popFields t f).length).find? (fun w => w.mark.isSome) = none :=
    find_none_of (fun w hw => by simp [h.clean w hw])
  have hq : (t.seqr.reissuing && seqWaits i.word) = false := by
    cases hx : t.seqr.reissuing
    · rfl
    · simp [h.seq hx]
  unfold issue
  simp only [h.unit, hb, h.csr, hm, hr, ht, regCheck_fine h, hw, hq, Bool.not_true, if_false, Bool.false_eq_true]
  rw [if_neg hp]

/-- An instruction that is ready is run: its own checks and effects decide. -/
theorem runIns_ready {s : State} {a : Agent} {t : Thread} {i : Instr} {f : Fields} (h : Ready s a t i f) (body : Env → Res) :
    runIns s i f body = .next { finish (envOf s a t i f) f (body (envOf s a t i f)) with cur := none } := by
  simp only [runIns, h.cur, h.th, issue_ready h]

theorem writeEnt_ent (t : Thread) (r k : Nat) (v : BitVec 64) (c : BitVec 4) :
    (writeEnt t r v c).ent k = if k = r ∧ r ≠ 0 then { val := v, st := .present, cnt := c } else t.ent k := ent_setEnt _ _ _ _

theorem pendEnt_ent (t : Thread) (r k q : Nat) (c : BitVec 4) :
    (pendEnt t r c q).ent k = if k = r ∧ r ≠ 0 then { val := 0, st := .pending, cnt := c, req := q } else t.ent k := ent_setEnt _ _ _ _

/-- The record of the thread once its result has been written. -/
def written (t tb : Thread) (f : Fields) (w : DstW) : Thread :=
  let u := consumeAll tb (entrySrcs t f)
  let c := t.pre.getD 0
  match f.dst, w with
  | some d, .val v => if pushes t f then u else writeEnt u d.toNat v c
  | some d, .pend q => if pushes t f then u else pendEnt u d.toNat c q
  | some d, .marked m => if pushes t f then u else (pendEnt u d.toNat c 0).setMark d.toNat m
  | _, _ => u

theorem regs_trans {t u v : Thread} (h1 : u = { t with regs := u.regs }) (h2 : v = { u with regs := v.regs }) :
    v = { t with regs := v.regs } :=
  calc v = { u with regs := v.regs } := h2
    _ = { t with regs := v.regs } := by rw [h1]

theorem written_frame (t tb : Thread) (f : Fields) (w : DstW) : written t tb f w = { tb with regs := (written t tb f w).regs } := by
  have hc := consumeAll_frame (entrySrcs t f) tb
  unfold written
  dsimp only
  split
  · split
    · exact hc
    · exact regs_trans hc (setEnt_frame _ _ _)
  · split
    · exact hc
    · exact regs_trans hc (setEnt_frame _ _ _)
  · split
    · exact hc
    · exact regs_trans (regs_trans hc (setEnt_frame _ _ _)) (setEnt_frame _ _ _)
  · exact hc

theorem bv5_ne_zero (d : BitVec 5) : (d != 0) = (d.toNat != 0) := by
  revert d; decide

theorem pushes_eq {t : Thread} {f : Fields} {d : BitVec 5} (h : f.dst = some d) :
    pushes t f = (d.toNat != 0 && isOut t d.toNat) := by
  rw [← bv5_ne_zero]; simp [pushes, h]

theorem written_ent (t tb : Thread) (f : Fields) (w : DstW) (k : Nat) : (written t tb f w).ent k = entAfter t tb f w k := by
  have hc : (consumeAll tb (entrySrcs t f)).ent k = afterReads (tb.ent k) (readsOf t f k) :=
    consumeAll_ent _ (entrySrcs_ne t f) tb k
  unfold entAfter
  rw [← hc]
  generalize hu : consumeAll tb (entrySrcs t f) = u
  cases hd : f.dst with
  | none => simp only [written, hd, writesEnt, hu]; rfl
  | some d =>
    have hw : writesEnt t f k = (k == d.toNat && k != 0 && !isOut t k) := by simp [writesEnt, hd]
    have hp := pushes_eq (t := t) hd
    by_cases hout : pushes t f = true
    · have h1 : writesEnt t f k = false := by
        rw [hw]; rw [hp] at hout
        by_cases hk : k = d.toNat
        · subst hk; simp at hout; simp [hout.2]
        · simp [hk]
      rw [h1]
      cases w <;> simp only [written, hd, hout, if_true, hu] <;> rfl
    · rw [Bool.not_eq_true] at hout
      have h1 : writesEnt t f k = decide (k = d.toNat ∧ d.toNat ≠ 0) := by
        rw [hw]; rw [hp] at hout
        by_cases hk : k = d.toNat
        · subst hk
          by_cases h0 : d.toNat = 0
          · simp [h0]
          · simp [h0] at hout; simp [h0, hout]
        · simp [hk]
      rw [h1]
      by_cases hk : k = d.toNat ∧ d.toNat ≠ 0
      · rw [decide_eq_true hk]
        cases w <;> simp only [written, hd, hout, Bool.false_eq_true, if_false, if_true, hu, destEnt, writeEnt_ent, pendEnt_ent,
          Thread.setMark, ent_setEnt, hk, and_self, ne_eq, not_false_eq_true]
      · rw [decide_eq_false hk]
        cases w <;> simp only [written, hd, hout, Bool.false_eq_true, if_false, hu, writeEnt_ent, pendEnt_ent,
          Thread.setMark, ent_setEnt, hk]

theorem hasRoom_queue {s : State} {k : Nat} {t : Thread} (h : hasRoom s k t = true) : ∃ q, outQueue k t = some q := by
  unfold hasRoom at h
  split at h
  · exact ⟨_, by assumption⟩
  · cases h

theorem pushPlace {s : State} {a : Agent} {t : Thread} {f : Fields} (hp : pushes t f = true)
    (hr : hasRoom s a.num t = true) : (((destOf s a t f).push.map (fun p => p.2.2)).getD 0) = s.nextId := by
  obtain ⟨q, hq⟩ := hasRoom_queue hr
  simp [destOf, hp, hq]

theorem captureWord_regs (t : Thread) (r : Tbl RegEnt) (i : Instr) (p x y : BitVec 64) :
    captureWord { t with regs := r } i p x y = { captureWord t i p x y with regs := r } := by
  unfold captureWord
  dsimp only
  split
  · rfl
  · split <;> rfl

theorem captureWord_instret (t : Thread) (i : Instr) (p x y : BitVec 64) : (captureWord t i p x y).instret = t.instret := by
  unfold captureWord
  dsimp only
  split
  · rfl
  · split <;> rfl

theorem captured_regs (s : State) (a : Agent) (t : Thread) (i : Instr) (f : Fields) (u : Thread) (r : Tbl RegEnt) :
    captured s a t i f { u with regs := r } = { captured s a t i f u with regs := r } := by
  unfold captured
  split
  · exact captureWord_regs _ _ _ _ _ _
  · rfl

theorem captured_instret (s : State) (a : Agent) (t : Thread) (i : Instr) (f : Fields) (u : Thread) :
    (captured s a t i f u).instret = u.instret := by
  unfold captured
  split
  · exact captureWord_instret _ _ _ _ _
  · rfl

theorem captured_ent (s : State) (a : Agent) (t : Thread) (i : Instr) (f : Fields) (u : Thread) (k : Nat) :
    (captured s a t i f u).ent k = u.ent k := by
  have : captured s a t i f u = { captured s a t i f u with regs := u.regs } := captured_regs s a t i f u u.regs
  rw [this]; rfl

/-- The record of the thread as retirement leaves it. -/
def retired (s : State) (a : Agent) (t : Thread) (i : Instr) (f : Fields) (tb : Thread) (w : DstW) (pc : Word)
    (pre : Option (BitVec 4)) : Thread :=
  { captured s a t i f (written t tb f w) with
    pre := pre, pc := pc, prevPc := some (t.pc.setWidth 16), instret := (captured s a t i f (written t tb f w)).instret + 1, prog := .none, skip := t.skip && pre.isSome }

theorem retired_after (s : State) (a : Agent) (t : Thread) (i : Instr) (f : Fields) (tb : Thread) (w : DstW) (pc : Word)
    (pre : Option (BitVec 4)) : ThreadAfter s a t i f tb w pc pre (retired s a t i f tb w pc pre) := by
  constructor
  · have h1 : (captured s a t i f (written t tb f w)).instret = tb.instret := by
      rw [captured_instret, written_frame]
    have h2 : captured s a t i f (written t tb f w) = { captured s a t i f tb with regs := (captured s a t i f (written t tb f w)).regs } := by
      rw [written_frame, captured_regs]
    unfold retired
    rw [h1]
    obtain ⟨r, hx⟩ : ∃ r, captured s a t i f (written t tb f w) = { captured s a t i f tb with regs := r } := ⟨_, h2⟩
    rw [hx]
  · intro k
    exact (captured_ent s a t i f _ k).trans (written_ent t tb f w k)

theorem retire_eq {s : State} {a : Agent} {t : Thread} {i : Instr} {f : Fields} {r : Ret} {tb : Thread}
    (hb : r.s.getTh a = some tb) (hr : pushes t f = true → hasRoom s a.num t = true) :
    retire (envOf s a t i f) f r =
      portMoves s a t f r.dst (r.s.setTh a (retired s a t i f tb r.dst (r.pc.getD (t.pc + 4)) r.pre)) := by
  unfold retire portMoves
  simp only [envOf, hb]
  unfold retired captured written
  cases hw : r.dst with
  | none => cases f.dst <;> rfl
  | val v =>
    by_cases hp : pushes t f = true
    · simp only [hp, if_true, pushPlace hp (hr hp)] <;> (cases f.dst <;> rfl)
    · rw [Bool.not_eq_true] at hp
      simp only [hp, Bool.false_eq_true, if_false] <;> (cases f.dst <;> rfl)
  | pend q =>
    by_cases hp : pushes t f = true
    · simp only [hp, if_true, pushPlace hp (hr hp)] <;> (cases f.dst <;> rfl)
    · rw [Bool.not_eq_true] at hp
      simp only [hp, Bool.false_eq_true, if_false] <;> (cases f.dst <;> rfl)
  | marked m =>
    by_cases hp : pushes t f = true
    · simp only [hp, if_true, pushPlace hp (hr hp)] <;> (cases f.dst <;> rfl)
    · rw [Bool.not_eq_true] at hp
      simp only [hp, Bool.false_eq_true, if_false] <;> (cases f.dst <;> rfl)

/-- The retirement of an instruction completes it. -/
theorem retire_completes {s : State} {a : Agent} {t : Thread} {i : Instr} {f : Fields} {r : Ret} {tb : Thread}
    (hb : r.s.getTh a = some tb) (hr : pushes t f = true → hasRoom s a.num t = true) :
    Completes s a t i f r.s r.dst (r.pc.getD (t.pc + 4)) r.pre (.next { retire (envOf s a t i f) f r with cur := none }) :=
  ⟨tb, _, hb, retired_after s a t i f tb r.dst _ r.pre, by rw [retire_eq hb hr]⟩

theorem start_getTh (s : State) (a : Agent) (t : Thread) (f : Fields) : (start s t f).getTh a = s.getTh a := by
  unfold start; split
  · exact getTh_fresh s a
  · rfl

/-- An instruction whose own checks and effects end well completes with what they leave. -/
theorem ready_completes {s : State} {a : Agent} {t : Thread} {i : Instr} {f : Fields} (h : Ready s a t i f)
    {body : Env → Res} {r : Ret} {tb : Thread} (hr : body (envOf s a t i f) = .ok r) (hb : r.s.getTh a = some tb) :
    Completes s a t i f r.s r.dst (r.pc.getD (t.pc + 4)) r.pre (runIns s i f body) := by
  rw [runIns_ready h, hr]
  exact retire_completes hb h.room

/-- An instruction whose own checks find a trap takes it. -/
theorem ready_traps {s : State} {a : Agent} {t : Thread} {i : Instr} {f : Fields} (h : Ready s a t i f) {body : Env → Res}
    {c : Cause} {v w : Word} (hb : body (envOf s a t i f) = .trap c v w) : Traps (start s t f) a c v w (runIns s i f body) := by
  rw [runIns_ready h, hb]; rfl

/-- An instruction that has to wait parks. -/
theorem ready_parks {s x : State} {a : Agent} {t : Thread} {i : Instr} {f : Fields} (h : Ready s a t i f) {body : Env → Res}
    {p : Park} {g : Prog} (hb : body (envOf s a t i f) = .park p g x) : Parks x a p g (runIns s i f body) := by
  rw [runIns_ready h, hb]; rfl

/-! ### The opcode of an instruction's word -/

theorem fld_op (n : Nat) : fld (BitVec.ofNat 32 n) 0 7 = n % 128 := by
  simp only [fld, BitVec.toNat_ofNat]; omega

theorem word_op {i : Instr} {n : Nat} (h : encodeNat i = some n) : fld i.word 0 7 = n % 128 := by
  simp [Instr.word, encode, h, fld_op]

/-- A word outside the tile, matrix and memory opcodes is never captured by rpt, and never waits for it (12 R321, R322). -/
theorem not_capturable {w : BitVec 32} (h1 : fld w 0 7 ≠ 0x0B) (h2 : fld w 0 7 ≠ 0x2B) (h3 : fld w 0 7 ≠ 0x5B) :
    capturable w = false := by
  simp [capturable, h1, h2, h3]

end Sys2Proof.Laws
end

