-- ==== Sys2Proof/Laws/State.lean ====
section
/-!
SUPPORT. State: each field of the module after each named update of it, so that no later proof unfolds a record update.
-/
namespace Sys2Proof.Laws
open Sys2Proof.Machine

/-! ### State.setCore -/

@[simp] theorem setCore_threads (s : State) (c : Nat) (r : Core) : (s.setCore c r).threads = s.threads := rfl
@[simp] theorem setCore_cores (s : State) (c : Nat) (r : Core) : (s.setCore c r).cores = tset s.cores c r := rfl
@[simp] theorem setCore_octets (s : State) (c : Nat) (r : Core) : (s.setCore c r).octets = s.octets := rfl
@[simp] theorem setCore_clusters (s : State) (c : Nat) (r : Core) : (s.setCore c r).clusters = s.clusters := rfl
@[simp] theorem setCore_dies (s : State) (c : Nat) (r : Core) : (s.setCore c r).dies = s.dies := rfl
@[simp] theorem setCore_parts (s : State) (c : Nat) (r : Core) : (s.setCore c r).parts = s.parts := rfl
@[simp] theorem setCore_mynis (s : State) (c : Nat) (r : Core) : (s.setCore c r).mynis = s.mynis := rfl
@[simp] theorem setCore_launches (s : State) (c : Nat) (r : Core) : (s.setCore c r).launches = s.launches := rfl
@[simp] theorem setCore_groups (s : State) (c : Nat) (r : Core) : (s.setCore c r).groups = s.groups := rfl
@[simp] theorem setCore_transfers (s : State) (c : Nat) (r : Core) : (s.setCore c r).transfers = s.transfers := rfl
@[simp] theorem setCore_net (s : State) (c : Nat) (r : Core) : (s.setCore c r).net = s.net := rfl
@[simp] theorem setCore_reqs (s : State) (c : Nat) (r : Core) : (s.setCore c r).reqs = s.reqs := rfl
@[simp] theorem setCore_claims (s : State) (c : Nat) (r : Core) : (s.setCore c r).claims = s.claims := rfl
@[simp] theorem setCore_invals (s : State) (c : Nat) (r : Core) : (s.setCore c r).invals = s.invals := rfl
@[simp] theorem setCore_mem (s : State) (c : Nat) (r : Core) : (s.setCore c r).mem = s.mem := rfl
@[simp] theorem setCore_full (s : State) (c : Nat) (r : Core) : (s.setCore c r).full = s.full := rfl
@[simp] theorem setCore_poison (s : State) (c : Nat) (r : Core) : (s.setCore c r).poison = s.poison := rfl
@[simp] theorem setCore_eccBad (s : State) (c : Nat) (r : Core) : (s.setCore c r).eccBad = s.eccBad := rfl
@[simp] theorem setCore_vfcfg (s : State) (c : Nat) (r : Core) : (s.setCore c r).vfcfg = s.vfcfg := rfl
@[simp] theorem setCore_vfNext (s : State) (c : Nat) (r : Core) : (s.setCore c r).vfNext = s.vfNext := rfl
@[simp] theorem setCore_loader (s : State) (c : Nat) (r : Core) : (s.setCore c r).loader = s.loader := rfl
@[simp] theorem setCore_ldstat (s : State) (c : Nat) (r : Core) : (s.setCore c r).ldstat = s.ldstat := rfl
@[simp] theorem setCore_powerW (s : State) (c : Nat) (r : Core) : (s.setCore c r).powerW = s.powerW := rfl
@[simp] theorem setCore_minVersion (s : State) (c : Nat) (r : Core) : (s.setCore c r).minVersion = s.minVersion := rfl
@[simp] theorem setCore_cxl (s : State) (c : Nat) (r : Core) : (s.setCore c r).cxl = s.cxl := rfl
@[simp] theorem setCore_sessions (s : State) (c : Nat) (r : Core) : (s.setCore c r).sessions = s.sessions := rfl
@[simp] theorem setCore_outbox (s : State) (c : Nat) (r : Core) : (s.setCore c r).outbox = s.outbox := rfl
@[simp] theorem setCore_now (s : State) (c : Nat) (r : Core) : (s.setCore c r).now = s.now := rfl
@[simp] theorem setCore_tick (s : State) (c : Nat) (r : Core) : (s.setCore c r).tick = s.tick := rfl
@[simp] theorem setCore_agenda (s : State) (c : Nat) (r : Core) : (s.setCore c r).agenda = s.agenda := rfl
@[simp] theorem setCore_ev (s : State) (c : Nat) (r : Core) : (s.setCore c r).ev = s.ev := rfl
@[simp] theorem setCore_selected (s : State) (c : Nat) (r : Core) : (s.setCore c r).selected = s.selected := rfl
@[simp] theorem setCore_cur (s : State) (c : Nat) (r : Core) : (s.setCore c r).cur = s.cur := rfl
@[simp] theorem setCore_nextId (s : State) (c : Nat) (r : Core) : (s.setCore c r).nextId = s.nextId := rfl

/-! ### State.modCore -/

@[simp] theorem modCore_threads (s : State) (c : Nat) (f : Core → Core) : (s.modCore c f).threads = s.threads := rfl
@[simp] theorem modCore_cores (s : State) (c : Nat) (f : Core → Core) : (s.modCore c f).cores = tset s.cores c (f (s.core c)) := rfl
@[simp] theorem modCore_octets (s : State) (c : Nat) (f : Core → Core) : (s.modCore c f).octets = s.octets := rfl
@[simp] theorem modCore_clusters (s : State) (c : Nat) (f : Core → Core) : (s.modCore c f).clusters = s.clusters := rfl
@[simp] theorem modCore_dies (s : State) (c : Nat) (f : Core → Core) : (s.modCore c f).dies = s.dies := rfl
@[simp] theorem modCore_parts (s : State) (c : Nat) (f : Core → Core) : (s.modCore c f).parts = s.parts := rfl
@[simp] theorem modCore_mynis (s : State) (c : Nat) (f : Core → Core) : (s.modCore c f).mynis = s.mynis := rfl
@[simp] theorem modCore_launches (s : State) (c : Nat) (f : Core → Core) : (s.modCore c f).launches = s.launches := rfl
@[simp] theorem modCore_groups (s : State) (c : Nat) (f : Core → Core) : (s.modCore c f).groups = s.groups := rfl
@[simp] theorem modCore_transfers (s : State) (c : Nat) (f : Core → Core) : (s.modCore c f).transfers = s.transfers := rfl
@[simp] theorem modCore_net (s : State) (c : Nat) (f : Core → Core) : (s.modCore c f).net = s.net := rfl
@[simp] theorem modCore_reqs (s : State) (c : Nat) (f : Core → Core) : (s.modCore c f).reqs = s.reqs := rfl
@[simp] theorem modCore_claims (s : State) (c : Nat) (f : Core → Core) : (s.modCore c f).claims = s.claims := rfl
@[simp] theorem modCore_invals (s : State) (c : Nat) (f : Core → Core) : (s.modCore c f).invals = s.invals := rfl
@[simp] theorem modCore_mem (s : State) (c : Nat) (f : Core → Core) : (s.modCore c f).mem = s.mem := rfl
@[simp] theorem modCore_full (s : State) (c : Nat) (f : Core → Core) : (s.modCore c f).full = s.full := rfl
@[simp] theorem modCore_poison (s : State) (c : Nat) (f : Core → Core) : (s.modCore c f).poison = s.poison := rfl
@[simp] theorem modCore_eccBad (s : State) (c : Nat) (f : Core → Core) : (s.modCore c f).eccBad = s.eccBad := rfl
@[simp] theorem modCore_vfcfg (s : State) (c : Nat) (f : Core → Core) : (s.modCore c f).vfcfg = s.vfcfg := rfl
@[simp] theorem modCore_vfNext (s : State) (c : Nat) (f : Core → Core) : (s.modCore c f).vfNext = s.vfNext := rfl
@[simp] theorem modCore_loader (s : State) (c : Nat) (f : Core → Core) : (s.modCore c f).loader = s.loader := rfl
@[simp] theorem modCore_ldstat (s : State) (c : Nat) (f : Core → Core) : (s.modCore c f).ldstat = s.ldstat := rfl
@[simp] theorem modCore_powerW (s : State) (c : Nat) (f : Core → Core) : (s.modCore c f).powerW = s.powerW := rfl
@[simp] theorem modCore_minVersion (s : State) (c : Nat) (f : Core → Core) : (s.modCore c f).minVersion = s.minVersion := rfl
@[simp] theorem modCore_cxl (s : State) (c : Nat) (f : Core → Core) : (s.modCore c f).cxl = s.cxl := rfl
@[simp] theorem modCore_sessions (s : State) (c : Nat) (f : Core → Core) : (s.modCore c f).sessions = s.sessions := rfl
@[simp] theorem modCore_outbox (s : State) (c : Nat) (f : Core → Core) : (s.modCore c f).outbox = s.outbox := rfl
@[simp] theorem modCore_now (s : State) (c : Nat) (f : Core → Core) : (s.modCore c f).now = s.now := rfl
@[simp] theorem modCore_tick (s : State) (c : Nat) (f : Core → Core) : (s.modCore c f).tick = s.tick := rfl
@[simp] theorem modCore_agenda (s : State) (c : Nat) (f : Core → Core) : (s.modCore c f).agenda = s.agenda := rfl
@[simp] theorem modCore_ev (s : State) (c : Nat) (f : Core → Core) : (s.modCore c f).ev = s.ev := rfl
@[simp] theorem modCore_selected (s : State) (c : Nat) (f : Core → Core) : (s.modCore c f).selected = s.selected := rfl
@[simp] theorem modCore_cur (s : State) (c : Nat) (f : Core → Core) : (s.modCore c f).cur = s.cur := rfl
@[simp] theorem modCore_nextId (s : State) (c : Nat) (f : Core → Core) : (s.modCore c f).nextId = s.nextId := rfl

/-! ### State.modOctet -/

@[simp] theorem modOctet_threads (s : State) (q : Nat) (f : Octet → Octet) : (s.modOctet q f).threads = s.threads := rfl
@[simp] theorem modOctet_cores (s : State) (q : Nat) (f : Octet → Octet) : (s.modOctet q f).cores = s.cores := rfl
@[simp] theorem modOctet_octets (s : State) (q : Nat) (f : Octet → Octet) : (s.modOctet q f).octets = tset s.octets q (f (s.octet q)) := rfl
@[simp] theorem modOctet_clusters (s : State) (q : Nat) (f : Octet → Octet) : (s.modOctet q f).clusters = s.clusters := rfl
@[simp] theorem modOctet_dies (s : State) (q : Nat) (f : Octet → Octet) : (s.modOctet q f).dies = s.dies := rfl
@[simp] theorem modOctet_parts (s : State) (q : Nat) (f : Octet → Octet) : (s.modOctet q f).parts = s.parts := rfl
@[simp] theorem modOctet_mynis (s : State) (q : Nat) (f : Octet → Octet) : (s.modOctet q f).mynis = s.mynis := rfl
@[simp] theorem modOctet_launches (s : State) (q : Nat) (f : Octet → Octet) : (s.modOctet q f).launches = s.launches := rfl
@[simp] theorem modOctet_groups (s : State) (q : Nat) (f : Octet → Octet) : (s.modOctet q f).groups = s.groups := rfl
@[simp] theorem modOctet_transfers (s : State) (q : Nat) (f : Octet → Octet) : (s.modOctet q f).transfers = s.transfers := rfl
@[simp] theorem modOctet_net (s : State) (q : Nat) (f : Octet → Octet) : (s.modOctet q f).net = s.net := rfl
@[simp] theorem modOctet_reqs (s : State) (q : Nat) (f : Octet → Octet) : (s.modOctet q f).reqs = s.reqs := rfl
@[simp] theorem modOctet_claims (s : State) (q : Nat) (f : Octet → Octet) : (s.modOctet q f).claims = s.claims := rfl
@[simp] theorem modOctet_invals (s : State) (q : Nat) (f : Octet → Octet) : (s.modOctet q f).invals = s.invals := rfl
@[simp] theorem modOctet_mem (s : State) (q : Nat) (f : Octet → Octet) : (s.modOctet q f).mem = s.mem := rfl
@[simp] theorem modOctet_full (s : State) (q : Nat) (f : Octet → Octet) : (s.modOctet q f).full = s.full := rfl
@[simp] theorem modOctet_poison (s : State) (q : Nat) (f : Octet → Octet) : (s.modOctet q f).poison = s.poison := rfl
@[simp] theorem modOctet_eccBad (s : State) (q : Nat) (f : Octet → Octet) : (s.modOctet q f).eccBad = s.eccBad := rfl
@[simp] theorem modOctet_vfcfg (s : State) (q : Nat) (f : Octet → Octet) : (s.modOctet q f).vfcfg = s.vfcfg := rfl
@[simp] theorem modOctet_vfNext (s : State) (q : Nat) (f : Octet → Octet) : (s.modOctet q f).vfNext = s.vfNext := rfl
@[simp] theorem modOctet_loader (s : State) (q : Nat) (f : Octet → Octet) : (s.modOctet q f).loader = s.loader := rfl
@[simp] theorem modOctet_ldstat (s : State) (q : Nat) (f : Octet → Octet) : (s.modOctet q f).ldstat = s.ldstat := rfl
@[simp] theorem modOctet_powerW (s : State) (q : Nat) (f : Octet → Octet) : (s.modOctet q f).powerW = s.powerW := rfl
@[simp] theorem modOctet_minVersion (s : State) (q : Nat) (f : Octet → Octet) : (s.modOctet q f).minVersion = s.minVersion := rfl
@[simp] theorem modOctet_cxl (s : State) (q : Nat) (f : Octet → Octet) : (s.modOctet q f).cxl = s.cxl := rfl
@[simp] theorem modOctet_sessions (s : State) (q : Nat) (f : Octet → Octet) : (s.modOctet q f).sessions = s.sessions := rfl
@[simp] theorem modOctet_outbox (s : State) (q : Nat) (f : Octet → Octet) : (s.modOctet q f).outbox = s.outbox := rfl
@[simp] theorem modOctet_now (s : State) (q : Nat) (f : Octet → Octet) : (s.modOctet q f).now = s.now := rfl
@[simp] theorem modOctet_tick (s : State) (q : Nat) (f : Octet → Octet) : (s.modOctet q f).tick = s.tick := rfl
@[simp] theorem modOctet_agenda (s : State) (q : Nat) (f : Octet → Octet) : (s.modOctet q f).agenda = s.agenda := rfl
@[simp] theorem modOctet_ev (s : State) (q : Nat) (f : Octet → Octet) : (s.modOctet q f).ev = s.ev := rfl
@[simp] theorem modOctet_selected (s : State) (q : Nat) (f : Octet → Octet) : (s.modOctet q f).selected = s.selected := rfl
@[simp] theorem modOctet_cur (s : State) (q : Nat) (f : Octet → Octet) : (s.modOctet q f).cur = s.cur := rfl
@[simp] theorem modOctet_nextId (s : State) (q : Nat) (f : Octet → Octet) : (s.modOctet q f).nextId = s.nextId := rfl

/-! ### State.modCluster -/

@[simp] theorem modCluster_threads (s : State) (c : Nat) (f : Cluster → Cluster) : (s.modCluster c f).threads = s.threads := rfl
@[simp] theorem modCluster_cores (s : State) (c : Nat) (f : Cluster → Cluster) : (s.modCluster c f).cores = s.cores := rfl
@[simp] theorem modCluster_octets (s : State) (c : Nat) (f : Cluster → Cluster) : (s.modCluster c f).octets = s.octets := rfl
@[simp] theorem modCluster_clusters (s : State) (c : Nat) (f : Cluster → Cluster) : (s.modCluster c f).clusters = tset s.clusters c (f (s.cluster c)) := rfl
@[simp] theorem modCluster_dies (s : State) (c : Nat) (f : Cluster → Cluster) : (s.modCluster c f).dies = s.dies := rfl
@[simp] theorem modCluster_parts (s : State) (c : Nat) (f : Cluster → Cluster) : (s.modCluster c f).parts = s.parts := rfl
@[simp] theorem modCluster_mynis (s : State) (c : Nat) (f : Cluster → Cluster) : (s.modCluster c f).mynis = s.mynis := rfl
@[simp] theorem modCluster_launches (s : State) (c : Nat) (f : Cluster → Cluster) : (s.modCluster c f).launches = s.launches := rfl
@[simp] theorem modCluster_groups (s : State) (c : Nat) (f : Cluster → Cluster) : (s.modCluster c f).groups = s.groups := rfl
@[simp] theorem modCluster_transfers (s : State) (c : Nat) (f : Cluster → Cluster) : (s.modCluster c f).transfers = s.transfers := rfl
@[simp] theorem modCluster_net (s : State) (c : Nat) (f : Cluster → Cluster) : (s.modCluster c f).net = s.net := rfl
@[simp] theorem modCluster_reqs (s : State) (c : Nat) (f : Cluster → Cluster) : (s.modCluster c f).reqs = s.reqs := rfl
@[simp] theorem modCluster_claims (s : State) (c : Nat) (f : Cluster → Cluster) : (s.modCluster c f).claims = s.claims := rfl
@[simp] theorem modCluster_invals (s : State) (c : Nat) (f : Cluster → Cluster) : (s.modCluster c f).invals = s.invals := rfl
@[simp] theorem modCluster_mem (s : State) (c : Nat) (f : Cluster → Cluster) : (s.modCluster c f).mem = s.mem := rfl
@[simp] theorem modCluster_full (s : State) (c : Nat) (f : Cluster → Cluster) : (s.modCluster c f).full = s.full := rfl
@[simp] theorem modCluster_poison (s : State) (c : Nat) (f : Cluster → Cluster) : (s.modCluster c f).poison = s.poison := rfl
@[simp] theorem modCluster_eccBad (s : State) (c : Nat) (f : Cluster → Cluster) : (s.modCluster c f).eccBad = s.eccBad := rfl
@[simp] theorem modCluster_vfcfg (s : State) (c : Nat) (f : Cluster → Cluster) : (s.modCluster c f).vfcfg = s.vfcfg := rfl
@[simp] theorem modCluster_vfNext (s : State) (c : Nat) (f : Cluster → Cluster) : (s.modCluster c f).vfNext = s.vfNext := rfl
@[simp] theorem modCluster_loader (s : State) (c : Nat) (f : Cluster → Cluster) : (s.modCluster c f).loader = s.loader := rfl
@[simp] theorem modCluster_ldstat (s : State) (c : Nat) (f : Cluster → Cluster) : (s.modCluster c f).ldstat = s.ldstat := rfl
@[simp] theorem modCluster_powerW (s : State) (c : Nat) (f : Cluster → Cluster) : (s.modCluster c f).powerW = s.powerW := rfl
@[simp] theorem modCluster_minVersion (s : State) (c : Nat) (f : Cluster → Cluster) : (s.modCluster c f).minVersion = s.minVersion := rfl
@[simp] theorem modCluster_cxl (s : State) (c : Nat) (f : Cluster → Cluster) : (s.modCluster c f).cxl = s.cxl := rfl
@[simp] theorem modCluster_sessions (s : State) (c : Nat) (f : Cluster → Cluster) : (s.modCluster c f).sessions = s.sessions := rfl
@[simp] theorem modCluster_outbox (s : State) (c : Nat) (f : Cluster → Cluster) : (s.modCluster c f).outbox = s.outbox := rfl
@[simp] theorem modCluster_now (s : State) (c : Nat) (f : Cluster → Cluster) : (s.modCluster c f).now = s.now := rfl
@[simp] theorem modCluster_tick (s : State) (c : Nat) (f : Cluster → Cluster) : (s.modCluster c f).tick = s.tick := rfl
@[simp] theorem modCluster_agenda (s : State) (c : Nat) (f : Cluster → Cluster) : (s.modCluster c f).agenda = s.agenda := rfl
@[simp] theorem modCluster_ev (s : State) (c : Nat) (f : Cluster → Cluster) : (s.modCluster c f).ev = s.ev := rfl
@[simp] theorem modCluster_selected (s : State) (c : Nat) (f : Cluster → Cluster) : (s.modCluster c f).selected = s.selected := rfl
@[simp] theorem modCluster_cur (s : State) (c : Nat) (f : Cluster → Cluster) : (s.modCluster c f).cur = s.cur := rfl
@[simp] theorem modCluster_nextId (s : State) (c : Nat) (f : Cluster → Cluster) : (s.modCluster c f).nextId = s.nextId := rfl

/-! ### State.modDie -/

@[simp] theorem modDie_threads (s : State) (d : Nat) (f : Die → Die) : (s.modDie d f).threads = s.threads := rfl
@[simp] theorem modDie_cores (s : State) (d : Nat) (f : Die → Die) : (s.modDie d f).cores = s.cores := rfl
@[simp] theorem modDie_octets (s : State) (d : Nat) (f : Die → Die) : (s.modDie d f).octets = s.octets := rfl
@[simp] theorem modDie_clusters (s : State) (d : Nat) (f : Die → Die) : (s.modDie d f).clusters = s.clusters := rfl
@[simp] theorem modDie_dies (s : State) (d : Nat) (f : Die → Die) : (s.modDie d f).dies = tset s.dies d (f (s.die d)) := rfl
@[simp] theorem modDie_parts (s : State) (d : Nat) (f : Die → Die) : (s.modDie d f).parts = s.parts := rfl
@[simp] theorem modDie_mynis (s : State) (d : Nat) (f : Die → Die) : (s.modDie d f).mynis = s.mynis := rfl
@[simp] theorem modDie_launches (s : State) (d : Nat) (f : Die → Die) : (s.modDie d f).launches = s.launches := rfl
@[simp] theorem modDie_groups (s : State) (d : Nat) (f : Die → Die) : (s.modDie d f).groups = s.groups := rfl
@[simp] theorem modDie_transfers (s : State) (d : Nat) (f : Die → Die) : (s.modDie d f).transfers = s.transfers := rfl
@[simp] theorem modDie_net (s : State) (d : Nat) (f : Die → Die) : (s.modDie d f).net = s.net := rfl
@[simp] theorem modDie_reqs (s : State) (d : Nat) (f : Die → Die) : (s.modDie d f).reqs = s.reqs := rfl
@[simp] theorem modDie_claims (s : State) (d : Nat) (f : Die → Die) : (s.modDie d f).claims = s.claims := rfl
@[simp] theorem modDie_invals (s : State) (d : Nat) (f : Die → Die) : (s.modDie d f).invals = s.invals := rfl
@[simp] theorem modDie_mem (s : State) (d : Nat) (f : Die → Die) : (s.modDie d f).mem = s.mem := rfl
@[simp] theorem modDie_full (s : State) (d : Nat) (f : Die → Die) : (s.modDie d f).full = s.full := rfl
@[simp] theorem modDie_poison (s : State) (d : Nat) (f : Die → Die) : (s.modDie d f).poison = s.poison := rfl
@[simp] theorem modDie_eccBad (s : State) (d : Nat) (f : Die → Die) : (s.modDie d f).eccBad = s.eccBad := rfl
@[simp] theorem modDie_vfcfg (s : State) (d : Nat) (f : Die → Die) : (s.modDie d f).vfcfg = s.vfcfg := rfl
@[simp] theorem modDie_vfNext (s : State) (d : Nat) (f : Die → Die) : (s.modDie d f).vfNext = s.vfNext := rfl
@[simp] theorem modDie_loader (s : State) (d : Nat) (f : Die → Die) : (s.modDie d f).loader = s.loader := rfl
@[simp] theorem modDie_ldstat (s : State) (d : Nat) (f : Die → Die) : (s.modDie d f).ldstat = s.ldstat := rfl
@[simp] theorem modDie_powerW (s : State) (d : Nat) (f : Die → Die) : (s.modDie d f).powerW = s.powerW := rfl
@[simp] theorem modDie_minVersion (s : State) (d : Nat) (f : Die → Die) : (s.modDie d f).minVersion = s.minVersion := rfl
@[simp] theorem modDie_cxl (s : State) (d : Nat) (f : Die → Die) : (s.modDie d f).cxl = s.cxl := rfl
@[simp] theorem modDie_sessions (s : State) (d : Nat) (f : Die → Die) : (s.modDie d f).sessions = s.sessions := rfl
@[simp] theorem modDie_outbox (s : State) (d : Nat) (f : Die → Die) : (s.modDie d f).outbox = s.outbox := rfl
@[simp] theorem modDie_now (s : State) (d : Nat) (f : Die → Die) : (s.modDie d f).now = s.now := rfl
@[simp] theorem modDie_tick (s : State) (d : Nat) (f : Die → Die) : (s.modDie d f).tick = s.tick := rfl
@[simp] theorem modDie_agenda (s : State) (d : Nat) (f : Die → Die) : (s.modDie d f).agenda = s.agenda := rfl
@[simp] theorem modDie_ev (s : State) (d : Nat) (f : Die → Die) : (s.modDie d f).ev = s.ev := rfl
@[simp] theorem modDie_selected (s : State) (d : Nat) (f : Die → Die) : (s.modDie d f).selected = s.selected := rfl
@[simp] theorem modDie_cur (s : State) (d : Nat) (f : Die → Die) : (s.modDie d f).cur = s.cur := rfl
@[simp] theorem modDie_nextId (s : State) (d : Nat) (f : Die → Die) : (s.modDie d f).nextId = s.nextId := rfl

/-! ### State.modPart -/

@[simp] theorem modPart_threads (s : State) (p : Nat) (f : Part → Part) : (s.modPart p f).threads = s.threads := rfl
@[simp] theorem modPart_cores (s : State) (p : Nat) (f : Part → Part) : (s.modPart p f).cores = s.cores := rfl
@[simp] theorem modPart_octets (s : State) (p : Nat) (f : Part → Part) : (s.modPart p f).octets = s.octets := rfl
@[simp] theorem modPart_clusters (s : State) (p : Nat) (f : Part → Part) : (s.modPart p f).clusters = s.clusters := rfl
@[simp] theorem modPart_dies (s : State) (p : Nat) (f : Part → Part) : (s.modPart p f).dies = s.dies := rfl
@[simp] theorem modPart_parts (s : State) (p : Nat) (f : Part → Part) : (s.modPart p f).parts = tset s.parts p (f (s.part p)) := rfl
@[simp] theorem modPart_mynis (s : State) (p : Nat) (f : Part → Part) : (s.modPart p f).mynis = s.mynis := rfl
@[simp] theorem modPart_launches (s : State) (p : Nat) (f : Part → Part) : (s.modPart p f).launches = s.launches := rfl
@[simp] theorem modPart_groups (s : State) (p : Nat) (f : Part → Part) : (s.modPart p f).groups = s.groups := rfl
@[simp] theorem modPart_transfers (s : State) (p : Nat) (f : Part → Part) : (s.modPart p f).transfers = s.transfers := rfl
@[simp] theorem modPart_net (s : State) (p : Nat) (f : Part → Part) : (s.modPart p f).net = s.net := rfl
@[simp] theorem modPart_reqs (s : State) (p : Nat) (f : Part → Part) : (s.modPart p f).reqs = s.reqs := rfl
@[simp] theorem modPart_claims (s : State) (p : Nat) (f : Part → Part) : (s.modPart p f).claims = s.claims := rfl
@[simp] theorem modPart_invals (s : State) (p : Nat) (f : Part → Part) : (s.modPart p f).invals = s.invals := rfl
@[simp] theorem modPart_mem (s : State) (p : Nat) (f : Part → Part) : (s.modPart p f).mem = s.mem := rfl
@[simp] theorem modPart_full (s : State) (p : Nat) (f : Part → Part) : (s.modPart p f).full = s.full := rfl
@[simp] theorem modPart_poison (s : State) (p : Nat) (f : Part → Part) : (s.modPart p f).poison = s.poison := rfl
@[simp] theorem modPart_eccBad (s : State) (p : Nat) (f : Part → Part) : (s.modPart p f).eccBad = s.eccBad := rfl
@[simp] theorem modPart_vfcfg (s : State) (p : Nat) (f : Part → Part) : (s.modPart p f).vfcfg = s.vfcfg := rfl
@[simp] theorem modPart_vfNext (s : State) (p : Nat) (f : Part → Part) : (s.modPart p f).vfNext = s.vfNext := rfl
@[simp] theorem modPart_loader (s : State) (p : Nat) (f : Part → Part) : (s.modPart p f).loader = s.loader := rfl
@[simp] theorem modPart_ldstat (s : State) (p : Nat) (f : Part → Part) : (s.modPart p f).ldstat = s.ldstat := rfl
@[simp] theorem modPart_powerW (s : State) (p : Nat) (f : Part → Part) : (s.modPart p f).powerW = s.powerW := rfl
@[simp] theorem modPart_minVersion (s : State) (p : Nat) (f : Part → Part) : (s.modPart p f).minVersion = s.minVersion := rfl
@[simp] theorem modPart_cxl (s : State) (p : Nat) (f : Part → Part) : (s.modPart p f).cxl = s.cxl := rfl
@[simp] theorem modPart_sessions (s : State) (p : Nat) (f : Part → Part) : (s.modPart p f).sessions = s.sessions := rfl
@[simp] theorem modPart_outbox (s : State) (p : Nat) (f : Part → Part) : (s.modPart p f).outbox = s.outbox := rfl
@[simp] theorem modPart_now (s : State) (p : Nat) (f : Part → Part) : (s.modPart p f).now = s.now := rfl
@[simp] theorem modPart_tick (s : State) (p : Nat) (f : Part → Part) : (s.modPart p f).tick = s.tick := rfl
@[simp] theorem modPart_agenda (s : State) (p : Nat) (f : Part → Part) : (s.modPart p f).agenda = s.agenda := rfl
@[simp] theorem modPart_ev (s : State) (p : Nat) (f : Part → Part) : (s.modPart p f).ev = s.ev := rfl
@[simp] theorem modPart_selected (s : State) (p : Nat) (f : Part → Part) : (s.modPart p f).selected = s.selected := rfl
@[simp] theorem modPart_cur (s : State) (p : Nat) (f : Part → Part) : (s.modPart p f).cur = s.cur := rfl
@[simp] theorem modPart_nextId (s : State) (p : Nat) (f : Part → Part) : (s.modPart p f).nextId = s.nextId := rfl

/-! ### State.modPort -/

@[simp] theorem modPort_threads (s : State) (p : Nat) (f : Mynis → Mynis) : (s.modPort p f).threads = s.threads := rfl
@[simp] theorem modPort_cores (s : State) (p : Nat) (f : Mynis → Mynis) : (s.modPort p f).cores = s.cores := rfl
@[simp] theorem modPort_octets (s : State) (p : Nat) (f : Mynis → Mynis) : (s.modPort p f).octets = s.octets := rfl
@[simp] theorem modPort_clusters (s : State) (p : Nat) (f : Mynis → Mynis) : (s.modPort p f).clusters = s.clusters := rfl
@[simp] theorem modPort_dies (s : State) (p : Nat) (f : Mynis → Mynis) : (s.modPort p f).dies = s.dies := rfl
@[simp] theorem modPort_parts (s : State) (p : Nat) (f : Mynis → Mynis) : (s.modPort p f).parts = s.parts := rfl
@[simp] theorem modPort_mynis (s : State) (p : Nat) (f : Mynis → Mynis) : (s.modPort p f).mynis = tset s.mynis p (f (s.port p)) := rfl
@[simp] theorem modPort_launches (s : State) (p : Nat) (f : Mynis → Mynis) : (s.modPort p f).launches = s.launches := rfl
@[simp] theorem modPort_groups (s : State) (p : Nat) (f : Mynis → Mynis) : (s.modPort p f).groups = s.groups := rfl
@[simp] theorem modPort_transfers (s : State) (p : Nat) (f : Mynis → Mynis) : (s.modPort p f).transfers = s.transfers := rfl
@[simp] theorem modPort_net (s : State) (p : Nat) (f : Mynis → Mynis) : (s.modPort p f).net = s.net := rfl
@[simp] theorem modPort_reqs (s : State) (p : Nat) (f : Mynis → Mynis) : (s.modPort p f).reqs = s.reqs := rfl
@[simp] theorem modPort_claims (s : State) (p : Nat) (f : Mynis → Mynis) : (s.modPort p f).claims = s.claims := rfl
@[simp] theorem modPort_invals (s : State) (p : Nat) (f : Mynis → Mynis) : (s.modPort p f).invals = s.invals := rfl
@[simp] theorem modPort_mem (s : State) (p : Nat) (f : Mynis → Mynis) : (s.modPort p f).mem = s.mem := rfl
@[simp] theorem modPort_full (s : State) (p : Nat) (f : Mynis → Mynis) : (s.modPort p f).full = s.full := rfl
@[simp] theorem modPort_poison (s : State) (p : Nat) (f : Mynis → Mynis) : (s.modPort p f).poison = s.poison := rfl
@[simp] theorem modPort_eccBad (s : State) (p : Nat) (f : Mynis → Mynis) : (s.modPort p f).eccBad = s.eccBad := rfl
@[simp] theorem modPort_vfcfg (s : State) (p : Nat) (f : Mynis → Mynis) : (s.modPort p f).vfcfg = s.vfcfg := rfl
@[simp] theorem modPort_vfNext (s : State) (p : Nat) (f : Mynis → Mynis) : (s.modPort p f).vfNext = s.vfNext := rfl
@[simp] theorem modPort_loader (s : State) (p : Nat) (f : Mynis → Mynis) : (s.modPort p f).loader = s.loader := rfl
@[simp] theorem modPort_ldstat (s : State) (p : Nat) (f : Mynis → Mynis) : (s.modPort p f).ldstat = s.ldstat := rfl
@[simp] theorem modPort_powerW (s : State) (p : Nat) (f : Mynis → Mynis) : (s.modPort p f).powerW = s.powerW := rfl
@[simp] theorem modPort_minVersion (s : State) (p : Nat) (f : Mynis → Mynis) : (s.modPort p f).minVersion = s.minVersion := rfl
@[simp] theorem modPort_cxl (s : State) (p : Nat) (f : Mynis → Mynis) : (s.modPort p f).cxl = s.cxl := rfl
@[simp] theorem modPort_sessions (s : State) (p : Nat) (f : Mynis → Mynis) : (s.modPort p f).sessions = s.sessions := rfl
@[simp] theorem modPort_outbox (s : State) (p : Nat) (f : Mynis → Mynis) : (s.modPort p f).outbox = s.outbox := rfl
@[simp] theorem modPort_now (s : State) (p : Nat) (f : Mynis → Mynis) : (s.modPort p f).now = s.now := rfl
@[simp] theorem modPort_tick (s : State) (p : Nat) (f : Mynis → Mynis) : (s.modPort p f).tick = s.tick := rfl
@[simp] theorem modPort_agenda (s : State) (p : Nat) (f : Mynis → Mynis) : (s.modPort p f).agenda = s.agenda := rfl
@[simp] theorem modPort_ev (s : State) (p : Nat) (f : Mynis → Mynis) : (s.modPort p f).ev = s.ev := rfl
@[simp] theorem modPort_selected (s : State) (p : Nat) (f : Mynis → Mynis) : (s.modPort p f).selected = s.selected := rfl
@[simp] theorem modPort_cur (s : State) (p : Nat) (f : Mynis → Mynis) : (s.modPort p f).cur = s.cur := rfl
@[simp] theorem modPort_nextId (s : State) (p : Nat) (f : Mynis → Mynis) : (s.modPort p f).nextId = s.nextId := rfl

/-! ### State.modXlat -/

@[simp] theorem modXlat_threads (s : State) (d : Nat) (f : Xlat → Xlat) : (s.modXlat d f).threads = s.threads := rfl
@[simp] theorem modXlat_cores (s : State) (d : Nat) (f : Xlat → Xlat) : (s.modXlat d f).cores = s.cores := rfl
@[simp] theorem modXlat_octets (s : State) (d : Nat) (f : Xlat → Xlat) : (s.modXlat d f).octets = s.octets := rfl
@[simp] theorem modXlat_clusters (s : State) (d : Nat) (f : Xlat → Xlat) : (s.modXlat d f).clusters = s.clusters := rfl
@[simp] theorem modXlat_parts (s : State) (d : Nat) (f : Xlat → Xlat) : (s.modXlat d f).parts = s.parts := rfl
@[simp] theorem modXlat_mynis (s : State) (d : Nat) (f : Xlat → Xlat) : (s.modXlat d f).mynis = s.mynis := rfl
@[simp] theorem modXlat_launches (s : State) (d : Nat) (f : Xlat → Xlat) : (s.modXlat d f).launches = s.launches := rfl
@[simp] theorem modXlat_groups (s : State) (d : Nat) (f : Xlat → Xlat) : (s.modXlat d f).groups = s.groups := rfl
@[simp] theorem modXlat_transfers (s : State) (d : Nat) (f : Xlat → Xlat) : (s.modXlat d f).transfers = s.transfers := rfl
@[simp] theorem modXlat_net (s : State) (d : Nat) (f : Xlat → Xlat) : (s.modXlat d f).net = s.net := rfl
@[simp] theorem modXlat_reqs (s : State) (d : Nat) (f : Xlat → Xlat) : (s.modXlat d f).reqs = s.reqs := rfl
@[simp] theorem modXlat_claims (s : State) (d : Nat) (f : Xlat → Xlat) : (s.modXlat d f).claims = s.claims := rfl
@[simp] theorem modXlat_invals (s : State) (d : Nat) (f : Xlat → Xlat) : (s.modXlat d f).invals = s.invals := rfl
@[simp] theorem modXlat_mem (s : State) (d : Nat) (f : Xlat → Xlat) : (s.modXlat d f).mem = s.mem := rfl
@[simp] theorem modXlat_full (s : State) (d : Nat) (f : Xlat → Xlat) : (s.modXlat d f).full = s.full := rfl
@[simp] theorem modXlat_poison (s : State) (d : Nat) (f : Xlat → Xlat) : (s.modXlat d f).poison = s.poison := rfl
@[simp] theorem modXlat_eccBad (s : State) (d : Nat) (f : Xlat → Xlat) : (s.modXlat d f).eccBad = s.eccBad := rfl
@[simp] theorem modXlat_vfcfg (s : State) (d : Nat) (f : Xlat → Xlat) : (s.modXlat d f).vfcfg = s.vfcfg := rfl
@[simp] theorem modXlat_vfNext (s : State) (d : Nat) (f : Xlat → Xlat) : (s.modXlat d f).vfNext = s.vfNext := rfl
@[simp] theorem modXlat_loader (s : State) (d : Nat) (f : Xlat → Xlat) : (s.modXlat d f).loader = s.loader := rfl
@[simp] theorem modXlat_ldstat (s : State) (d : Nat) (f : Xlat → Xlat) : (s.modXlat d f).ldstat = s.ldstat := rfl
@[simp] theorem modXlat_powerW (s : State) (d : Nat) (f : Xlat → Xlat) : (s.modXlat d f).powerW = s.powerW := rfl
@[simp] theorem modXlat_minVersion (s : State) (d : Nat) (f : Xlat → Xlat) : (s.modXlat d f).minVersion = s.minVersion := rfl
@[simp] theorem modXlat_cxl (s : State) (d : Nat) (f : Xlat → Xlat) : (s.modXlat d f).cxl = s.cxl := rfl
@[simp] theorem modXlat_sessions (s : State) (d : Nat) (f : Xlat → Xlat) : (s.modXlat d f).sessions = s.sessions := rfl
@[simp] theorem modXlat_outbox (s : State) (d : Nat) (f : Xlat → Xlat) : (s.modXlat d f).outbox = s.outbox := rfl
@[simp] theorem modXlat_now (s : State) (d : Nat) (f : Xlat → Xlat) : (s.modXlat d f).now = s.now := rfl
@[simp] theorem modXlat_tick (s : State) (d : Nat) (f : Xlat → Xlat) : (s.modXlat d f).tick = s.tick := rfl
@[simp] theorem modXlat_agenda (s : State) (d : Nat) (f : Xlat → Xlat) : (s.modXlat d f).agenda = s.agenda := rfl
@[simp] theorem modXlat_ev (s : State) (d : Nat) (f : Xlat → Xlat) : (s.modXlat d f).ev = s.ev := rfl
@[simp] theorem modXlat_selected (s : State) (d : Nat) (f : Xlat → Xlat) : (s.modXlat d f).selected = s.selected := rfl
@[simp] theorem modXlat_cur (s : State) (d : Nat) (f : Xlat → Xlat) : (s.modXlat d f).cur = s.cur := rfl
@[simp] theorem modXlat_nextId (s : State) (d : Nat) (f : Xlat → Xlat) : (s.modXlat d f).nextId = s.nextId := rfl

/-! ### State.modPlat -/

@[simp] theorem modPlat_threads (s : State) (d : Nat) (f : Plat → Plat) : (s.modPlat d f).threads = s.threads := rfl
@[simp] theorem modPlat_cores (s : State) (d : Nat) (f : Plat → Plat) : (s.modPlat d f).cores = s.cores := rfl
@[simp] theorem modPlat_octets (s : State) (d : Nat) (f : Plat → Plat) : (s.modPlat d f).octets = s.octets := rfl
@[simp] theorem modPlat_clusters (s : State) (d : Nat) (f : Plat → Plat) : (s.modPlat d f).clusters = s.clusters := rfl
@[simp] theorem modPlat_parts (s : State) (d : Nat) (f : Plat → Plat) : (s.modPlat d f).parts = s.parts := rfl
@[simp] theorem modPlat_mynis (s : State) (d : Nat) (f : Plat → Plat) : (s.modPlat d f).mynis = s.mynis := rfl
@[simp] theorem modPlat_launches (s : State) (d : Nat) (f : Plat → Plat) : (s.modPlat d f).launches = s.launches := rfl
@[simp] theorem modPlat_groups (s : State) (d : Nat) (f : Plat → Plat) : (s.modPlat d f).groups = s.groups := rfl
@[simp] theorem modPlat_transfers (s : State) (d : Nat) (f : Plat → Plat) : (s.modPlat d f).transfers = s.transfers := rfl
@[simp] theorem modPlat_net (s : State) (d : Nat) (f : Plat → Plat) : (s.modPlat d f).net = s.net := rfl
@[simp] theorem modPlat_reqs (s : State) (d : Nat) (f : Plat → Plat) : (s.modPlat d f).reqs = s.reqs := rfl
@[simp] theorem modPlat_claims (s : State) (d : Nat) (f : Plat → Plat) : (s.modPlat d f).claims = s.claims := rfl
@[simp] theorem modPlat_invals (s : State) (d : Nat) (f : Plat → Plat) : (s.modPlat d f).invals = s.invals := rfl
@[simp] theorem modPlat_mem (s : State) (d : Nat) (f : Plat → Plat) : (s.modPlat d f).mem = s.mem := rfl
@[simp] theorem modPlat_full (s : State) (d : Nat) (f : Plat → Plat) : (s.modPlat d f).full = s.full := rfl
@[simp] theorem modPlat_poison (s : State) (d : Nat) (f : Plat → Plat) : (s.modPlat d f).poison = s.poison := rfl
@[simp] theorem modPlat_eccBad (s : State) (d : Nat) (f : Plat → Plat) : (s.modPlat d f).eccBad = s.eccBad := rfl
@[simp] theorem modPlat_vfcfg (s : State) (d : Nat) (f : Plat → Plat) : (s.modPlat d f).vfcfg = s.vfcfg := rfl
@[simp] theorem modPlat_vfNext (s : State) (d : Nat) (f : Plat → Plat) : (s.modPlat d f).vfNext = s.vfNext := rfl
@[simp] theorem modPlat_loader (s : State) (d : Nat) (f : Plat → Plat) : (s.modPlat d f).loader = s.loader := rfl
@[simp] theorem modPlat_ldstat (s : State) (d : Nat) (f : Plat → Plat) : (s.modPlat d f).ldstat = s.ldstat := rfl
@[simp] theorem modPlat_powerW (s : State) (d : Nat) (f : Plat → Plat) : (s.modPlat d f).powerW = s.powerW := rfl
@[simp] theorem modPlat_minVersion (s : State) (d : Nat) (f : Plat → Plat) : (s.modPlat d f).minVersion = s.minVersion := rfl
@[simp] theorem modPlat_cxl (s : State) (d : Nat) (f : Plat → Plat) : (s.modPlat d f).cxl = s.cxl := rfl
@[simp] theorem modPlat_sessions (s : State) (d : Nat) (f : Plat → Plat) : (s.modPlat d f).sessions = s.sessions := rfl
@[simp] theorem modPlat_outbox (s : State) (d : Nat) (f : Plat → Plat) : (s.modPlat d f).outbox = s.outbox := rfl
@[simp] theorem modPlat_now (s : State) (d : Nat) (f : Plat → Plat) : (s.modPlat d f).now = s.now := rfl
@[simp] theorem modPlat_tick (s : State) (d : Nat) (f : Plat → Plat) : (s.modPlat d f).tick = s.tick := rfl
@[simp] theorem modPlat_agenda (s : State) (d : Nat) (f : Plat → Plat) : (s.modPlat d f).agenda = s.agenda := rfl
@[simp] theorem modPlat_ev (s : State) (d : Nat) (f : Plat → Plat) : (s.modPlat d f).ev = s.ev := rfl
@[simp] theorem modPlat_selected (s : State) (d : Nat) (f : Plat → Plat) : (s.modPlat d f).selected = s.selected := rfl
@[simp] theorem modPlat_cur (s : State) (d : Nat) (f : Plat → Plat) : (s.modPlat d f).cur = s.cur := rfl
@[simp] theorem modPlat_nextId (s : State) (d : Nat) (f : Plat → Plat) : (s.modPlat d f).nextId = s.nextId := rfl

/-! ### State.modInv -/

@[simp] theorem modInv_threads (s : State) (d : Nat) (f : InvUnit → InvUnit) : (s.modInv d f).threads = s.threads := rfl
@[simp] theorem modInv_cores (s : State) (d : Nat) (f : InvUnit → InvUnit) : (s.modInv d f).cores = s.cores := rfl
@[simp] theorem modInv_octets (s : State) (d : Nat) (f : InvUnit → InvUnit) : (s.modInv d f).octets = s.octets := rfl
@[simp] theorem modInv_clusters (s : State) (d : Nat) (f : InvUnit → InvUnit) : (s.modInv d f).clusters = s.clusters := rfl
@[simp] theorem modInv_parts (s : State) (d : Nat) (f : InvUnit → InvUnit) : (s.modInv d f).parts = s.parts := rfl
@[simp] theorem modInv_mynis (s : State) (d : Nat) (f : InvUnit → InvUnit) : (s.modInv d f).mynis = s.mynis := rfl
@[simp] theorem modInv_launches (s : State) (d : Nat) (f : InvUnit → InvUnit) : (s.modInv d f).launches = s.launches := rfl
@[simp] theorem modInv_groups (s : State) (d : Nat) (f : InvUnit → InvUnit) : (s.modInv d f).groups = s.groups := rfl
@[simp] theorem modInv_transfers (s : State) (d : Nat) (f : InvUnit → InvUnit) : (s.modInv d f).transfers = s.transfers := rfl
@[simp] theorem modInv_net (s : State) (d : Nat) (f : InvUnit → InvUnit) : (s.modInv d f).net = s.net := rfl
@[simp] theorem modInv_reqs (s : State) (d : Nat) (f : InvUnit → InvUnit) : (s.modInv d f).reqs = s.reqs := rfl
@[simp] theorem modInv_claims (s : State) (d : Nat) (f : InvUnit → InvUnit) : (s.modInv d f).claims = s.claims := rfl
@[simp] theorem modInv_invals (s : State) (d : Nat) (f : InvUnit → InvUnit) : (s.modInv d f).invals = s.invals := rfl
@[simp] theorem modInv_mem (s : State) (d : Nat) (f : InvUnit → InvUnit) : (s.modInv d f).mem = s.mem := rfl
@[simp] theorem modInv_full (s : State) (d : Nat) (f : InvUnit → InvUnit) : (s.modInv d f).full = s.full := rfl
@[simp] theorem modInv_poison (s : State) (d : Nat) (f : InvUnit → InvUnit) : (s.modInv d f).poison = s.poison := rfl
@[simp] theorem modInv_eccBad (s : State) (d : Nat) (f : InvUnit → InvUnit) : (s.modInv d f).eccBad = s.eccBad := rfl
@[simp] theorem modInv_vfcfg (s : State) (d : Nat) (f : InvUnit → InvUnit) : (s.modInv d f).vfcfg = s.vfcfg := rfl
@[simp] theorem modInv_vfNext (s : State) (d : Nat) (f : InvUnit → InvUnit) : (s.modInv d f).vfNext = s.vfNext := rfl
@[simp] theorem modInv_loader (s : State) (d : Nat) (f : InvUnit → InvUnit) : (s.modInv d f).loader = s.loader := rfl
@[simp] theorem modInv_ldstat (s : State) (d : Nat) (f : InvUnit → InvUnit) : (s.modInv d f).ldstat = s.ldstat := rfl
@[simp] theorem modInv_powerW (s : State) (d : Nat) (f : InvUnit → InvUnit) : (s.modInv d f).powerW = s.powerW := rfl
@[simp] theorem modInv_minVersion (s : State) (d : Nat) (f : InvUnit → InvUnit) : (s.modInv d f).minVersion = s.minVersion := rfl
@[simp] theorem modInv_cxl (s : State) (d : Nat) (f : InvUnit → InvUnit) : (s.modInv d f).cxl = s.cxl := rfl
@[simp] theorem modInv_sessions (s : State) (d : Nat) (f : InvUnit → InvUnit) : (s.modInv d f).sessions = s.sessions := rfl
@[simp] theorem modInv_outbox (s : State) (d : Nat) (f : InvUnit → InvUnit) : (s.modInv d f).outbox = s.outbox := rfl
@[simp] theorem modInv_now (s : State) (d : Nat) (f : InvUnit → InvUnit) : (s.modInv d f).now = s.now := rfl
@[simp] theorem modInv_tick (s : State) (d : Nat) (f : InvUnit → InvUnit) : (s.modInv d f).tick = s.tick := rfl
@[simp] theorem modInv_agenda (s : State) (d : Nat) (f : InvUnit → InvUnit) : (s.modInv d f).agenda = s.agenda := rfl
@[simp] theorem modInv_ev (s : State) (d : Nat) (f : InvUnit → InvUnit) : (s.modInv d f).ev = s.ev := rfl
@[simp] theorem modInv_selected (s : State) (d : Nat) (f : InvUnit → InvUnit) : (s.modInv d f).selected = s.selected := rfl
@[simp] theorem modInv_cur (s : State) (d : Nat) (f : InvUnit → InvUnit) : (s.modInv d f).cur = s.cur := rfl
@[simp] theorem modInv_nextId (s : State) (d : Nat) (f : InvUnit → InvUnit) : (s.modInv d f).nextId = s.nextId := rfl

/-! ### State.modOwner -/

@[simp] theorem modOwner_threads (s : State) (d o : Nat) (f : OwnerEnt → OwnerEnt) : (s.modOwner d o f).threads = s.threads := rfl
@[simp] theorem modOwner_cores (s : State) (d o : Nat) (f : OwnerEnt → OwnerEnt) : (s.modOwner d o f).cores = s.cores := rfl
@[simp] theorem modOwner_octets (s : State) (d o : Nat) (f : OwnerEnt → OwnerEnt) : (s.modOwner d o f).octets = s.octets := rfl
@[simp] theorem modOwner_clusters (s : State) (d o : Nat) (f : OwnerEnt → OwnerEnt) : (s.modOwner d o f).clusters = s.clusters := rfl
@[simp] theorem modOwner_parts (s : State) (d o : Nat) (f : OwnerEnt → OwnerEnt) : (s.modOwner d o f).parts = s.parts := rfl
@[simp] theorem modOwner_mynis (s : State) (d o : Nat) (f : OwnerEnt → OwnerEnt) : (s.modOwner d o f).mynis = s.mynis := rfl
@[simp] theorem modOwner_launches (s : State) (d o : Nat) (f : OwnerEnt → OwnerEnt) : (s.modOwner d o f).launches = s.launches := rfl
@[simp] theorem modOwner_groups (s : State) (d o : Nat) (f : OwnerEnt → OwnerEnt) : (s.modOwner d o f).groups = s.groups := rfl
@[simp] theorem modOwner_transfers (s : State) (d o : Nat) (f : OwnerEnt → OwnerEnt) : (s.modOwner d o f).transfers = s.transfers := rfl
@[simp] theorem modOwner_net (s : State) (d o : Nat) (f : OwnerEnt → OwnerEnt) : (s.modOwner d o f).net = s.net := rfl
@[simp] theorem modOwner_reqs (s : State) (d o : Nat) (f : OwnerEnt → OwnerEnt) : (s.modOwner d o f).reqs = s.reqs := rfl
@[simp] theorem modOwner_claims (s : State) (d o : Nat) (f : OwnerEnt → OwnerEnt) : (s.modOwner d o f).claims = s.claims := rfl
@[simp] theorem modOwner_invals (s : State) (d o : Nat) (f : OwnerEnt → OwnerEnt) : (s.modOwner d o f).invals = s.invals := rfl
@[simp] theorem modOwner_mem (s : State) (d o : Nat) (f : OwnerEnt → OwnerEnt) : (s.modOwner d o f).mem = s.mem := rfl
@[simp] theorem modOwner_full (s : State) (d o : Nat) (f : OwnerEnt → OwnerEnt) : (s.modOwner d o f).full = s.full := rfl
@[simp] theorem modOwner_poison (s : State) (d o : Nat) (f : OwnerEnt → OwnerEnt) : (s.modOwner d o f).poison = s.poison := rfl
@[simp] theorem modOwner_eccBad (s : State) (d o : Nat) (f : OwnerEnt → OwnerEnt) : (s.modOwner d o f).eccBad = s.eccBad := rfl
@[simp] theorem modOwner_vfcfg (s : State) (d o : Nat) (f : OwnerEnt → OwnerEnt) : (s.modOwner d o f).vfcfg = s.vfcfg := rfl
@[simp] theorem modOwner_vfNext (s : State) (d o : Nat) (f : OwnerEnt → OwnerEnt) : (s.modOwner d o f).vfNext = s.vfNext := rfl
@[simp] theorem modOwner_loader (s : State) (d o : Nat) (f : OwnerEnt → OwnerEnt) : (s.modOwner d o f).loader = s.loader := rfl
@[simp] theorem modOwner_ldstat (s : State) (d o : Nat) (f : OwnerEnt → OwnerEnt) : (s.modOwner d o f).ldstat = s.ldstat := rfl
@[simp] theorem modOwner_powerW (s : State) (d o : Nat) (f : OwnerEnt → OwnerEnt) : (s.modOwner d o f).powerW = s.powerW := rfl
@[simp] theorem modOwner_minVersion (s : State) (d o : Nat) (f : OwnerEnt → OwnerEnt) : (s.modOwner d o f).minVersion = s.minVersion := rfl
@[simp] theorem modOwner_cxl (s : State) (d o : Nat) (f : OwnerEnt → OwnerEnt) : (s.modOwner d o f).cxl = s.cxl := rfl
@[simp] theorem modOwner_sessions (s : State) (d o : Nat) (f : OwnerEnt → OwnerEnt) : (s.modOwner d o f).sessions = s.sessions := rfl
@[simp] theorem modOwner_outbox (s : State) (d o : Nat) (f : OwnerEnt → OwnerEnt) : (s.modOwner d o f).outbox = s.outbox := rfl
@[simp] theorem modOwner_now (s : State) (d o : Nat) (f : OwnerEnt → OwnerEnt) : (s.modOwner d o f).now = s.now := rfl
@[simp] theorem modOwner_tick (s : State) (d o : Nat) (f : OwnerEnt → OwnerEnt) : (s.modOwner d o f).tick = s.tick := rfl
@[simp] theorem modOwner_agenda (s : State) (d o : Nat) (f : OwnerEnt → OwnerEnt) : (s.modOwner d o f).agenda = s.agenda := rfl
@[simp] theorem modOwner_ev (s : State) (d o : Nat) (f : OwnerEnt → OwnerEnt) : (s.modOwner d o f).ev = s.ev := rfl
@[simp] theorem modOwner_selected (s : State) (d o : Nat) (f : OwnerEnt → OwnerEnt) : (s.modOwner d o f).selected = s.selected := rfl
@[simp] theorem modOwner_cur (s : State) (d o : Nat) (f : OwnerEnt → OwnerEnt) : (s.modOwner d o f).cur = s.cur := rfl
@[simp] theorem modOwner_nextId (s : State) (d o : Nat) (f : OwnerEnt → OwnerEnt) : (s.modOwner d o f).nextId = s.nextId := rfl

/-! ### State.modSx -/

@[simp] theorem modSx_threads (s : State) (d t : Nat) (f : SxThread → SxThread) : (s.modSx d t f).threads = s.threads := rfl
@[simp] theorem modSx_cores (s : State) (d t : Nat) (f : SxThread → SxThread) : (s.modSx d t f).cores = s.cores := rfl
@[simp] theorem modSx_octets (s : State) (d t : Nat) (f : SxThread → SxThread) : (s.modSx d t f).octets = s.octets := rfl
@[simp] theorem modSx_clusters (s : State) (d t : Nat) (f : SxThread → SxThread) : (s.modSx d t f).clusters = s.clusters := rfl
@[simp] theorem modSx_parts (s : State) (d t : Nat) (f : SxThread → SxThread) : (s.modSx d t f).parts = s.parts := rfl
@[simp] theorem modSx_mynis (s : State) (d t : Nat) (f : SxThread → SxThread) : (s.modSx d t f).mynis = s.mynis := rfl
@[simp] theorem modSx_launches (s : State) (d t : Nat) (f : SxThread → SxThread) : (s.modSx d t f).launches = s.launches := rfl
@[simp] theorem modSx_groups (s : State) (d t : Nat) (f : SxThread → SxThread) : (s.modSx d t f).groups = s.groups := rfl
@[simp] theorem modSx_transfers (s : State) (d t : Nat) (f : SxThread → SxThread) : (s.modSx d t f).transfers = s.transfers := rfl
@[simp] theorem modSx_net (s : State) (d t : Nat) (f : SxThread → SxThread) : (s.modSx d t f).net = s.net := rfl
@[simp] theorem modSx_reqs (s : State) (d t : Nat) (f : SxThread → SxThread) : (s.modSx d t f).reqs = s.reqs := rfl
@[simp] theorem modSx_claims (s : State) (d t : Nat) (f : SxThread → SxThread) : (s.modSx d t f).claims = s.claims := rfl
@[simp] theorem modSx_invals (s : State) (d t : Nat) (f : SxThread → SxThread) : (s.modSx d t f).invals = s.invals := rfl
@[simp] theorem modSx_mem (s : State) (d t : Nat) (f : SxThread → SxThread) : (s.modSx d t f).mem = s.mem := rfl
@[simp] theorem modSx_full (s : State) (d t : Nat) (f : SxThread → SxThread) : (s.modSx d t f).full = s.full := rfl
@[simp] theorem modSx_poison (s : State) (d t : Nat) (f : SxThread → SxThread) : (s.modSx d t f).poison = s.poison := rfl
@[simp] theorem modSx_eccBad (s : State) (d t : Nat) (f : SxThread → SxThread) : (s.modSx d t f).eccBad = s.eccBad := rfl
@[simp] theorem modSx_vfcfg (s : State) (d t : Nat) (f : SxThread → SxThread) : (s.modSx d t f).vfcfg = s.vfcfg := rfl
@[simp] theorem modSx_vfNext (s : State) (d t : Nat) (f : SxThread → SxThread) : (s.modSx d t f).vfNext = s.vfNext := rfl
@[simp] theorem modSx_loader (s : State) (d t : Nat) (f : SxThread → SxThread) : (s.modSx d t f).loader = s.loader := rfl
@[simp] theorem modSx_ldstat (s : State) (d t : Nat) (f : SxThread → SxThread) : (s.modSx d t f).ldstat = s.ldstat := rfl
@[simp] theorem modSx_powerW (s : State) (d t : Nat) (f : SxThread → SxThread) : (s.modSx d t f).powerW = s.powerW := rfl
@[simp] theorem modSx_minVersion (s : State) (d t : Nat) (f : SxThread → SxThread) : (s.modSx d t f).minVersion = s.minVersion := rfl
@[simp] theorem modSx_cxl (s : State) (d t : Nat) (f : SxThread → SxThread) : (s.modSx d t f).cxl = s.cxl := rfl
@[simp] theorem modSx_sessions (s : State) (d t : Nat) (f : SxThread → SxThread) : (s.modSx d t f).sessions = s.sessions := rfl
@[simp] theorem modSx_outbox (s : State) (d t : Nat) (f : SxThread → SxThread) : (s.modSx d t f).outbox = s.outbox := rfl
@[simp] theorem modSx_now (s : State) (d t : Nat) (f : SxThread → SxThread) : (s.modSx d t f).now = s.now := rfl
@[simp] theorem modSx_tick (s : State) (d t : Nat) (f : SxThread → SxThread) : (s.modSx d t f).tick = s.tick := rfl
@[simp] theorem modSx_agenda (s : State) (d t : Nat) (f : SxThread → SxThread) : (s.modSx d t f).agenda = s.agenda := rfl
@[simp] theorem modSx_ev (s : State) (d t : Nat) (f : SxThread → SxThread) : (s.modSx d t f).ev = s.ev := rfl
@[simp] theorem modSx_selected (s : State) (d t : Nat) (f : SxThread → SxThread) : (s.modSx d t f).selected = s.selected := rfl
@[simp] theorem modSx_cur (s : State) (d t : Nat) (f : SxThread → SxThread) : (s.modSx d t f).cur = s.cur := rfl
@[simp] theorem modSx_nextId (s : State) (d t : Nat) (f : SxThread → SxThread) : (s.modSx d t f).nextId = s.nextId := rfl

/-! ### State.due -/

@[simp] theorem due_threads (s : State) (e : Event) : (s.due e).threads = s.threads := rfl
@[simp] theorem due_cores (s : State) (e : Event) : (s.due e).cores = s.cores := rfl
@[simp] theorem due_octets (s : State) (e : Event) : (s.due e).octets = s.octets := rfl
@[simp] theorem due_clusters (s : State) (e : Event) : (s.due e).clusters = s.clusters := rfl
@[simp] theorem due_dies (s : State) (e : Event) : (s.due e).dies = s.dies := rfl
@[simp] theorem due_parts (s : State) (e : Event) : (s.due e).parts = s.parts := rfl
@[simp] theorem due_mynis (s : State) (e : Event) : (s.due e).mynis = s.mynis := rfl
@[simp] theorem due_launches (s : State) (e : Event) : (s.due e).launches = s.launches := rfl
@[simp] theorem due_groups (s : State) (e : Event) : (s.due e).groups = s.groups := rfl
@[simp] theorem due_transfers (s : State) (e : Event) : (s.due e).transfers = s.transfers := rfl
@[simp] theorem due_net (s : State) (e : Event) : (s.due e).net = s.net := rfl
@[simp] theorem due_reqs (s : State) (e : Event) : (s.due e).reqs = s.reqs := rfl
@[simp] theorem due_claims (s : State) (e : Event) : (s.due e).claims = s.claims := rfl
@[simp] theorem due_invals (s : State) (e : Event) : (s.due e).invals = s.invals := rfl
@[simp] theorem due_mem (s : State) (e : Event) : (s.due e).mem = s.mem := rfl
@[simp] theorem due_full (s : State) (e : Event) : (s.due e).full = s.full := rfl
@[simp] theorem due_poison (s : State) (e : Event) : (s.due e).poison = s.poison := rfl
@[simp] theorem due_eccBad (s : State) (e : Event) : (s.due e).eccBad = s.eccBad := rfl
@[simp] theorem due_vfcfg (s : State) (e : Event) : (s.due e).vfcfg = s.vfcfg := rfl
@[simp] theorem due_vfNext (s : State) (e : Event) : (s.due e).vfNext = s.vfNext := rfl
@[simp] theorem due_loader (s : State) (e : Event) : (s.due e).loader = s.loader := rfl
@[simp] theorem due_ldstat (s : State) (e : Event) : (s.due e).ldstat = s.ldstat := rfl
@[simp] theorem due_powerW (s : State) (e : Event) : (s.due e).powerW = s.powerW := rfl
@[simp] theorem due_minVersion (s : State) (e : Event) : (s.due e).minVersion = s.minVersion := rfl
@[simp] theorem due_cxl (s : State) (e : Event) : (s.due e).cxl = s.cxl := rfl
@[simp] theorem due_sessions (s : State) (e : Event) : (s.due e).sessions = s.sessions := rfl
@[simp] theorem due_outbox (s : State) (e : Event) : (s.due e).outbox = s.outbox := rfl
@[simp] theorem due_now (s : State) (e : Event) : (s.due e).now = s.now := rfl
@[simp] theorem due_tick (s : State) (e : Event) : (s.due e).tick = s.tick := rfl
@[simp] theorem due_agenda (s : State) (e : Event) : (s.due e).agenda = s.agenda ++ [e] := rfl
@[simp] theorem due_ev (s : State) (e : Event) : (s.due e).ev = s.ev := rfl
@[simp] theorem due_selected (s : State) (e : Event) : (s.due e).selected = s.selected := rfl
@[simp] theorem due_cur (s : State) (e : Event) : (s.due e).cur = s.cur := rfl
@[simp] theorem due_nextId (s : State) (e : Event) : (s.due e).nextId = s.nextId := rfl

/-! ### State.dues -/

@[simp] theorem dues_threads (s : State) (l : List Event) : (s.dues l).threads = s.threads := rfl
@[simp] theorem dues_cores (s : State) (l : List Event) : (s.dues l).cores = s.cores := rfl
@[simp] theorem dues_octets (s : State) (l : List Event) : (s.dues l).octets = s.octets := rfl
@[simp] theorem dues_clusters (s : State) (l : List Event) : (s.dues l).clusters = s.clusters := rfl
@[simp] theorem dues_dies (s : State) (l : List Event) : (s.dues l).dies = s.dies := rfl
@[simp] theorem dues_parts (s : State) (l : List Event) : (s.dues l).parts = s.parts := rfl
@[simp] theorem dues_mynis (s : State) (l : List Event) : (s.dues l).mynis = s.mynis := rfl
@[simp] theorem dues_launches (s : State) (l : List Event) : (s.dues l).launches = s.launches := rfl
@[simp] theorem dues_groups (s : State) (l : List Event) : (s.dues l).groups = s.groups := rfl
@[simp] theorem dues_transfers (s : State) (l : List Event) : (s.dues l).transfers = s.transfers := rfl
@[simp] theorem dues_net (s : State) (l : List Event) : (s.dues l).net = s.net := rfl
@[simp] theorem dues_reqs (s : State) (l : List Event) : (s.dues l).reqs = s.reqs := rfl
@[simp] theorem dues_claims (s : State) (l : List Event) : (s.dues l).claims = s.claims := rfl
@[simp] theorem dues_invals (s : State) (l : List Event) : (s.dues l).invals = s.invals := rfl
@[simp] theorem dues_mem (s : State) (l : List Event) : (s.dues l).mem = s.mem := rfl
@[simp] theorem dues_full (s : State) (l : List Event) : (s.dues l).full = s.full := rfl
@[simp] theorem dues_poison (s : State) (l : List Event) : (s.dues l).poison = s.poison := rfl
@[simp] theorem dues_eccBad (s : State) (l : List Event) : (s.dues l).eccBad = s.eccBad := rfl
@[simp] theorem dues_vfcfg (s : State) (l : List Event) : (s.dues l).vfcfg = s.vfcfg := rfl
@[simp] theorem dues_vfNext (s : State) (l : List Event) : (s.dues l).vfNext = s.vfNext := rfl
@[simp] theorem dues_loader (s : State) (l : List Event) : (s.dues l).loader = s.loader := rfl
@[simp] theorem dues_ldstat (s : State) (l : List Event) : (s.dues l).ldstat = s.ldstat := rfl
@[simp] theorem dues_powerW (s : State) (l : List Event) : (s.dues l).powerW = s.powerW := rfl
@[simp] theorem dues_minVersion (s : State) (l : List Event) : (s.dues l).minVersion = s.minVersion := rfl
@[simp] theorem dues_cxl (s : State) (l : List Event) : (s.dues l).cxl = s.cxl := rfl
@[simp] theorem dues_sessions (s : State) (l : List Event) : (s.dues l).sessions = s.sessions := rfl
@[simp] theorem dues_outbox (s : State) (l : List Event) : (s.dues l).outbox = s.outbox := rfl
@[simp] theorem dues_now (s : State) (l : List Event) : (s.dues l).now = s.now := rfl
@[simp] theorem dues_tick (s : State) (l : List Event) : (s.dues l).tick = s.tick := rfl
@[simp] theorem dues_agenda (s : State) (l : List Event) : (s.dues l).agenda = s.agenda ++ l := rfl
@[simp] theorem dues_ev (s : State) (l : List Event) : (s.dues l).ev = s.ev := rfl
@[simp] theorem dues_selected (s : State) (l : List Event) : (s.dues l).selected = s.selected := rfl
@[simp] theorem dues_cur (s : State) (l : List Event) : (s.dues l).cur = s.cur := rfl
@[simp] theorem dues_nextId (s : State) (l : List Event) : (s.dues l).nextId = s.nextId := rfl

/-! ### State.fresh -/

@[simp] theorem fresh_threads (s : State) : s.fresh.threads = s.threads := rfl
@[simp] theorem fresh_cores (s : State) : s.fresh.cores = s.cores := rfl
@[simp] theorem fresh_octets (s : State) : s.fresh.octets = s.octets := rfl
@[simp] theorem fresh_clusters (s : State) : s.fresh.clusters = s.clusters := rfl
@[simp] theorem fresh_dies (s : State) : s.fresh.dies = s.dies := rfl
@[simp] theorem fresh_parts (s : State) : s.fresh.parts = s.parts := rfl
@[simp] theorem fresh_mynis (s : State) : s.fresh.mynis = s.mynis := rfl
@[simp] theorem fresh_launches (s : State) : s.fresh.launches = s.launches := rfl
@[simp] theorem fresh_groups (s : State) : s.fresh.groups = s.groups := rfl
@[simp] theorem fresh_transfers (s : State) : s.fresh.transfers = s.transfers := rfl
@[simp] theorem fresh_net (s : State) : s.fresh.net = s.net := rfl
@[simp] theorem fresh_reqs (s : State) : s.fresh.reqs = s.reqs := rfl
@[simp] theorem fresh_claims (s : State) : s.fresh.claims = s.claims := rfl
@[simp] theorem fresh_invals (s : State) : s.fresh.invals = s.invals := rfl
@[simp] theorem fresh_mem (s : State) : s.fresh.mem = s.mem := rfl
@[simp] theorem fresh_full (s : State) : s.fresh.full = s.full := rfl
@[simp] theorem fresh_poison (s : State) : s.fresh.poison = s.poison := rfl
@[simp] theorem fresh_eccBad (s : State) : s.fresh.eccBad = s.eccBad := rfl
@[simp] theorem fresh_vfcfg (s : State) : s.fresh.vfcfg = s.vfcfg := rfl
@[simp] theorem fresh_vfNext (s : State) : s.fresh.vfNext = s.vfNext := rfl
@[simp] theorem fresh_loader (s : State) : s.fresh.loader = s.loader := rfl
@[simp] theorem fresh_ldstat (s : State) : s.fresh.ldstat = s.ldstat := rfl
@[simp] theorem fresh_powerW (s : State) : s.fresh.powerW = s.powerW := rfl
@[simp] theorem fresh_minVersion (s : State) : s.fresh.minVersion = s.minVersion := rfl
@[simp] theorem fresh_cxl (s : State) : s.fresh.cxl = s.cxl := rfl
@[simp] theorem fresh_sessions (s : State) : s.fresh.sessions = s.sessions := rfl
@[simp] theorem fresh_outbox (s : State) : s.fresh.outbox = s.outbox := rfl
@[simp] theorem fresh_now (s : State) : s.fresh.now = s.now := rfl
@[simp] theorem fresh_tick (s : State) : s.fresh.tick = s.tick := rfl
@[simp] theorem fresh_agenda (s : State) : s.fresh.agenda = s.agenda := rfl
@[simp] theorem fresh_ev (s : State) : s.fresh.ev = s.ev := rfl
@[simp] theorem fresh_selected (s : State) : s.fresh.selected = s.selected := rfl
@[simp] theorem fresh_cur (s : State) : s.fresh.cur = s.cur := rfl
@[simp] theorem fresh_nextId (s : State) : s.fresh.nextId = s.nextId + 1 := rfl

/-! ### State.out -/

@[simp] theorem out_threads (s : State) (o : Out) : (s.out o).threads = s.threads := rfl
@[simp] theorem out_cores (s : State) (o : Out) : (s.out o).cores = s.cores := rfl
@[simp] theorem out_octets (s : State) (o : Out) : (s.out o).octets = s.octets := rfl
@[simp] theorem out_clusters (s : State) (o : Out) : (s.out o).clusters = s.clusters := rfl
@[simp] theorem out_dies (s : State) (o : Out) : (s.out o).dies = s.dies := rfl
@[simp] theorem out_parts (s : State) (o : Out) : (s.out o).parts = s.parts := rfl
@[simp] theorem out_mynis (s : State) (o : Out) : (s.out o).mynis = s.mynis := rfl
@[simp] theorem out_launches (s : State) (o : Out) : (s.out o).launches = s.launches := rfl
@[simp] theorem out_groups (s : State) (o : Out) : (s.out o).groups = s.groups := rfl
@[simp] theorem out_transfers (s : State) (o : Out) : (s.out o).transfers = s.transfers := rfl
@[simp] theorem out_net (s : State) (o : Out) : (s.out o).net = s.net := rfl
@[simp] theorem out_reqs (s : State) (o : Out) : (s.out o).reqs = s.reqs := rfl
@[simp] theorem out_claims (s : State) (o : Out) : (s.out o).claims = s.claims := rfl
@[simp] theorem out_invals (s : State) (o : Out) : (s.out o).invals = s.invals := rfl
@[simp] theorem out_mem (s : State) (o : Out) : (s.out o).mem = s.mem := rfl
@[simp] theorem out_full (s : State) (o : Out) : (s.out o).full = s.full := rfl
@[simp] theorem out_poison (s : State) (o : Out) : (s.out o).poison = s.poison := rfl
@[simp] theorem out_eccBad (s : State) (o : Out) : (s.out o).eccBad = s.eccBad := rfl
@[simp] theorem out_vfcfg (s : State) (o : Out) : (s.out o).vfcfg = s.vfcfg := rfl
@[simp] theorem out_vfNext (s : State) (o : Out) : (s.out o).vfNext = s.vfNext := rfl
@[simp] theorem out_loader (s : State) (o : Out) : (s.out o).loader = s.loader := rfl
@[simp] theorem out_ldstat (s : State) (o : Out) : (s.out o).ldstat = s.ldstat := rfl
@[simp] theorem out_powerW (s : State) (o : Out) : (s.out o).powerW = s.powerW := rfl
@[simp] theorem out_minVersion (s : State) (o : Out) : (s.out o).minVersion = s.minVersion := rfl
@[simp] theorem out_cxl (s : State) (o : Out) : (s.out o).cxl = s.cxl := rfl
@[simp] theorem out_sessions (s : State) (o : Out) : (s.out o).sessions = s.sessions := rfl
@[simp] theorem out_outbox (s : State) (o : Out) : (s.out o).outbox = s.outbox ++ [o] := rfl
@[simp] theorem out_now (s : State) (o : Out) : (s.out o).now = s.now := rfl
@[simp] theorem out_tick (s : State) (o : Out) : (s.out o).tick = s.tick := rfl
@[simp] theorem out_agenda (s : State) (o : Out) : (s.out o).agenda = s.agenda := rfl
@[simp] theorem out_ev (s : State) (o : Out) : (s.out o).ev = s.ev := rfl
@[simp] theorem out_selected (s : State) (o : Out) : (s.out o).selected = s.selected := rfl
@[simp] theorem out_cur (s : State) (o : Out) : (s.out o).cur = s.cur := rfl
@[simp] theorem out_nextId (s : State) (o : Out) : (s.out o).nextId = s.nextId := rfl

/-! ### State.tock -/

@[simp] theorem tock_threads (s : State) : s.tock.threads = s.threads := rfl
@[simp] theorem tock_cores (s : State) : s.tock.cores = s.cores := rfl
@[simp] theorem tock_octets (s : State) : s.tock.octets = s.octets := rfl
@[simp] theorem tock_clusters (s : State) : s.tock.clusters = s.clusters := rfl
@[simp] theorem tock_dies (s : State) : s.tock.dies = s.dies := rfl
@[simp] theorem tock_parts (s : State) : s.tock.parts = s.parts := rfl
@[simp] theorem tock_mynis (s : State) : s.tock.mynis = s.mynis := rfl
@[simp] theorem tock_launches (s : State) : s.tock.launches = s.launches := rfl
@[simp] theorem tock_groups (s : State) : s.tock.groups = s.groups := rfl
@[simp] theorem tock_transfers (s : State) : s.tock.transfers = s.transfers := rfl
@[simp] theorem tock_net (s : State) : s.tock.net = s.net := rfl
@[simp] theorem tock_reqs (s : State) : s.tock.reqs = s.reqs := rfl
@[simp] theorem tock_claims (s : State) : s.tock.claims = s.claims := rfl
@[simp] theorem tock_invals (s : State) : s.tock.invals = s.invals := rfl
@[simp] theorem tock_mem (s : State) : s.tock.mem = s.mem := rfl
@[simp] theorem tock_full (s : State) : s.tock.full = s.full := rfl
@[simp] theorem tock_poison (s : State) : s.tock.poison = s.poison := rfl
@[simp] theorem tock_eccBad (s : State) : s.tock.eccBad = s.eccBad := rfl
@[simp] theorem tock_vfcfg (s : State) : s.tock.vfcfg = s.vfcfg := rfl
@[simp] theorem tock_vfNext (s : State) : s.tock.vfNext = s.vfNext := rfl
@[simp] theorem tock_loader (s : State) : s.tock.loader = s.loader := rfl
@[simp] theorem tock_ldstat (s : State) : s.tock.ldstat = s.ldstat := rfl
@[simp] theorem tock_powerW (s : State) : s.tock.powerW = s.powerW := rfl
@[simp] theorem tock_minVersion (s : State) : s.tock.minVersion = s.minVersion := rfl
@[simp] theorem tock_cxl (s : State) : s.tock.cxl = s.cxl := rfl
@[simp] theorem tock_sessions (s : State) : s.tock.sessions = s.sessions := rfl
@[simp] theorem tock_outbox (s : State) : s.tock.outbox = s.outbox := rfl
@[simp] theorem tock_now (s : State) : s.tock.now = s.now := rfl
@[simp] theorem tock_tick (s : State) : s.tock.tick = s.tick + 1 := rfl
@[simp] theorem tock_agenda (s : State) : s.tock.agenda = s.agenda := rfl
@[simp] theorem tock_ev (s : State) : s.tock.ev = s.ev := rfl
@[simp] theorem tock_selected (s : State) : s.tock.selected = s.selected := rfl
@[simp] theorem tock_cur (s : State) : s.tock.cur = s.cur := rfl
@[simp] theorem tock_nextId (s : State) : s.tock.nextId = s.nextId := rfl

/-! ### State.markPoison -/

@[simp] theorem markPoison_threads (s : State) (a : Nat) : (s.markPoison a).threads = s.threads := rfl
@[simp] theorem markPoison_cores (s : State) (a : Nat) : (s.markPoison a).cores = s.cores := rfl
@[simp] theorem markPoison_octets (s : State) (a : Nat) : (s.markPoison a).octets = s.octets := rfl
@[simp] theorem markPoison_clusters (s : State) (a : Nat) : (s.markPoison a).clusters = s.clusters := rfl
@[simp] theorem markPoison_dies (s : State) (a : Nat) : (s.markPoison a).dies = s.dies := rfl
@[simp] theorem markPoison_parts (s : State) (a : Nat) : (s.markPoison a).parts = s.parts := rfl
@[simp] theorem markPoison_mynis (s : State) (a : Nat) : (s.markPoison a).mynis = s.mynis := rfl
@[simp] theorem markPoison_launches (s : State) (a : Nat) : (s.markPoison a).launches = s.launches := rfl
@[simp] theorem markPoison_groups (s : State) (a : Nat) : (s.markPoison a).groups = s.groups := rfl
@[simp] theorem markPoison_transfers (s : State) (a : Nat) : (s.markPoison a).transfers = s.transfers := rfl
@[simp] theorem markPoison_net (s : State) (a : Nat) : (s.markPoison a).net = s.net := rfl
@[simp] theorem markPoison_reqs (s : State) (a : Nat) : (s.markPoison a).reqs = s.reqs := rfl
@[simp] theorem markPoison_claims (s : State) (a : Nat) : (s.markPoison a).claims = s.claims := rfl
@[simp] theorem markPoison_invals (s : State) (a : Nat) : (s.markPoison a).invals = s.invals := rfl
@[simp] theorem markPoison_mem (s : State) (a : Nat) : (s.markPoison a).mem = s.mem := rfl
@[simp] theorem markPoison_full (s : State) (a : Nat) : (s.markPoison a).full = s.full := rfl
@[simp] theorem markPoison_poison (s : State) (a : Nat) : (s.markPoison a).poison = setAdd s.poison (wordAddr a) := rfl
@[simp] theorem markPoison_eccBad (s : State) (a : Nat) : (s.markPoison a).eccBad = setDel s.eccBad (wordAddr a) := rfl
@[simp] theorem markPoison_vfcfg (s : State) (a : Nat) : (s.markPoison a).vfcfg = s.vfcfg := rfl
@[simp] theorem markPoison_vfNext (s : State) (a : Nat) : (s.markPoison a).vfNext = s.vfNext := rfl
@[simp] theorem markPoison_loader (s : State) (a : Nat) : (s.markPoison a).loader = s.loader := rfl
@[simp] theorem markPoison_ldstat (s : State) (a : Nat) : (s.markPoison a).ldstat = s.ldstat := rfl
@[simp] theorem markPoison_powerW (s : State) (a : Nat) : (s.markPoison a).powerW = s.powerW := rfl
@[simp] theorem markPoison_minVersion (s : State) (a : Nat) : (s.markPoison a).minVersion = s.minVersion := rfl
@[simp] theorem markPoison_cxl (s : State) (a : Nat) : (s.markPoison a).cxl = s.cxl := rfl
@[simp] theorem markPoison_sessions (s : State) (a : Nat) : (s.markPoison a).sessions = s.sessions := rfl
@[simp] theorem markPoison_outbox (s : State) (a : Nat) : (s.markPoison a).outbox = s.outbox := rfl
@[simp] theorem markPoison_now (s : State) (a : Nat) : (s.markPoison a).now = s.now := rfl
@[simp] theorem markPoison_tick (s : State) (a : Nat) : (s.markPoison a).tick = s.tick := rfl
@[simp] theorem markPoison_agenda (s : State) (a : Nat) : (s.markPoison a).agenda = s.agenda := rfl
@[simp] theorem markPoison_ev (s : State) (a : Nat) : (s.markPoison a).ev = s.ev := rfl
@[simp] theorem markPoison_selected (s : State) (a : Nat) : (s.markPoison a).selected = s.selected := rfl
@[simp] theorem markPoison_cur (s : State) (a : Nat) : (s.markPoison a).cur = s.cur := rfl
@[simp] theorem markPoison_nextId (s : State) (a : Nat) : (s.markPoison a).nextId = s.nextId := rfl

/-! ### State.wr -/

@[simp] theorem wr_threads (s : State) (a v n : Nat) : (s.wr a v n).threads = s.threads := rfl
@[simp] theorem wr_cores (s : State) (a v n : Nat) : (s.wr a v n).cores = s.cores := rfl
@[simp] theorem wr_octets (s : State) (a v n : Nat) : (s.wr a v n).octets = s.octets := rfl
@[simp] theorem wr_clusters (s : State) (a v n : Nat) : (s.wr a v n).clusters = s.clusters := rfl
@[simp] theorem wr_dies (s : State) (a v n : Nat) : (s.wr a v n).dies = s.dies := rfl
@[simp] theorem wr_parts (s : State) (a v n : Nat) : (s.wr a v n).parts = s.parts := rfl
@[simp] theorem wr_mynis (s : State) (a v n : Nat) : (s.wr a v n).mynis = s.mynis := rfl
@[simp] theorem wr_launches (s : State) (a v n : Nat) : (s.wr a v n).launches = s.launches := rfl
@[simp] theorem wr_groups (s : State) (a v n : Nat) : (s.wr a v n).groups = s.groups := rfl
@[simp] theorem wr_transfers (s : State) (a v n : Nat) : (s.wr a v n).transfers = s.transfers := rfl
@[simp] theorem wr_net (s : State) (a v n : Nat) : (s.wr a v n).net = s.net := rfl
@[simp] theorem wr_reqs (s : State) (a v n : Nat) : (s.wr a v n).reqs = s.reqs := rfl
@[simp] theorem wr_claims (s : State) (a v n : Nat) : (s.wr a v n).claims = s.claims := rfl
@[simp] theorem wr_invals (s : State) (a v n : Nat) : (s.wr a v n).invals = s.invals := rfl
@[simp] theorem wr_mem (s : State) (a v n : Nat) : (s.wr a v n).mem = memWriteN s.mem a v n := rfl
@[simp] theorem wr_full (s : State) (a v n : Nat) : (s.wr a v n).full = s.full := rfl
@[simp] theorem wr_vfcfg (s : State) (a v n : Nat) : (s.wr a v n).vfcfg = s.vfcfg := rfl
@[simp] theorem wr_vfNext (s : State) (a v n : Nat) : (s.wr a v n).vfNext = s.vfNext := rfl
@[simp] theorem wr_loader (s : State) (a v n : Nat) : (s.wr a v n).loader = s.loader := rfl
@[simp] theorem wr_ldstat (s : State) (a v n : Nat) : (s.wr a v n).ldstat = s.ldstat := rfl
@[simp] theorem wr_powerW (s : State) (a v n : Nat) : (s.wr a v n).powerW = s.powerW := rfl
@[simp] theorem wr_minVersion (s : State) (a v n : Nat) : (s.wr a v n).minVersion = s.minVersion := rfl
@[simp] theorem wr_cxl (s : State) (a v n : Nat) : (s.wr a v n).cxl = s.cxl := rfl
@[simp] theorem wr_sessions (s : State) (a v n : Nat) : (s.wr a v n).sessions = s.sessions := rfl
@[simp] theorem wr_outbox (s : State) (a v n : Nat) : (s.wr a v n).outbox = s.outbox := rfl
@[simp] theorem wr_now (s : State) (a v n : Nat) : (s.wr a v n).now = s.now := rfl
@[simp] theorem wr_tick (s : State) (a v n : Nat) : (s.wr a v n).tick = s.tick := rfl
@[simp] theorem wr_agenda (s : State) (a v n : Nat) : (s.wr a v n).agenda = s.agenda := rfl
@[simp] theorem wr_ev (s : State) (a v n : Nat) : (s.wr a v n).ev = s.ev := rfl
@[simp] theorem wr_selected (s : State) (a v n : Nat) : (s.wr a v n).selected = s.selected := rfl
@[simp] theorem wr_cur (s : State) (a v n : Nat) : (s.wr a v n).cur = s.cur := rfl
@[simp] theorem wr_nextId (s : State) (a v n : Nat) : (s.wr a v n).nextId = s.nextId := rfl

/-! ### State.wrBytes -/

@[simp] theorem wrBytes_threads (s : State) (a : Nat) (l : List (BitVec 8)) : (s.wrBytes a l).threads = s.threads := rfl
@[simp] theorem wrBytes_cores (s : State) (a : Nat) (l : List (BitVec 8)) : (s.wrBytes a l).cores = s.cores := rfl
@[simp] theorem wrBytes_octets (s : State) (a : Nat) (l : List (BitVec 8)) : (s.wrBytes a l).octets = s.octets := rfl
@[simp] theorem wrBytes_clusters (s : State) (a : Nat) (l : List (BitVec 8)) : (s.wrBytes a l).clusters = s.clusters := rfl
@[simp] theorem wrBytes_dies (s : State) (a : Nat) (l : List (BitVec 8)) : (s.wrBytes a l).dies = s.dies := rfl
@[simp] theorem wrBytes_parts (s : State) (a : Nat) (l : List (BitVec 8)) : (s.wrBytes a l).parts = s.parts := rfl
@[simp] theorem wrBytes_mynis (s : State) (a : Nat) (l : List (BitVec 8)) : (s.wrBytes a l).mynis = s.mynis := rfl
@[simp] theorem wrBytes_launches (s : State) (a : Nat) (l : List (BitVec 8)) : (s.wrBytes a l).launches = s.launches := rfl
@[simp] theorem wrBytes_groups (s : State) (a : Nat) (l : List (BitVec 8)) : (s.wrBytes a l).groups = s.groups := rfl
@[simp] theorem wrBytes_transfers (s : State) (a : Nat) (l : List (BitVec 8)) : (s.wrBytes a l).transfers = s.transfers := rfl
@[simp] theorem wrBytes_net (s : State) (a : Nat) (l : List (BitVec 8)) : (s.wrBytes a l).net = s.net := rfl
@[simp] theorem wrBytes_reqs (s : State) (a : Nat) (l : List (BitVec 8)) : (s.wrBytes a l).reqs = s.reqs := rfl
@[simp] theorem wrBytes_claims (s : State) (a : Nat) (l : List (BitVec 8)) : (s.wrBytes a l).claims = s.claims := rfl
@[simp] theorem wrBytes_invals (s : State) (a : Nat) (l : List (BitVec 8)) : (s.wrBytes a l).invals = s.invals := rfl
@[simp] theorem wrBytes_mem (s : State) (a : Nat) (l : List (BitVec 8)) : (s.wrBytes a l).mem = memWriteL s.mem a l := rfl
@[simp] theorem wrBytes_full (s : State) (a : Nat) (l : List (BitVec 8)) : (s.wrBytes a l).full = s.full := rfl
@[simp] theorem wrBytes_vfcfg (s : State) (a : Nat) (l : List (BitVec 8)) : (s.wrBytes a l).vfcfg = s.vfcfg := rfl
@[simp] theorem wrBytes_vfNext (s : State) (a : Nat) (l : List (BitVec 8)) : (s.wrBytes a l).vfNext = s.vfNext := rfl
@[simp] theorem wrBytes_loader (s : State) (a : Nat) (l : List (BitVec 8)) : (s.wrBytes a l).loader = s.loader := rfl
@[simp] theorem wrBytes_ldstat (s : State) (a : Nat) (l : List (BitVec 8)) : (s.wrBytes a l).ldstat = s.ldstat := rfl
@[simp] theorem wrBytes_powerW (s : State) (a : Nat) (l : List (BitVec 8)) : (s.wrBytes a l).powerW = s.powerW := rfl
@[simp] theorem wrBytes_minVersion (s : State) (a : Nat) (l : List (BitVec 8)) : (s.wrBytes a l).minVersion = s.minVersion := rfl
@[simp] theorem wrBytes_cxl (s : State) (a : Nat) (l : List (BitVec 8)) : (s.wrBytes a l).cxl = s.cxl := rfl
@[simp] theorem wrBytes_sessions (s : State) (a : Nat) (l : List (BitVec 8)) : (s.wrBytes a l).sessions = s.sessions := rfl
@[simp] theorem wrBytes_outbox (s : State) (a : Nat) (l : List (BitVec 8)) : (s.wrBytes a l).outbox = s.outbox := rfl
@[simp] theorem wrBytes_now (s : State) (a : Nat) (l : List (BitVec 8)) : (s.wrBytes a l).now = s.now := rfl
@[simp] theorem wrBytes_tick (s : State) (a : Nat) (l : List (BitVec 8)) : (s.wrBytes a l).tick = s.tick := rfl
@[simp] theorem wrBytes_agenda (s : State) (a : Nat) (l : List (BitVec 8)) : (s.wrBytes a l).agenda = s.agenda := rfl
@[simp] theorem wrBytes_ev (s : State) (a : Nat) (l : List (BitVec 8)) : (s.wrBytes a l).ev = s.ev := rfl
@[simp] theorem wrBytes_selected (s : State) (a : Nat) (l : List (BitVec 8)) : (s.wrBytes a l).selected = s.selected := rfl
@[simp] theorem wrBytes_cur (s : State) (a : Nat) (l : List (BitVec 8)) : (s.wrBytes a l).cur = s.cur := rfl
@[simp] theorem wrBytes_nextId (s : State) (a : Nat) (l : List (BitVec 8)) : (s.wrBytes a l).nextId = s.nextId := rfl

/-! ### State.setTh of a slot and of a Sextant thread -/

@[simp] theorem setTh_thread_threads (s : State) (k : Nat) (t : Thread) : (s.setTh (.thread k) t).threads = tset s.threads k t := rfl
@[simp] theorem setTh_thread_cores (s : State) (k : Nat) (t : Thread) : (s.setTh (.thread k) t).cores = s.cores := rfl
@[simp] theorem setTh_thread_octets (s : State) (k : Nat) (t : Thread) : (s.setTh (.thread k) t).octets = s.octets := rfl
@[simp] theorem setTh_thread_clusters (s : State) (k : Nat) (t : Thread) : (s.setTh (.thread k) t).clusters = s.clusters := rfl
@[simp] theorem setTh_thread_dies (s : State) (k : Nat) (t : Thread) : (s.setTh (.thread k) t).dies = s.dies := rfl
@[simp] theorem setTh_thread_parts (s : State) (k : Nat) (t : Thread) : (s.setTh (.thread k) t).parts = s.parts := rfl
@[simp] theorem setTh_thread_mynis (s : State) (k : Nat) (t : Thread) : (s.setTh (.thread k) t).mynis = s.mynis := rfl
@[simp] theorem setTh_thread_launches (s : State) (k : Nat) (t : Thread) : (s.setTh (.thread k) t).launches = s.launches := rfl
@[simp] theorem setTh_thread_groups (s : State) (k : Nat) (t : Thread) : (s.setTh (.thread k) t).groups = s.groups := rfl
@[simp] theorem setTh_thread_transfers (s : State) (k : Nat) (t : Thread) : (s.setTh (.thread k) t).transfers = s.transfers := rfl
@[simp] theorem setTh_thread_net (s : State) (k : Nat) (t : Thread) : (s.setTh (.thread k) t).net = s.net := rfl
@[simp] theorem setTh_thread_reqs (s : State) (k : Nat) (t : Thread) : (s.setTh (.thread k) t).reqs = s.reqs := rfl
@[simp] theorem setTh_thread_claims (s : State) (k : Nat) (t : Thread) : (s.setTh (.thread k) t).claims = s.claims := rfl
@[simp] theorem setTh_thread_invals (s : State) (k : Nat) (t : Thread) : (s.setTh (.thread k) t).invals = s.invals := rfl
@[simp] theorem setTh_thread_mem (s : State) (k : Nat) (t : Thread) : (s.setTh (.thread k) t).mem = s.mem := rfl
@[simp] theorem setTh_thread_full (s : State) (k : Nat) (t : Thread) : (s.setTh (.thread k) t).full = s.full := rfl
@[simp] theorem setTh_thread_poison (s : State) (k : Nat) (t : Thread) : (s.setTh (.thread k) t).poison = s.poison := rfl
@[simp] theorem setTh_thread_eccBad (s : State) (k : Nat) (t : Thread) : (s.setTh (.thread k) t).eccBad = s.eccBad := rfl
@[simp] theorem setTh_thread_vfcfg (s : State) (k : Nat) (t : Thread) : (s.setTh (.thread k) t).vfcfg = s.vfcfg := rfl
@[simp] theorem setTh_thread_vfNext (s : State) (k : Nat) (t : Thread) : (s.setTh (.thread k) t).vfNext = s.vfNext := rfl
@[simp] theorem setTh_thread_loader (s : State) (k : Nat) (t : Thread) : (s.setTh (.thread k) t).loader = s.loader := rfl
@[simp] theorem setTh_thread_ldstat (s : State) (k : Nat) (t : Thread) : (s.setTh (.thread k) t).ldstat = s.ldstat := rfl
@[simp] theorem setTh_thread_powerW (s : State) (k : Nat) (t : Thread) : (s.setTh (.thread k) t).powerW = s.powerW := rfl
@[simp] theorem setTh_thread_minVersion (s : State) (k : Nat) (t : Thread) : (s.setTh (.thread k) t).minVersion = s.minVersion := rfl
@[simp] theorem setTh_thread_cxl (s : State) (k : Nat) (t : Thread) : (s.setTh (.thread k) t).cxl = s.cxl := rfl
@[simp] theorem setTh_thread_sessions (s : State) (k : Nat) (t : Thread) : (s.setTh (.thread k) t).sessions = s.sessions := rfl
@[simp] theorem setTh_thread_outbox (s : State) (k : Nat) (t : Thread) : (s.setTh (.thread k) t).outbox = s.outbox := rfl
@[simp] theorem setTh_thread_now (s : State) (k : Nat) (t : Thread) : (s.setTh (.thread k) t).now = s.now := rfl
@[simp] theorem setTh_thread_tick (s : State) (k : Nat) (t : Thread) : (s.setTh (.thread k) t).tick = s.tick := rfl
@[simp] theorem setTh_thread_agenda (s : State) (k : Nat) (t : Thread) : (s.setTh (.thread k) t).agenda = s.agenda := rfl
@[simp] theorem setTh_thread_ev (s : State) (k : Nat) (t : Thread) : (s.setTh (.thread k) t).ev = s.ev := rfl
@[simp] theorem setTh_thread_selected (s : State) (k : Nat) (t : Thread) : (s.setTh (.thread k) t).selected = s.selected := rfl
@[simp] theorem setTh_thread_cur (s : State) (k : Nat) (t : Thread) : (s.setTh (.thread k) t).cur = s.cur := rfl
@[simp] theorem setTh_thread_nextId (s : State) (k : Nat) (t : Thread) : (s.setTh (.thread k) t).nextId = s.nextId := rfl

@[simp] theorem setTh_sextant_threads (s : State) (d k : Nat) (t : Thread) : (s.setTh (.sextant d k) t).threads = s.threads := rfl
@[simp] theorem setTh_sextant_cores (s : State) (d k : Nat) (t : Thread) : (s.setTh (.sextant d k) t).cores = s.cores := rfl
@[simp] theorem setTh_sextant_octets (s : State) (d k : Nat) (t : Thread) : (s.setTh (.sextant d k) t).octets = s.octets := rfl
@[simp] theorem setTh_sextant_clusters (s : State) (d k : Nat) (t : Thread) : (s.setTh (.sextant d k) t).clusters = s.clusters := rfl
@[simp] theorem setTh_sextant_parts (s : State) (d k : Nat) (t : Thread) : (s.setTh (.sextant d k) t).parts = s.parts := rfl
@[simp] theorem setTh_sextant_mynis (s : State) (d k : Nat) (t : Thread) : (s.setTh (.sextant d k) t).mynis = s.mynis := rfl
@[simp] theorem setTh_sextant_launches (s : State) (d k : Nat) (t : Thread) : (s.setTh (.sextant d k) t).launches = s.launches := rfl
@[simp] theorem setTh_sextant_groups (s : State) (d k : Nat) (t : Thread) : (s.setTh (.sextant d k) t).groups = s.groups := rfl
@[simp] theorem setTh_sextant_transfers (s : State) (d k : Nat) (t : Thread) : (s.setTh (.sextant d k) t).transfers = s.transfers := rfl
@[simp] theorem setTh_sextant_net (s : State) (d k : Nat) (t : Thread) : (s.setTh (.sextant d k) t).net = s.net := rfl
@[simp] theorem setTh_sextant_reqs (s : State) (d k : Nat) (t : Thread) : (s.setTh (.sextant d k) t).reqs = s.reqs := rfl
@[simp] theorem setTh_sextant_claims (s : State) (d k : Nat) (t : Thread) : (s.setTh (.sextant d k) t).claims = s.claims := rfl
@[simp] theorem setTh_sextant_invals (s : State) (d k : Nat) (t : Thread) : (s.setTh (.sextant d k) t).invals = s.invals := rfl
@[simp] theorem setTh_sextant_mem (s : State) (d k : Nat) (t : Thread) : (s.setTh (.sextant d k) t).mem = s.mem := rfl
@[simp] theorem setTh_sextant_full (s : State) (d k : Nat) (t : Thread) : (s.setTh (.sextant d k) t).full = s.full := rfl
@[simp] theorem setTh_sextant_poison (s : State) (d k : Nat) (t : Thread) : (s.setTh (.sextant d k) t).poison = s.poison := rfl
@[simp] theorem setTh_sextant_eccBad (s : State) (d k : Nat) (t : Thread) : (s.setTh (.sextant d k) t).eccBad = s.eccBad := rfl
@[simp] theorem setTh_sextant_vfcfg (s : State) (d k : Nat) (t : Thread) : (s.setTh (.sextant d k) t).vfcfg = s.vfcfg := rfl
@[simp] theorem setTh_sextant_vfNext (s : State) (d k : Nat) (t : Thread) : (s.setTh (.sextant d k) t).vfNext = s.vfNext := rfl
@[simp] theorem setTh_sextant_loader (s : State) (d k : Nat) (t : Thread) : (s.setTh (.sextant d k) t).loader = s.loader := rfl
@[simp] theorem setTh_sextant_ldstat (s : State) (d k : Nat) (t : Thread) : (s.setTh (.sextant d k) t).ldstat = s.ldstat := rfl
@[simp] theorem setTh_sextant_powerW (s : State) (d k : Nat) (t : Thread) : (s.setTh (.sextant d k) t).powerW = s.powerW := rfl
@[simp] theorem setTh_sextant_minVersion (s : State) (d k : Nat) (t : Thread) : (s.setTh (.sextant d k) t).minVersion = s.minVersion := rfl
@[simp] theorem setTh_sextant_cxl (s : State) (d k : Nat) (t : Thread) : (s.setTh (.sextant d k) t).cxl = s.cxl := rfl
@[simp] theorem setTh_sextant_sessions (s : State) (d k : Nat) (t : Thread) : (s.setTh (.sextant d k) t).sessions = s.sessions := rfl
@[simp] theorem setTh_sextant_outbox (s : State) (d k : Nat) (t : Thread) : (s.setTh (.sextant d k) t).outbox = s.outbox := rfl
@[simp] theorem setTh_sextant_now (s : State) (d k : Nat) (t : Thread) : (s.setTh (.sextant d k) t).now = s.now := rfl
@[simp] theorem setTh_sextant_tick (s : State) (d k : Nat) (t : Thread) : (s.setTh (.sextant d k) t).tick = s.tick := rfl
@[simp] theorem setTh_sextant_agenda (s : State) (d k : Nat) (t : Thread) : (s.setTh (.sextant d k) t).agenda = s.agenda := rfl
@[simp] theorem setTh_sextant_ev (s : State) (d k : Nat) (t : Thread) : (s.setTh (.sextant d k) t).ev = s.ev := rfl
@[simp] theorem setTh_sextant_selected (s : State) (d k : Nat) (t : Thread) : (s.setTh (.sextant d k) t).selected = s.selected := rfl
@[simp] theorem setTh_sextant_cur (s : State) (d k : Nat) (t : Thread) : (s.setTh (.sextant d k) t).cur = s.cur := rfl
@[simp] theorem setTh_sextant_nextId (s : State) (d k : Nat) (t : Thread) : (s.setTh (.sextant d k) t).nextId = s.nextId := rfl

end Sys2Proof.Laws
end

