-- ==== Sys2Proof/Laws/Ops.lean ====
section
/-!
SUPPORT. Ops: what the shared operations over memory, the agents, the traps and the step can do, said once.
-/
namespace Sys2Proof.Laws
open Sys2Proof.Machine

/-! ### The canonical form of a memory -/

/-- Every listed address is above a, and the list is in canonical form. -/
def memAbove (a : Nat) : List Host.Cell → Prop
  | [] => True
  | (k, b) :: r => a < k ∧ b ≠ memDefault ∧ memAbove k r

theorem memAbove_mono {a a' : Nat} (h : a' ≤ a) : ∀ {m : List Host.Cell}, memAbove a m → memAbove a' m
  | [], _ => trivial
  | (_, _) :: _, x => ⟨by have := x.1; omega, x.2⟩

theorem memWf_cons (a : Nat) (b : BitVec 8) (r : List Host.Cell) :
    memWf ((a, b) :: r) = true ↔ b ≠ memDefault ∧ memAbove a r := by
  induction r generalizing a b with
  | nil => simp [memWf, memAbove]
  | cons p r ih =>
    obtain ⟨k, c⟩ := p
    simp only [memWf, Bool.and_eq_true, ih, memAbove, bne_iff_ne, ne_eq, decide_eq_true_eq]
    exact and_assoc

theorem memAbove_wf {a : Nat} {m : List Host.Cell} (h : memAbove a m) : memWf m = true := by
  cases m with
  | nil => rfl
  | cons p r => exact (memWf_cons p.1 p.2 r).2 h.2

theorem memAbove_write {a k : Nat} (b : BitVec 8) (h : k < a) :
    ∀ {m : List Host.Cell}, memAbove k m → memAbove k (memWrite m a b) := by
  intro m
  induction m generalizing k with
  | nil => intro _; simp only [memWrite]; split <;> simp [memAbove, *]
  | cons p r ih =>
    obtain ⟨j, c⟩ := p
    intro x
    simp only [memWrite]
    split
    · subst_vars
      split
      · exact memAbove_mono (Nat.le_of_lt x.1) x.2.2
      · exact ⟨h, by assumption, x.2.2⟩
    · split
      · split
        · exact x
        · exact ⟨h, by assumption, by assumption, x.2⟩
      · exact ⟨x.1, x.2.1, ih (by omega) x.2.2⟩

/-- A write of one byte keeps the canonical form. -/
theorem memWrite_wf {m : List Host.Cell} (a : Nat) (b : BitVec 8) (h : memWf m = true) : memWf (memWrite m a b) = true := by
  cases m with
  | nil => simp only [memWrite]; split <;> simp [memWf, *]
  | cons p r =>
    obtain ⟨k, c⟩ := p
    have hk := (memWf_cons k c r).1 h
    simp only [memWrite]
    split
    · subst_vars
      split
      · exact memAbove_wf hk.2
      · exact (memWf_cons _ _ _).2 ⟨by assumption, hk.2⟩
    · split
      · split
        · exact h
        · exact (memWf_cons _ _ _).2 ⟨by assumption, by assumption, hk⟩
      · exact (memWf_cons _ _ _).2 ⟨hk.1, memAbove_write b (by omega) hk.2⟩

theorem memWriteN_wf {m : List Host.Cell} (a v n : Nat) (h : memWf m = true) : memWf (memWriteN m a v n) = true := by
  induction n generalizing m a v with
  | zero => exact h
  | succ n ih => exact ih _ _ (memWrite_wf _ _ h)

theorem memWriteL_wf {m : List Host.Cell} (a : Nat) (l : List (BitVec 8)) (h : memWf m = true) : memWf (memWriteL m a l) = true := by
  induction l generalizing m a with
  | nil => exact h
  | cons b r ih => exact ih _ (memWrite_wf _ _ h)

/-! ### Reads after writes -/

theorem memRead_above {a k : Nat} (h : a ≤ k) : ∀ {m : List Host.Cell}, memAbove k m → memRead m a = memDefault
  | [], _ => rfl
  | (j, c) :: r, x => by
    have : k < j := x.1
    simp only [memRead]
    rw [if_neg (by omega), if_pos (by omega)]

/-- A byte reads as it was written, and every other byte as before. -/
theorem memRead_memWrite {m : List Host.Cell} (a k : Nat) (b : BitVec 8) (h : memWf m = true) :
    memRead (memWrite m a b) k = if k = a then b else memRead m k := by
  induction m with
  | nil =>
    simp only [memWrite]
    split
    · subst_vars; split <;> simp [memRead]
    · by_cases hk : k = a <;> simp [memRead, hk]
  | cons p r ih =>
    obtain ⟨j, c⟩ := p
    have hj := (memWf_cons j c r).1 h
    have hr := ih (memAbove_wf hj.2)
    have low : ∀ x, x ≤ j → memRead r x = memDefault := fun x hx => memRead_above hx hj.2
    simp only [memWrite]
    (repeat' split) <;> (try simp only [memRead]) <;> (repeat' split) <;>
      first
      | rfl
      | omega
      | (symm; assumption)
      | exact (low _ (by omega)).trans (by subst_vars; rfl)
      | exact (low _ (by omega)).symm
      | exact hr.trans (if_pos (by assumption))
      | exact hr.trans (if_neg (by assumption))

/-- Outside the n bytes written, every byte reads as before. -/
theorem memRead_memWriteN_other {m : List Host.Cell} (a v n k : Nat) (h : memWf m = true) (hk : k < a ∨ a + n ≤ k) :
    memRead (memWriteN m a v n) k = memRead m k := by
  induction n generalizing m a v with
  | zero => rfl
  | succ n ih => rw [memWriteN, ih _ _ (memWrite_wf _ _ h) (by omega), memRead_memWrite _ _ _ h, if_neg (by omega)]

/-- Outside the bytes written, every byte reads as before. -/
theorem memRead_memWriteL_other {m : List Host.Cell} (a k : Nat) (l : List (BitVec 8)) (h : memWf m = true)
    (hk : k < a ∨ a + l.length ≤ k) : memRead (memWriteL m a l) k = memRead m k := by
  induction l generalizing m a with
  | nil => rfl
  | cons b r ih =>
    simp only [List.length_cons] at hk
    rw [memWriteL, ih _ (memWrite_wf _ _ h) (by omega), memRead_memWrite _ _ _ h, if_neg (by omega)]

/-- n bytes read as the number that was written there. -/
theorem memReadN_memWriteN {m : List Host.Cell} (a v n : Nat) (h : memWf m = true) :
    memReadN (memWriteN m a v n) a n = v % 256 ^ n := by
  induction n generalizing m a v with
  | zero => simp [memReadN, Nat.mod_one]
  | succ n ih =>
    have hw := memWrite_wf a (BitVec.ofNat 8 v) h
    simp only [memReadN, memWriteN]
    rw [ih _ _ hw, memRead_memWriteN_other _ _ _ _ hw (by omega), memRead_memWrite _ _ _ h, if_pos rfl]
    rw [Nat.pow_succ', Nat.mod_mul, BitVec.toNat_ofNat]

/-! ### The memory of the module -/

theorem reset_memOk : State.MemOk State.reset := rfl

theorem wr_memOk {s : State} (a v n : Nat) (h : s.MemOk) : (s.wr a v n).MemOk := memWriteN_wf a v n h

theorem wrBytes_memOk {s : State} (a : Nat) (l : List (BitVec 8)) (h : s.MemOk) : (s.wrBytes a l).MemOk := memWriteL_wf a l h

theorem setFe_memOk {s : State} (w : Nat) (b : Bool) (h : s.MemOk) : (s.setFe w b).MemOk := by
  unfold State.setFe
  split
  · exact memWrite_wf _ _ h
  · exact h

/-- What a write of n bytes makes them read. -/
theorem rd_wr {s : State} (a v n : Nat) (h : s.MemOk) : (s.wr a v n).rd a n = v % 256 ^ n := memReadN_memWriteN a v n h

/-! ### Records of agents -/

theorem core_modCore (s : State) (c k : Nat) (f : Core → Core) :
    (s.modCore c f).core k = if k = c then f (s.core c) else s.core k := by
  unfold State.core
  rw [modCore_cores]
  split
  · subst_vars; exact tget_tset_same _ _ _ _
  · exact tget_tset_other _ _ _ _ _ (by assumption)

theorem die_modDie (s : State) (d k : Nat) (f : Die → Die) :
    (s.modDie d f).die k = if k = d then f (s.die d) else s.die k := by
  unfold State.die
  rw [modDie_dies]
  split
  · subst_vars; exact tget_tset_same _ _ _ _
  · exact tget_tset_other _ _ _ _ _ (by assumption)

theorem part_modPart (s : State) (p k : Nat) (f : Part → Part) :
    (s.modPart p f).part k = if k = p then f (s.part p) else s.part k := by
  unfold State.part
  rw [modPart_parts]
  split
  · subst_vars; exact tget_tset_same _ _ _ _
  · exact tget_tset_other _ _ _ _ _ (by assumption)

/-- A thread's record leaves every other slot alone. -/
theorem getTh_setTh_other (s : State) (k j : Nat) (t : Thread) (h : j ≠ k) :
    (s.setTh (.thread k) t).getTh (.thread j) = s.getTh (.thread j) := tfind_tset_other _ _ _ _ h

theorem setTh_mem (s : State) (a : Agent) (t : Thread) : (s.setTh a t).mem = s.mem := by cases a <;> rfl

theorem modTh_mem (s : State) (a : Agent) (f : Thread → Thread) : (s.modTh a f).mem = s.mem := by
  unfold State.modTh; split
  · rfl
  · exact setTh_mem _ _ _

theorem monEv_mem (s : State) (a : Agent) (e n : Nat) : (s.monEv a e n).mem = s.mem := by
  cases a with
  | sextant d t => rfl
  | thread k =>
    simp only [State.monEv]
    generalize s.slotsOn (coreOf k) = l
    induction l generalizing s with
    | nil => rfl
    | cons x r ih => exact (ih _).trans (modTh_mem _ _ _)

/-! ### Traps (14 R343) -/

theorem withdraw_mem (s : State) (a : Agent) : (s.withdraw a).mem = s.mem := by
  cases a <;> unfold State.withdraw <;> dsimp only <;> (repeat' split) <;> rfl

theorem takeTrap_mem (s : State) (a : Agent) (c : Cause) (b : Bool) (v w : BitVec 64) : (s.takeTrap a c b v w).mem = s.mem := by
  have hw : (if b = true then s.withdraw a else s).mem = s.mem := by
    split
    · exact withdraw_mem _ _
    · rfl
  unfold State.takeTrap
  dsimp only
  split
  · exact hw
  · split
    · split
      · exact (setTh_mem _ _ _).trans hw
      · exact (setTh_mem _ _ _).trans hw
    · exact (setTh_mem _ _ _).trans hw

/-- Taking a synchronous trap with a handler is the entry, and nothing but the thread's record changes. -/
theorem takeTrap_enters {s : State} {a : Agent} {t : Thread} (h : s.getTh a = some t) (c : Cause) (v w : BitVec 64)
    (hs : trapStops t false = false) : s.takeTrap a c false v w = s.setTh a (enterTrap t c false v w) := by
  simp [State.takeTrap, h, hs]

/-- Where a trap enters, and what it saves (14 R343). -/
theorem enterTrap_fields (t : Thread) (c : Cause) (v w : BitVec 64) :
    (enterTrap t c false v w).pc = BitVec.ofNat 64 (vecOf t) ∧ (enterTrap t c false v w).mode = .k ∧
    (enterTrap t c false v w).csr.tepc = trapPc t ∧ (enterTrap t c false v w).csr.tval = v ∧
    (enterTrap t c false v w).csr.tinfo = w ∧ (enterTrap t c false v w).regs = t.regs := ⟨rfl, rfl, rfl, rfl, rfl, rfl⟩

/-! ### One step -/

/-- With an agent selected, the step is the issue of its next instruction. -/
theorem step_selected {s : State} {a : Agent} (h : s.selected = some a) :
    step s = stepIssue { s with selected := none, tick := s.tick + 1 } a := by simp only [step, h]

/-- With none selected, the step is the row of the event that is drawn. -/
theorem step_event {s : State} (h : s.selected = none) :
    step s = stepEvent { s with tick := s.tick + 1 } (drawEvent s).1 (drawEvent s).2 := by simp only [step, h]

/-- An event's row either has its effect or finds that its event names nothing. -/
theorem evDo_cases (e : Event) (t : State) :
    evDo e t = .next { t with ev := none } ∨ evDo e t = .fault .noSuchUnit := by
  unfold evDo; split <;> simp

end Sys2Proof.Laws
end

