-- ==== Sys2Proof/Laws/Memory.lean ====
section
/-!
SUPPORT. Memory: which shared operations leave the bytes of every memory as they are, and what that makes of the issue of
an instruction and of an event's row.
-/
namespace Sys2Proof.Laws
open Sys2Proof.Machine

theorem dueOnce_mem (s : State) (e : Event) : (s.dueOnce e).mem = s.mem := by unfold State.dueOnce; split <;> rfl

theorem parkOn_mem (s : State) (a : Agent) (p : Park) (g : Prog) : (s.parkOn a p g).mem = s.mem := by
  unfold State.parkOn; rw [dueOnce_mem, monEv_mem, modTh_mem]

theorem wake_mem (s : State) (a : Agent) : (s.wake a).mem = s.mem := modTh_mem _ _ _

theorem dropLocks_mem (s : State) (k : Nat) : (s.dropLocks k).mem = s.mem := rfl

theorem leaveLocks_mem (s : State) (k : Nat) : (s.leaveLocks k).mem = s.mem := rfl

theorem modTag_inFrame_mem (s : State) (a : Agent) (tag : Nat) (f : Thread → Thread) : (State.modTag.inFrame s a tag f).mem = s.mem := by
  unfold State.modTag.inFrame
  split
  · rfl
  · split <;> rfl

theorem modTag_mem (s : State) (a : Agent) (tag : Nat) (f : Thread → Thread) : (s.modTag a tag f).mem = s.mem := by
  unfold State.modTag
  split
  · split
    · exact setTh_mem _ _ _
    · exact modTag_inFrame_mem _ _ _ _
  · exact modTag_inFrame_mem _ _ _ _

theorem raise_mem (s : State) (a : Agent) (tag : Nat) (x : AsyncTrap) : (s.raise a tag x).mem = s.mem := modTag_mem _ _ _ _

theorem dieEv_mem (s : State) (d ev o : Nat) : (s.dieEv d ev o).mem = s.mem := rfl

theorem popIn_mem (s : State) (a : Agent) (t : Thread) (n : Nat) : (popIn s a t n).mem = s.mem := by
  unfold popIn; (repeat' split) <;> rfl

theorem pushOut_mem (s : State) (k : Nat) (t : Thread) (p : Nat) (w : Option PortWord) : (pushOut s k t p w).mem = s.mem := by
  unfold pushOut
  split
  · rfl
  · dsimp only; split <;> rfl

/-- The retirement of an instruction leaves memory as its own effect left it. -/
theorem retire_mem (e : Env) (f : Fields) (r : Ret) : (retire e f r).mem = r.s.mem := by
  unfold retire
  split
  · rfl
  · dsimp only
    (repeat' split) <;> simp only [pushOut_mem, raise_mem, popIn_mem, setTh_mem]

/-- The state that the outcome of an instruction's own checks and effects carries; e.s for a trap. -/
def resState (e : Env) : Res → State
  | .ok r => r.s
  | .trap _ _ _ => e.s
  | .park _ _ s => s
  | .final s => s

/-- What becomes of a result changes no byte of memory beyond the instruction's own effect. -/
theorem finish_mem (e : Env) (f : Fields) (r : Res) : (finish e f r).mem = (resState e r).mem := by
  cases r with
  | ok r => exact retire_mem _ _ _
  | trap c v w => exact takeTrap_mem _ _ _ _ _ _
  | park p g s => exact parkOn_mem _ _ _ _
  | final s => rfl

theorem envOf_mem (s : State) (a : Agent) (t : Thread) (i : Instr) (f : Fields) : (envOf s a t i f).s.mem = s.mem := by
  unfold envOf; dsimp only; split <;> rfl

/-- The shared issue either changes no byte of memory or ends with the instruction's own effect. -/
theorem issue_mem (s : State) (a : Agent) (t : Thread) (i : Instr) (f : Fields) (body : Env → Res) :
    (issue s a t i f body).mem = s.mem ∨
    (issue s a t i f body).mem = (resState (envOf s a t i f) (body (envOf s a t i f))).mem := by
  unfold issue
  dsimp only
  (repeat' split) <;>
    first
    | exact Or.inl (takeTrap_mem _ _ _ _ _ _)
    | exact Or.inl ((takeTrap_mem _ _ _ _ _ _).trans (setTh_mem _ _ _))
    | exact Or.inl (parkOn_mem _ _ _ _)
    | exact Or.inr (finish_mem _ _ _)

/-- An encoded instruction keeps the canonical form where its own effect does. -/
theorem runIns_memOk {s s' : State} {i : Instr} {f : Fields} {body : Env → Res} (h : s.MemOk)
    (hb : ∀ e, e.s.MemOk → (resState e (body e)).MemOk) (hs : runIns s i f body = .next s') : s'.MemOk := by
  unfold runIns at hs
  split at hs
  · cases hs
  · split at hs
    · cases hs
    · cases hs
      have hm : memWf s.mem = true := h
      show memWf (issue s _ _ i f body).mem = true
      rcases issue_mem s _ _ i f body with x | x
      · rw [x]; exact hm
      · rw [x]
        exact hb _ (by show memWf (envOf s _ _ i f).s.mem = true; rw [envOf_mem]; exact hm)

/-- An event's row keeps the canonical form where its effect does. -/
theorem evDo_memOk {e : Event} {t s' : State} (h : t.MemOk) (hs : evDo e t = .next s') : s'.MemOk := by
  unfold evDo at hs
  split at hs
  · cases hs; exact h
  · cases hs

end Sys2Proof.Laws
end

