-- ==== Sys2Proof/Laws/Points.lean ====
section
/-!
SUPPORT. Points: what a move of a request along its points can do, and the waits of releases and acquires, said once.
-/
namespace Sys2Proof.Laws
open Sys2Proof.Machine

/-- The machine that a passage leaves. -/
def passed : Passage → State
  | .thru s => s
  | .wait s => s

/-- What a unit's points may touch: the exceedance counters and open rows of dies, the claims and the agenda. -/
structure OnlyPoints (s t : State) : Prop where
  mem : t.mem = s.mem
  threads : t.threads = s.threads
  cores : t.cores = s.cores
  clusters : t.clusters = s.clusters
  launches : t.launches = s.launches
  transfers : t.transfers = s.transfers
  net : t.net = s.net
  reqs : t.reqs = s.reqs
  poison : t.poison = s.poison
  eccBad : t.eccBad = s.eccBad
  outbox : t.outbox = s.outbox
  now : t.now = s.now
  nextId : t.nextId = s.nextId

/-- A machine with only dies and claims changed. -/
theorem onlyPoints_of {s t : State} (h : ∃ d c a, t = { s with dies := d, claims := c, agenda := a }) : OnlyPoints s t := by
  obtain ⟨d, c, a, rfl⟩ := h
  exact ⟨rfl, rfl, rfl, rfl, rfl, rfl, rfl, rfl, rfl, rfl, rfl, rfl, rfl⟩

/-- Leaving a point, with a row served, changes dies alone. -/
theorem passedPoint_dies (s : State) (p : Point) (o l r : Nat) : ∃ x, setRow (s.leavePoint p.2.1 o p.1 l) p r = { s with dies := x } := by
  unfold setRow
  split <;> exact ⟨_, rfl⟩

/-- A due event is added once, to the agenda alone. -/
theorem dueOnce_agenda (s : State) (e : Event) : ∃ x, s.dueOnce e = { s with agenda := x } := by
  unfold State.dueOnce
  split
  · exact ⟨s.agenda, rfl⟩
  · exact ⟨_, rfl⟩

/-- A move of a request along its points touches nothing but what points touch. -/
theorem claimStep_only (s : State) (who owner : Nat) (path : List Stop) : OnlyPoints s (passed (claimStep s who owner path)) := by
  apply onlyPoints_of
  unfold claimStep
  split
  · split
    · exact ⟨s.dies, s.claims, s.agenda, rfl⟩
    · exact ⟨s.dies, _, s.agenda, rfl⟩
  · next c _ =>
    split
    · exact ⟨s.dies, _, s.agenda, rfl⟩
    · next p row r _ =>
      split
      · exact ⟨s.dies, s.claims, s.agenda, rfl⟩
      · split
        · obtain ⟨x, hx⟩ := dueOnce_agenda s (.arbitrationRound p.2.1 p.1 p.2.2)
          exact ⟨s.dies, s.claims, x, hx⟩
        · obtain ⟨y, hy⟩ := passedPoint_dies s p c.owner c.lost row
          simp only [hy]
          split
          · exact ⟨y, terase s.claims who, s.agenda, rfl⟩
          · exact ⟨y, tset s.claims who { owner := c.owner, path := r, came := s.now }, s.agenda, rfl⟩

/-- A request with no point on its way goes on, with nothing changed. -/
theorem claimStep_free (s : State) (who owner : Nat) (h : tfind s.claims who = none) : claimStep s who owner [] = .thru s := by
  simp [claimStep, h]

/-- A request before its last point goes on where that point lets it pass. -/
theorem claimStep_last {s : State} {who owner row : Nat} {path : List Stop} {c : Claim} {p : Point}
    (h : tfind s.claims who = some c) (hp : c.path = [(p, row)]) (hf : filterFull s p = false) (hr : behind s p (c.waiting who) = false)
    (hg : c.granted = true ∨ rivalAt s c.owner p = false) : ∃ t, claimStep s who owner path = .thru t := by
  have hw : (!c.granted && rivalAt s c.owner p) = false := by rcases hg with hg | hg <;> simp [hg]
  simp [claimStep, h, hp, hf, hr, hw]

/-- The end of a release's wait: none where there is nothing to wait for. -/
theorem orderWait_done {e : Env} {probe : Bool} {sc : Nat} (hp : e.th.prog = .none) (hs : probe = false ∨ sc = 0 ∨ maskBits e.th = [])
    (hd : delivered e.s e.ag e.th e.s.nextId = true) (hr : probe = true → sc < 3 ∨ refusalPending e.th = false) : orderWait e probe sc = none := by
  unfold orderWait
  rw [hp]
  have hb : (if probe = true ∧ sc ≠ 0 then maskBits e.th else []) = [] := by
    rcases hs with h | h | h <;> simp [h]
  simp only [hb, probesDone, hd, List.isEmpty_nil]
  cases probe with
  | false => simp
  | true => rcases hr rfl with h | h <;> simp [h]

end Sys2Proof.Laws
end

