-- ==== Sys2Proof/Laws/Ready.lean ====
section
/-!
SUPPORT. Ready: a check that computes whether an instruction is ready to run, for concrete states.
-/
namespace Sys2Proof.Laws
open Sys2Proof.Machine Sys2Proof.Claims

/-- The conditions of Ready, computed. -/
def readyB (s : State) (a : Agent) (t : Thread) (i : Instr) (f : Fields) : Bool :=
  (decide (s.cur = some a) && decide (s.getTh a = some t) && unitRuns a i.word) &&
  (!t.seqr.takes t.pc || capturable i.word) && !csrUnknown a f && (!needsK f || decide (t.mode = .k)) &&
  f.all.all (fun p => decide (p.2 < t.win)) && f.tiles.all (fun p => decide (p.2.toNat < t.tlim)) &&
  (entrySrcs t f).all (fun p => decide ((t.ent p.2).st = .present) && !(t.ent p.2).ecc) &&
  (itemsRead t f).all (fun n => !t.ecc.contains n) && (entryNames t f).all (fun p => decide ((t.ent p.2).st ≠ .pending)) &&
  decide ((popFields t f).length ≤ (inWords s a t).length) &&
  ((inWords s a t).take (popFields t f).length).all (fun w => decide (w.mark = none)) &&
  (!pushes t f || hasRoom s a.num t) && (!t.seqr.reissuing || !seqWaits i.word)

/-- What the check finds ready is ready. -/
theorem ready_of {s : State} {a : Agent} {t : Thread} {i : Instr} {f : Fields} (h : readyB s a t i f = true) : Ready s a t i f := by
  simp only [readyB, Bool.and_eq_true, Bool.or_eq_true, Bool.not_eq_true', List.all_eq_true, decide_eq_true_eq] at h
  obtain ⟨⟨⟨⟨⟨⟨⟨⟨⟨⟨⟨⟨⟨⟨h1, h2⟩, h3⟩, h4⟩, h5⟩, h6⟩, h7⟩, h8⟩, h9⟩, h10⟩, h11⟩, h12⟩, h13⟩, h14⟩, h15⟩ := h
  exact { cur := h1, th := h2, unit := h3, csr := h5, window := h7, tiles := h8, live := h9, items := h10, settled := h11, words := h12, clean := h13,
          block := fun x => h4.resolve_left (by simp [x]), mode := fun x => h6.resolve_left (by simp [x]),
          room := fun x => h14.resolve_left (by simp [x]), seq := fun x => h15.resolve_left (by simp [x]) }

end Sys2Proof.Laws
end

