-- ==== Sys2Proof/Machine/Emwen.lean ====
section
/-!
DEFINITION. Emwen: what a program brings to the machine: the words of pseudo-instructions and relocations (02 R32, R33), the
bytes of data directives (02 R36, R37), the images that table directives place (02 R39-R44), and the image that the loader reads
(02 R47, R48).  The text of a source file itself is outside the model (log 82).
-/
namespace Sys2Proof.Machine

/-! ### Relocations and pseudo-instructions (02 R32, R33) -/

/-- Whether a value has relocations (02 R32). -/
def relocOk (v : Int) : Bool := decide (-2147483648 ≤ v) && decide (v ≤ 2147481599)

/-- %lo of a value, the 12 bits of it (02 R32). -/
def relocLo (v : Int) : BitVec 12 := BitVec.ofInt 12 v

/-- %hi of a value (02 R32). -/
def relocHi (v : Int) : BitVec 20 := BitVec.ofInt 20 ((v - (relocLo v).toInt) / 4096)

/-- A pseudo-instruction; a target is the distance in bytes from the instruction to it (02 R33). -/
inductive Pseudo where
  | nop
  | mv (d s : BitVec 5)
  | li (d : BitVec 5) (v : Int)
  | la (d : BitVec 5) (v : Int)
  | j (off : Int)
  | call (off : Int)
  | ret
  | beqz (s : BitVec 5) (off : Int)
  | bnez (s : BitVec 5) (off : Int)
  | csrr (d : BitVec 5) (csr : BitVec 12)
  | csrw (csr : BitVec 12) (s : BitVec 5)
  deriving DecidableEq, Repr

/-- Whether a distance is a multiple of 4 that n bits of halfwords reach (02 R30). -/
def reaches (n : Nat) (off : Int) : Bool := off % 4 == 0 && decide (-(2 ^ n : Int) ≤ off) && decide (off < (2 ^ n : Int))

/-- The instructions that emwas expands a pseudo-instruction into; none where it refuses the operand (02 R33, R34). -/
def Pseudo.expand : Pseudo → Option (List Instr)
  | .nop => some [.addi 0 0 0]
  | .mv d s => some [.addi d s 0]
  | .li d v =>
    if decide (-2048 ≤ v) && decide (v ≤ 2047) then some [.addi d 0 (BitVec.ofInt 12 v)]
    else if decide (-2147483648 ≤ v) && decide (v < 2147483648) then some [.lui d (BitVec.ofInt 20 ((v + 2048) / 4096)), .addiw d d (BitVec.ofInt 12 v)]
    else none
  | .la d v => if relocOk v then some [.lui d (relocHi v), .addi d d (relocLo v)] else none
  | .j off => if reaches 20 off then some [.jal 0 (BitVec.ofInt 20 (off / 2))] else none
  | .call off => if reaches 20 off then some [.jal 1 (BitVec.ofInt 20 (off / 2))] else none
  | .ret => some [.jalr 0 1 0]
  | .beqz s off => if reaches 12 off then some [.beq s 0 (BitVec.ofInt 12 (off / 2))] else none
  | .bnez s off => if reaches 12 off then some [.bne s 0 (BitVec.ofInt 12 (off / 2))] else none
  | .csrr d csr => if csrKnown csr.toNat then some [.csrrs d 0 csr] else none
  | .csrw csr s => if csrKnown csr.toNat && bits csr.toNat 11 10 != 3 then some [.csrrw 0 s csr] else none

/-! ### Data directives (02 R36, R37) -/

/-- The low n bytes of a value, the first one lowest (00 R2). -/
def leBytes (v : Nat) : Nat → List (BitVec 8)
  | 0 => []
  | n + 1 => BitVec.ofNat 8 v :: leBytes (v / 256) n

/-- What `.byte`, `.half`, `.word` and `.dword` place for a value, by its width in bytes: none outside the range. -/
def dataInt (n : Nat) (v : Int) : Option (List (BitVec 8)) :=
  if decide (-(2 ^ (8 * n - 1) : Int) ≤ v) && decide (v < (2 ^ (8 * n) : Int)) then some (leBytes (v % (2 ^ (8 * n) : Int)).toNat n) else none

/-- A floating-point literal or an integer expression: a fraction of integers, minus zero, infinity or NaN (02 R29, R36). -/
inductive FloatLit where
  | ratio (num : Int) (den : Nat)
  | negZero
  | inf (neg : Bool)
  | nan
  deriving DecidableEq, Repr

/-- The value of a literal. -/
def FloatLit.val : FloatLit → Val
  | .ratio n d => (vDiv (Val.ofInt n) (Val.ofInt d)).1
  | .negZero => .fin true 0 0
  | .inf neg => .inf neg
  | .nan => .nan false

/-- What `.float` (format 1) and `.fp8` (formats 4 and 5) place: the literal rounded to nearest even, none where its magnitude
exceeds the largest finite value, and for an infinity that the format does not have. -/
def dataFloat (c : Nat) (x : FloatLit) : Option (List (BitVec 8)) :=
  let out := some (leBytes (roundTo c .rne x.val).1 (fmtBits c / 8))
  match x with
  | .nan => out
  | .negZero => out
  | .inf _ => if (fpOf c).any (fun f => f.inf.isSome) then out else none
  | .ratio n d =>
    let (m, e) := maxFinite c
    if d = 0 ∨ vLt (vMul (.fin false m e) (Val.ofInt d)).1 (Val.ofInt n.natAbs) = true then none else out

/-- What `.px8` places for a block of 32 values: the block-scale rule, then the encoder (04 R94, R97). -/
def pxBlockBytes (l : List FloatLit) : List (BitVec 8) :=
  let v := l.map FloatLit.val
  let k := blockScale 4 v
  let (x, n) := pxEncode k (v.map (fun y => (quantise 4 k true y).1))
  leBytes x n

/-- What `.px8` places: blocks of 32, none for a number of values that is no multiple of it (02 R36). -/
def dataPx8 (l : List FloatLit) : Option (List (BitVec 8)) :=
  if l.length % 32 = 0 then some ((List.range (l.length / 32)).flatMap (fun b => pxBlockBytes ((l.drop (32 * b)).take 32))) else none

/-- How many bytes `.align n` adds at a location (02 R37). -/
def alignPad (at_ n : Nat) : Nat := (2 ^ n - at_ % 2 ^ n) % 2 ^ n

/-- `.align n` in a data section: zero bytes (02 R37). -/
def alignData (at_ n : Nat) : Option (List (BitVec 8)) := if n ≤ 16 then some (List.replicate (alignPad at_ n) 0) else none

/-- `.align n` in `.text`: nop words (02 R37). -/
def alignText (at_ n : Nat) : Option (List (BitVec 32)) := if 2 ≤ n ∧ n ≤ 16 then some (List.replicate (alignPad at_ n / 4) 0x13) else none

/-! ### Images of the table directives (02 R40-R44) -/

/-- The operands of `.tile`: those left out take their defaults (02 R40). -/
structure TileKeys where
  base : Nat
  pitch : Nat
  rows : Nat
  cols : Nat
  vrows : Option Nat := none
  vcols : Option Nat := none
  scale : Nat := 0
  deriving DecidableEq, Repr

/-- `.tile` (02 R40; 10 R239). -/
def tileImage (k : TileKeys) : Option Desc :=
  let vrows := k.vrows.getD k.rows
  let vcols := k.vcols.getD k.cols
  if k.base % 32 = 0 ∧ k.base < 65536 ∧ k.pitch % 32 = 0 ∧ k.pitch < 65536 ∧ 1 ≤ k.rows ∧ k.rows ≤ 128 ∧ 1 ≤ k.cols ∧ k.cols ≤ 128 ∧
      vrows ≤ k.rows ∧ vcols ≤ k.cols ∧ k.scale < 65536 then
    some (BitVec.ofNat 128 (k.scale * 2 ^ 64 + vcols * 2 ^ 56 + vrows * 2 ^ 48 + k.cols * 2 ^ 40 + k.rows * 2 ^ 32 + k.pitch * 2 ^ 16 + k.base))
  else none

/-- The operands of `.seg`: kind 0 local to 5 fabric, base, limit and the rights (02 R41). -/
structure SegKeys where
  kind : Nat
  base : Nat
  limit : Nat
  r : Bool
  w : Bool
  a : Bool
  t : Bool
  deriving DecidableEq, Repr

/-- `.seg` (02 R41; 06 R137). -/
def segImage (k : SegKeys) : Option (BitVec 128) :=
  if k.kind < 6 ∧ k.base % 32 = 0 ∧ k.base < 2 ^ 52 ∧ k.limit ≤ 2 ^ 52 ∧ k.base + k.limit ≤ 2 ^ spaceBits k.kind then
    some (BitVec.ofNat 128 (k.limit * 2 ^ 64 + k.kind * 2 ^ 56 + k.t.toNat * 2 ^ 55 + k.a.toNat * 2 ^ 54 + k.w.toNat * 2 ^ 53 + k.r.toNat * 2 ^ 52 + k.base))
  else none

/-- The keys of `.gen` that stand in the source; a used one that is left out takes 0 (02 R42). -/
structure GenKeys where
  kind : Nat
  fmt : Option Nat := none
  scale : Option Nat := none
  seed : Option (BitVec 64) := none
  scope : Option Nat := none
  row0 : Nat := 0
  col0 : Nat := 0
  orient : Bool := false
  q : Option Nat := none
  table : Option Nat := none
  deriving DecidableEq, Repr

/-- Whether emwas takes the keys of a `.gen`: each in its range, none that the kind does not use (02 R42; 13 R324, R325). -/
def GenKeys.ok (k : GenKeys) : Bool :=
  decide (1 ≤ k.kind) && decide (k.kind ≤ 7) && k.fmt.all (fun f => decide (1 ≤ f) && decide (f ≤ 9)) && k.scale.all (fun x => decide (x ≤ 254)) &&
    k.scope.all (fun x => decide (x ≤ 2)) && decide (k.row0 < 2 ^ 32) && decide (k.col0 < 2 ^ 32) && k.q.all (fun x => decide (x ≤ 256)) &&
    k.table.all (fun x => x % 32 == 0 && decide (x ≤ 65280)) &&
    (k.q.isNone || k.kind == 4) && (k.table.isNone || k.kind == 7) && ((k.seed.isNone && k.scope.isNone) || decide (k.kind ≤ 4))

/-- `.gen` (02 R42; 13 R324). -/
def genImage (k : GenKeys) : Option (BitVec 256) :=
  if k.ok then
    some (BitVec.ofNat 256 (k.table.getD 0 * 2 ^ 176 + k.q.getD 0 * 2 ^ 160 + k.scale.getD 0 * 2 ^ 152 + k.fmt.getD 0 * 2 ^ 144 + k.scope.getD 0 * 2 ^ 136 +
      k.orient.toNat * 2 ^ 132 + k.kind * 2 ^ 128 + k.row0 * 2 ^ 96 + k.col0 * 2 ^ 64 + (k.seed.getD 0).toNat))
  else none

/-- The keys of `.launch` with their defaults (02 R43). -/
structure LaunchKeys where
  entry : Nat
  cores : Nat
  window : Nat
  args : BitVec 64 := 0
  elastic : Bool := false
  strict : Bool := false
  slots : Nat := 1
  tiles : Nat := 8
  depth : Nat := 1
  priority : Nat := 0
  stack : Nat := 65536
  segs : List (BitVec 64) := []
  origin : Nat := 0
  deriving DecidableEq, Repr

/-- WS of a window (15 R372). -/
def wsOf (w : Nat) : Nat := match w with | 16 => 1 | 24 => 2 | 32 => 3 | _ => 0
/-- TL of a tile limit (15 R372). -/
def tlOf (n : Nat) : Nat := match n with | 4 => 0 | 8 => 1 | 16 => 2 | _ => 3

/-- The twelve dwords of the launch record that `.launch` places: LCOUNT is cores × slots and DONE is 0 (02 R43; 15 R372);
origin is a core's number. -/
def launchImage (k : LaunchKeys) : List (BitVec 64) :=
  [BitVec.ofNat 64 (k.stack / 16 * 2 ^ 48 + (k.depth - 1) * 2 ^ 32 + (k.slots - 1) * 2 ^ 24 + k.priority * 2 ^ 22 + k.strict.toNat * 2 ^ 21 +
     k.elastic.toNat * 2 ^ 20 + tlOf k.tiles * 2 ^ 18 + wsOf k.window * 2 ^ 16 + k.entry),
   BitVec.ofNat 64 ((k.cores - 1) * 2 ^ 32 + coordOf (k.origin * 64)), k.args, BitVec.ofNat 64 (k.cores * k.slots), 0] ++
  (List.range 7).map (fun i => k.segs.getD i 0)

/-- Whether emwas takes the keys of a `.launch` (02 R43). -/
def LaunchKeys.ok (k : LaunchKeys) : Bool :=
  decide (1 ≤ k.cores) && decide (k.cores ≤ 12800) && decide (1 ≤ k.slots) && decide (k.slots ≤ 64) && wsOf k.window != 0 && tlOf k.tiles != 3 &&
    decide (1 ≤ k.depth) && decide (k.depth ≤ 64) && decide (k.priority ≤ 3) && k.stack % 16 == 0 && decide (k.stack ≤ 65536) && k.entry % 4 == 0 &&
    decide (k.entry < 65536) && decide (k.origin < 409600) && decide (k.segs.length ≤ 7)

/-- The operands of `.handler`: policy 0 nak, 1 spill, 2 trapsend (02 R44). -/
structure HandlerKeys where
  index : Nat
  entry : Nat
  policy : Nat := 0
  quota : Nat := 64
  ring : Option Nat := none
  deriving DecidableEq, Repr

/-- The entry of `.handler`: WS 01 and TL 00; OWNER and RINGBASE are left to the loader (02 R44; 16 R406). -/
def handlerImage (k : HandlerKeys) : Option (BitVec 128) :=
  let ring := k.ring.getD 0
  if k.index < 4096 ∧ k.entry % 4 = 0 ∧ k.entry < 65536 ∧ k.policy ≤ 2 ∧ 1 ≤ k.quota ∧ k.quota ≤ 64 ∧ ring < 65536 ∧ (k.policy = 1 ↔ ring ≠ 0) ∧
      (k.ring.isSome → k.policy = 1) then
    some (BitVec.ofNat 128 (ring * 2 ^ 48 + 2 ^ 31 + k.quota * 2 ^ 24 + k.policy * 2 ^ 20 + 2 ^ 16 + k.entry))
  else none

/-! ### Sections (02 R35-R44) -/

/-- A directive of a data section: values of a width in bytes, of `.float` and `.fp8` by format, of `.px8`, a gap, or a
table image. -/
inductive DataItem where
  | ints (n : Nat) (l : List Int)
  | floats (fmt : Nat) (l : List FloatLit)
  | px8 (l : List FloatLit)
  | align (n : Nat)
  | tile (k : TileKeys)
  | seg (k : SegKeys)
  | gen (k : GenKeys)
  | launch (k : LaunchKeys)
  deriving DecidableEq, Repr

/-- What all of a list places, in order: none where one is refused. -/
def placeAll {α : Type} (f : α → Option (List (BitVec 8))) : List α → Option (List (BitVec 8))
  | [] => some []
  | x :: r => match f x, placeAll f r with
    | some a, some b => some (a ++ b)
    | _, _ => none

/-- What a directive places at a location: none where emwas refuses it, as it does a table image at a location that is not
aligned (02 R36-R43; 13 R324). -/
def DataItem.place (at_ : Nat) : DataItem → Option (List (BitVec 8))
  | .ints n l => placeAll (dataInt n) l
  | .floats c l => placeAll (dataFloat c) l
  | .px8 l => dataPx8 l
  | .align n => alignData at_ n
  | .tile k => if at_ % 16 = 0 then (tileImage k).map (fun d => leBytes d.toNat 16) else none
  | .seg k => if at_ % 16 = 0 then (segImage k).map (fun d => leBytes d.toNat 16) else none
  | .gen k => if at_ % 32 = 0 then (genImage k).map (fun d => leBytes d.toNat 32) else none
  | .launch k => if at_ % 16 = 0 ∧ k.ok = true then some ((launchImage k).flatMap (fun d => leBytes d.toNat 8)) else none

/-- The bytes of a data section from a location on: none where a directive is refused. -/
def placeItems (at_ : Nat) : List DataItem → Option (List (BitVec 8))
  | [] => some []
  | x :: r => match x.place at_ with
    | none => none
    | some a => (placeItems (at_ + a.length) r).map (fun b => a ++ b)

/-- The directives of a section with their locations. -/
def itemsAt (at_ : Nat) : List DataItem → List (Nat × DataItem)
  | [] => []
  | x :: r => (at_, x) :: itemsAt (at_ + ((x.place at_).getD []).length) r

/-- A piece of `.text`: words, or a gap. -/
inductive TextItem where
  | words (l : List (BitVec 32))
  | align (n : Nat)
  deriving DecidableEq, Repr

/-- The words of `.text` from a location on: none where a gap is refused (02 R37). -/
def placeText (at_ : Nat) : List TextItem → Option (List (BitVec 32))
  | [] => some []
  | .words l :: r => (placeText (at_ + 4 * l.length) r).map (fun b => l ++ b)
  | .align n :: r => match alignText at_ n with
    | none => none
    | some a => (placeText (at_ + 4 * a.length) r).map (fun b => a ++ b)

/-! ### The image (02 R35, R39, R47, R48) -/

/-- What a source file comes to: its code and local data, the banks that it declares with their format codes, its trap vector,
the data sections of segments, and its handler entries. -/
structure Source where
  text : List TextItem := []
  items : List DataItem := []
  banks : Tbl Nat := []
  /-- The label of `.tvec`, where the file has one (02 R48). -/
  tvec : Option Nat := none
  segs : Tbl (List DataItem) := []
  handlers : List HandlerKeys := []
  deriving DecidableEq, Repr

/-- The code words. -/
def Source.code (x : Source) : List (BitVec 32) := (placeText 0 x.text).getD []

/-- EXB: the boundary at or above the end of the code, in units of 256 bytes (02 R35; 05 R123). -/
def Source.exb (x : Source) : Nat := ceilDiv (4 * x.code.length) 256

/-- The local data, which starts at EXB × 256 (02 R35). -/
def Source.data (x : Source) : List (BitVec 8) := (placeItems (x.exb * 256) x.items).getD []

/-- The launch list: the offsets of the records in the local data, in source order (02 R43, R47). -/
def Source.launches (x : Source) : List Nat :=
  (itemsAt (x.exb * 256) x.items).filterMap (fun p => match p.2 with | .launch _ => some p.1 | _ => none)

/-- The values of the labels of `.seg` directives in the local data (02 R43). -/
def Source.segLabels (x : Source) : List Nat :=
  (itemsAt (x.exb * 256) x.items).filterMap (fun p => match p.2 with | .seg _ => some p.1 | _ => none)

/-- The keys of every `.launch` of the file. -/
def Source.launchKeys (x : Source) : List LaunchKeys :=
  (x.items ++ (x.segs.map Prod.snd).flatten).filterMap (fun i => match i with | .launch k => some k | _ => none)

/-- Bytes made up to a multiple of n with zeros. -/
def padTo (n : Nat) (l : List (BitVec 8)) : List (BitVec 8) := l ++ List.replicate ((n - l.length % n) % n) 0

/-- The declared banks that do not lie wholly below EXB (02 R39). -/
def Source.live (x : Source) : Tbl Nat := (x.banks.filter (fun p => (p.1 + 1) * 4096 > x.exb * 256)).eraseDups

/-- The local image: code, zeros up to EXB, data, zeros up to a multiple of 16. -/
def Source.local_ (x : Source) : List (BitVec 8) :=
  padTo 16 (padTo 256 ((x.code.map (fun w => leBytes w.toNat 4)).flatten) ++ x.data)

/-- Whether a value is that of a label of the code. -/
def Source.codeLabel (x : Source) (a : Nat) : Bool := a % 4 == 0 && decide (a ≤ 4 * x.code.length)

/-- Whether emwas takes the file: every directive, the trap vector, the segment numbers, no bank declared twice with different
formats, and the labels of launches and handlers (02 R35-R44, R48). -/
def Source.ok (x : Source) : Bool :=
  (placeText 0 x.text).isSome && (placeItems (x.exb * 256) x.items).isSome && x.segs.all (fun p => (placeItems 0 p.2).isSome) &&
    (match x.tvec with | none => true | some v => v != 0 && x.codeLabel v && decide (v < x.exb * 256)) && x.segs.all (fun p => decide (1 ≤ p.1) && decide (p.1 ≤ 7)) &&
    x.banks.all (fun p => decide (p.1 < 16) && decide (p.2 < 10) && x.banks.all (fun q => q.1 != p.1 || q.2 == p.2)) &&
    x.launchKeys.all (fun k => x.codeLabel k.entry && k.segs.all (fun v => v == 0 || x.segLabels.contains v.toNat)) &&
    x.handlers.all (fun k => (handlerImage k).isSome && x.codeLabel k.entry) && decide (x.local_.length ≤ 65536)

/-- The image that emwas writes and the loader reads (02 R47). -/
def Source.image (x : Source) : List (BitVec 8) :=
  let live := x.live
  leBytes 0x4E574D45 4 ++ leBytes 1 2 ++ leBytes x.exb 2 ++ leBytes (x.tvec.getD 0) 8 ++
  leBytes ((live.map (fun p => p.2 * 16 ^ p.1)).sum) 8 ++ leBytes ((live.map (fun p => 2 ^ p.1)).sum) 2 ++
  leBytes x.segs.length 2 ++ leBytes x.handlers.length 2 ++ leBytes x.launches.length 2 ++ leBytes x.local_.length 8 ++ List.replicate 24 0 ++
  x.local_ ++
  (x.segs.map (fun p => let b := (placeItems 0 p.2).getD []; leBytes p.1 8 ++ leBytes b.length 8 ++ padTo 16 b)).flatten ++
  (x.handlers.map (fun k => leBytes k.index 8 ++ leBytes 0 8 ++ leBytes ((handlerImage k).getD 0).toNat 16)).flatten ++
  (x.launches.map (fun o => leBytes o 8)).flatten

/-- What emwas writes for a file: its image, or nothing where it refuses the file (02 R34, R47). -/
def Source.assemble (x : Source) : Option (List (BitVec 8)) := if x.ok then some x.image else none

end Sys2Proof.Machine
end

