-- ==== Sys2Proof/Tests/Slice0.lean ====
section
/-!
SUPPORT. Slice0: the model's own tests: ill-formed terms that WellFormed refuses, words of the spec's encodings, and for
each statement of the certificates a small state that meets its hypotheses.
-/
namespace Sys2Proof.Tests
set_option Elab.async false
open Sys2Proof.Machine Sys2Proof.Claims Sys2Proof.Laws

/-! ### Small states -/

/-- A thread at offset 16 with registers PRESENT. -/
def th (l : List (Nat × Nat)) : Thread := { pc := 16, regs := l.map (fun p => (p.1, { val := BitVec.ofNat 64 p.2, st := .present })) }
/-- The same in K mode. -/
def kth (l : List (Nat × Nat)) : Thread := { th l with mode := .k }
/-- Slot 0 of core 0. -/
def a0 : Agent := .thread 0
/-- The module with this thread in slot 0 of core 0, about to issue. -/
def on (t : Thread) : State := { State.reset with threads := [(0, t)], cores := [(0, { exb := 1 })], cur := some a0 }
/-- A segment image: kind, rights (1 R, 2 W, 4 A, 8 T), base and limit (06 R137). -/
def sg (kind rights base limit : Nat) : BitVec 128 := BitVec.ofNat 128 (limit * 2 ^ 64 + kind * 2 ^ 56 + rights * 2 ^ 52 + base)
/-- The thread with every segment right on its local store in segment 0 and another segment in segment 1. -/
def withSeg (t : Thread) (g : BitVec 128) : Thread := { t with sgs := [(0, sg 0 15 0 65536), (1, g)] }
/-- The words at the local store of core 0, each 8 bytes. -/
def mem (l : List (Nat × Nat)) : List Host.Cell := l.foldl (fun m p => memWriteN m (aLocal 0 p.1) p.2 8) []
/-- An instruction is ready on the small state. -/
def rdy (s : State) (i : Instr) (f : Fields) : Bool := match s.getTh a0 with | some t => readyB s a0 t i f | none => false
/-- A reach that ends well. -/
def reached (r : Reach) : Bool := match r with | .ok _ _ => true | _ => false
/-- The outcome of an instruction is a next state with a property. -/
def gives (o : Host.Outcome State Fault Refusal) (p : State → Bool) : Bool := match o with | .next t => p t | _ => false
/-- The thread of slot 0 after an instruction has a property. -/
def thAfter (i : Instr) (s : State) (p : Thread → Bool) : Bool := gives (exec i s) (fun u => match u.getTh a0 with | some t => p t | none => false)
/-- The row of an event gives a next state with a property. -/
def does (s : State) (e : Event) (p : State → Bool) : Bool := e.wf && gives (exec e.row { s with ev := some e }) p

/-! ### WellFormed: a term that each check refuses -/

theorem test_wf_scope : (Instr.ldAq 6 1 2 0).wf = false ∧ (Instr.sdRl 7 1 2 0).wf = false ∧ (Instr.fenceS 1 6).wf = false := by decide
theorem test_wf_kind : (Instr.fenceS 0 1).wf = false := by decide
theorem test_wf_axis : (Instr.tsum 0 1 3).wf = false ∧ (Instr.targmax 0 1 4).wf = false := by decide
theorem test_wf_cond : (Instr.tcmp 0 1 2 6).wf = false := by decide
theorem test_wf_barrier_scope : (Instr.barinit 1 2 0).wf = false ∧ (Instr.barinit 1 2 6).wf = false := by decide
theorem test_wf_limit : (Instr.qwait 1 0).wf = false ∧ (Instr.rwait 1 0).wf = false := by decide
theorem test_wf_generator : (Instr.mma 1 0 8 0 0 0 0 0).wf = false ∧ (Instr.mma 0 8 0 0 1 0 0 0).wf = false := by decide
theorem test_wf_units : (Event.rotationPosition 409600).wf = false ∧ (Event.parkWake 26214447).wf = true ∧ (Event.parkWake 26214448).wf = false ∧
    (Event.partitionReset 32).wf = false ∧ (Event.vernierEntry 51200).wf = false ∧ (Event.flr 32).wf = false := by decide

/-! ### Decoding: words written out from the maps of 03 R57 to R74 -/

/-- The decoder gives an instruction for a word. -/
def reads (w : BitVec 32) (i : Instr) : Bool := match decodeWord w with | .ok j => decide (j = i) | .error _ => false
def refuses (w : BitVec 32) (r : Reject) : Bool := match decodeWord w with | .ok _ => false | .error e => decide (e = r)

theorem test_decode_upper : reads 0b11111111111111111111_00001_0010111#32 (.auipc 1 0xFFFFF) = true ∧
    reads 0b10000000000000000001_11111_0110111#32 (.lui 31 0x80001) = true := by decide
theorem test_decode_jump : reads 0b0_0000000001_0_00000001_00101_1101111#32 (.jal 5 0x00801) = true ∧
    reads 0b100000000000_00110_000_00001_1100111#32 (.jalr 1 6 0x800) = true := by decide
theorem test_decode_branch : reads 0b1_000001_00010_00001_101_0001_1_1100011#32 (.bge 1 2 0xC11) = true := by decide
theorem test_decode_load : reads 0b111111111111_00010_110_00011_0000011#32 (.lwu 3 2 0xFFF) = true ∧ refuses 0b000000000000_00010_111_00011_0000011#32 .selector = true := by decide
theorem test_decode_store : reads 0b0000001_00100_00101_010_00010_0100011#32 (.sw 4 5 0x022) = true := by decide
theorem test_decode_shift : reads 0b010000_111111_00001_101_00010_0010011#32 (.srai 2 1 63) = true ∧ refuses 0b000010_000001_00001_101_00010_0010011#32 .selector = true := by decide
theorem test_decode_word_shift : reads 0b0100000_11111_00001_101_00010_0011011#32 (.sraiw 2 1 31) = true := by decide
theorem test_decode_op : reads 0b0000001_00011_00010_101_00001_0110011#32 (.divu 1 2 3) = true ∧ reads 0b0000001_00011_00010_110_00001_0111011#32 (.remw 1 2 3) = true := by decide
theorem test_decode_fence : reads 0b1_000_0011_0011_00000_000_00000_0001111#32 (.fence 1 3 3) = true ∧ refuses 0b0_001_0011_0011_00000_000_00000_0001111#32 .reservedField = true := by decide
theorem test_decode_csr : reads 0b010111000000_00011_110_00001_1110011#32 (.csrrsi 1 0x5C0 3) = true ∧ refuses 0b001100000010_00000_000_00000_1110011#32 .selector = true := by decide
theorem test_decode_atomic : reads 0b00010_0_1_00000_00010_011_00001_0101111#32 (.lrD 1 2 0 1) = true ∧ refuses 0b00010_0_1_00001_00010_011_00001_0101111#32 .reservedField = true := by decide
theorem test_decode_ordering : reads 0b000000001_001_01000_010_00111_1011011#32 (.ldff 7 8 1) = true ∧ reads 0b0000011_00010_00011_011_01_000_1011011#32 (.stfe 2 3 0x00D) = true := by decide
theorem test_decode_copy : reads 0b0010100_00010_00011_101_00101_1011011#32 (.cpyTt 5 3 2) = true ∧ reads 0b0100001_00000_00011_101_00101_1011011#32 (.lnch 5 3) = true := by decide
theorem test_decode_wait : reads 0b000000000001_00100_111_00000_1011011#32 (.qwait 4 1) = true ∧ refuses 0b000000000000_00100_111_00000_1011011#32 .badCode = true := by decide
theorem test_decode_tile : reads 0b0110000_00_101_00011_100_00010_0001011#32 (.tcvtSr 2 5 3) = true ∧ reads 0b0111011_00000_00001_001_00010_0001011#32 (.tbcast 2 1 1) = true := by decide
theorem test_decode_matrix : reads 0b1000_0001_0010_0011_1_000_10011_0101011#32 (.mma 1 1 2 3 1 1 1 1) = true ∧ reads 0b0101_0001_0010_0011_0_000_00100_0101011#32 (.mmas 5 1 2 3 0 0 0 0) = true := by decide
theorem test_decode_sequencer : reads 0b000000011_111_00100_010_00000_0101011#32 (.rpt 4 3 7) = true ∧ reads 0b0001011_00000_00101_001_00110_0101011#32 (.gfill 6 5) = true := by decide
theorem test_decode_system : reads 0b0001100_00000_00010_000_00011_1111011#32 (.segset 3 2) = true ∧ reads 0b111111111111_00000_001_00000_1111011#32 (.trap 0xFFF) = true ∧
    refuses 0b111111111111_00001_001_00000_1111011#32 .reservedField = true := by decide
theorem test_decode_invocation : reads 0b0011000_00011_00010_000_00001_1111011#32 (.rinv 1 2 3) = true ∧ reads 0b0110010_00000_00010_000_00001_1111011#32 (.qstatReadPending 1 2) = true := by decide
theorem test_decode_refused : refuses 0 .shortEncoding = true ∧ refuses 0xFFFFFFFF .longEncoding = true ∧ refuses 0b1000011#32 .opcode = true := by decide

/-! ### Witnesses: the core and scalar class, and memory -/

theorem witness_IntegerResults : ∃ i f g, intOp i = some (f, g) ∧ Ready (on (th [(2, 5), (3, 7)])) a0 (th [(2, 5), (3, 7)]) i f :=
  ⟨.sub 1 2 3, _, _, rfl, ready_of (by decide)⟩
theorem test_sub_wraps : thAfter (.sub 1 2 3) (on (th [(2, 5), (3, 7)])) (fun t => t.ent 1 == { val := 0xFFFFFFFFFFFFFFFE, st := .present } && t.pc == 20) = true := by decide +kernel
theorem test_divw_overflow : thAfter (.divw 1 2 3) (on (th [(2, 0x80000000), (3, 0xFFFFFFFF)])) (fun t => (t.ent 1).val == 0xFFFFFFFF80000000) = true := by decide +kernel

theorem witness_JumpsAndBranches : rdy (on (th [])) (.jal 1 0xFFFFC) { dst := some 1 } = true ∧
    rdy (on (th [(2, 1), (3, 2)])) (.beq 2 3 4) { srcs := [(1, 2), (2, 3)] } = true ∧ rdy (on (th [(2, 7)])) (.jalr 1 2 0) (oneSrc 1 2) = true := by decide +kernel
theorem test_jalr_misaligned : thAfter (.jalr 1 2 0) (on { th [(2, 7)] with csr := { tvec := 64 } }) (fun t => t.pc == 64 && t.csr.tval == 6 && t.csr.tepc == 16 && t.ent 1 == (th []).ent 1) = true := by decide +kernel

theorem witness_CsrInstructions : rdy (on (th [(2, 9)])) (.csrrw 1 2 0x001) { oneSrc 1 2 with csr := some 0x001, items := [0x1001] } = true ∧
    rdy (on (th [])) (.csrrs 1 0 0xC00) { oneSrc 1 0 with csr := some 0xC00, items := [0x1C00] } = true ∧
    rdy (on (th [(2, 0)])) (.csrrw 1 2 0x800) { oneSrc 1 2 with csr := some 0x800, items := [0x1800] } = true ∧ pmapRefusal (on (th [(2, 0)])) 0 (th [(2, 0)]) 0 = none := by decide +kernel
theorem witness_CsrTraps : csrIn a0 0x123 = false ∧ (csrIn a0 0x5C0 = true ∧ bits 0x5C0 9 8 = 1 ∧ (th []).mode = .u) ∧
    (csrIn a0 0xC00 = true ∧ bits 0xC00 11 10 = 3 ∧ rdy (on (th [(2, 1)])) (.csrrs 1 2 0xC00) { oneSrc 1 2 with csr := some 0xC00, items := [0x1C00] } = true) := by decide +kernel
theorem witness_CsrKeepsFields : (on (th [])).getTh a0 = some (th []) ∧ (0x001, (fun t : Thread => t.fstat), (0x1F : Word)) ∈ csrHeld := ⟨rfl, List.mem_cons_self⟩
theorem test_csr_write_mask : thAfter (.csrrw 0 2 0x001) (on (th [(2, 0xFFFF)])) (fun t => t.fstat == 0x1F) = true := by decide +kernel

theorem witness_ConsumerCounts : rdy (on (th [])) (.ccnt 15) {} = true ∧ rdy (on (th [])) (.rel 0) { names := [(1, 0)] } = true ∧
    rdy (on (th [(5, 1)])) (.rel 5) { names := [(1, 5)] } = true := by decide +kernel
theorem test_counted_read_releases : thAfter (.addi 1 5 0) (on { th [] with regs := [(5, { val := 3, st := .present, cnt := 1 })] }) (fun t => (t.ent 5).st == .released && (t.ent 1).val == 3) = true := by decide +kernel

/-- A thread with a pointer to offset 512 in x2 and a value in x3. -/
def ptr : Thread := withSeg (th [(2, 512), (3, 7)]) 0
/-- A thread with a pointer to die 1's scratchpad in x2. -/
def far : Thread := withSeg (th [(2, 2 ^ 61), (3, 7)]) (sg 2 15 (2 ^ 25) 4096)
/-- The module with dies 0 and 1 in partition 0. -/
def two (t : Thread) : State := { on t with parts := [(0, { dies := some 3 })] }

theorem witness_LoadsIssue : rdy (on ptr) (.ld 1 2 8) (oneSrc 1 2) = true ∧ ptr.cnt.l < 63 ∧ reached (reach (envOf (on ptr) a0 ptr (.ld 1 2 8) (oneSrc 1 2)) (specLoad 8) 520) = true := by decide +kernel
theorem witness_StoresIssue : rdy (on ptr) (.sb 3 2 0) { srcs := [(1, 2), (2, 3)] } = true ∧ isPosted 0 (aLocal 0 512) = false ∧
    reached (reach (envOf (on ptr) a0 ptr (.sb 3 2 0) { srcs := [(1, 2), (2, 3)] }) (specStore 1) 512) = true ∧
    rdy (two far) (.sd 3 2 0) { srcs := [(1, 2), (2, 3)] } = true ∧ (match reach (envOf (two far) a0 far (.sd 3 2 0) { srcs := [(1, 2), (2, 3)] }) (specStore 8) (2 ^ 61) with
      | .ok b x => isPosted 0 x.place && decide (freeJournal b 0 = some 0) | _ => false) = true := by decide +kernel
theorem test_load_pends : thAfter (.ld 1 2 8) (on ptr) (fun t => t.ent 1 == { val := 0, st := .pending, req := 1 } && t.cnt.l == 1) = true := by decide +kernel
theorem witness_AtomicsIssue : (rdy (on ptr) (.lrD 1 2 1 0) (oneSrc 1 2) && reached (reach (envOf (on ptr) a0 ptr (.lrD 1 2 1 0) (oneSrc 1 2)) (specLr 8) 512)) = true ∧
    (rdy (on ptr) (.amofaddS 1 2 3 0 1) (twoSrc 1 2 3) && reached (reach (envOf (on ptr) a0 ptr (.amofaddS 1 2 3 0 1) (twoSrc 1 2 3)) (specAmo 4) 512) && !isStrict (on ptr) ptr) = true := by decide +kernel
/-- A launch whose record has the bits n in its first dword. -/
def launch0 (n : Nat) : Launch := { record := { dw := [BitVec.ofNat 64 n], segs := [], owner := 0 }, home := 0, kind := 0, live := 1, waiting := false }
theorem witness_StrictLaunchTraps : rdy { on ptr with launches := [(0, launch0 (2 ^ 21))] } (.amofaddS 1 2 3 0 0) (twoSrc 1 2 3) = true ∧
    isStrict { on ptr with launches := [(0, launch0 (2 ^ 21))] } ptr = true := by decide +kernel

theorem witness_FullEmpty : rdy (on { ptr with prog := .served 5 none }) (.ldfe 1 2 0) (oneSrc 1 2) = true ∧
    (rdy (on ptr) (.stff 3 2 0) { srcs := [(1, 2), (2, 3)] } && reached (reach (envOf (on ptr) a0 ptr (.stff 3 2 0) { srcs := [(1, 2), (2, 3)] }) specFeWrite 512)) = true := by decide +kernel
theorem witness_CacheLines : (rdy (on ptr) (.cinv 2 0) { srcs := [(1, 2)] } && reached (reach (envOf (on ptr) a0 ptr (.cinv 2 0) { srcs := [(1, 2)] }) specLine 512)) = true ∧
    (rdy (on ptr) (.cflush 2 0) { srcs := [(1, 2)] } && rdy (on ptr) (.pref 2 0) { srcs := [(1, 2)] } && !reached (reach (envOf (on ptr) a0 ptr (.pref 2 0) { srcs := [(1, 2)] }) specLine (2 ^ 61))) = true := by decide +kernel

/-! ### Witnesses: ordering and the trap and system class -/

theorem witness_Fences : (rdy (on { th [] with prog := .probes 5 1 0 [] }) (.fenceS 3 5) {} && delivered (on (th [])) a0 (th []) 1) = true ∧
    (rdy (on (th [])) (.fence 0 15 15) {} && decide (maskBits (th []) = [])) = true ∧
    (rdy (on { th [] with touched := 1 }) (.fenceS 2 1) {} && decide (maskBits { th [] with touched := 1 } ≠ [])) = true := by decide +kernel
theorem witness_WaitForCounters : rdy (on { th [] with cnt := { l := 7 } }) (.waitc 7 7 0 0) {} = true ∧ rdy (on { th [] with cnt := { l := 8 } }) (.waitc 7 7 0 0) {} = true := by decide +kernel
theorem test_waitc_parks : thAfter (.waitc 7 7 0 0) (on { th [] with cnt := { l := 8 } }) (fun t => t.park == some (.counters 7 7 0 0) && t.pc == 16) = true := by decide +kernel
theorem witness_Barriers : (rdy (on { ptr with prog := .served 0 none }) (.barinit 2 3 1) { srcs := [(1, 2), (2, 3)] } &&
      rdy (on { ptr with prog := .refused { cause := .segRights, tval := 512, tinfo := 0 } }) (.barinit 2 3 1) { srcs := [(1, 2), (2, 3)] } &&
      reached (reachBlock (envOf (on ptr) a0 ptr (.barinit 2 3 1) { srcs := [(1, 2), (2, 3)] }) 0 512 [scopeKind 1])) = true ∧
    (let t := { ptr with bar := some { ptr := 512, gen := 5, scope := 1 } }
     let e := envOf (on t) a0 t (.bar 2) { srcs := [(1, 2)] }
     rdy (on t) (.bar 2) { srcs := [(1, 2)] } && (match reachBlock e 0 512 [0, 1, 2] with | .ok _ q => decide (BitVec.ofNat 32 (blkGen (seenBlock e q)) ≠ 5) | _ => false)) = true := by decide +kernel

theorem witness_SoftwareTraps : rdy (on { th [] with csr := { tvec := 64 } }) (.trap 4095) {} = true ∧ rdy (on (th [])) .ecall {} = true ∧
    rdy (on { th [] with csr := { tstatus := 16, tvec := 64 } }) .ebreak {} = true := by decide +kernel
theorem test_trap_enters : thAfter (.trap 4095) (on { th [] with csr := { tvec := 64 } }) (fun t => t.pc == 64 && decide (t.mode = .k) && t.csr.tval == 4095 && t.csr.tinfo == 1 && t.csr.tepc == 16 &&
    t.csr.tstatus == 0x14) = true := by decide +kernel
theorem witness_TrapEntry : (on { th [] with csr := { tvec := 64 } }).getTh a0 = some { th [] with csr := { tvec := 64 } } ∧ (2 : Word).getLsbD 4 = false ∧ (64 : Word) &&& 0xFFFC ≠ 0 := by decide +kernel
theorem witness_TrapReturn : rdy (on { kth [] with csr := { tepc := 8 } }) .tret { kOnly := true } = true ∧ rdy (on { kth [] with csr := { tepc := 6 } }) .tret { kOnly := true } = true ∧
    (on (th [])).getTh a0 = some (th []) ∧ (th []).mode = .u ∧ (th []).seqr.takes (th []).pc = false := by decide +kernel
theorem test_tret : thAfter .tret (on { kth [] with csr := { tepc := 8, tstatus := 0x14 } }) (fun t => t.pc == 8 && decide (t.mode = .u) && t.csr.tstatus == 6) = true := by decide +kernel
theorem witness_WaitAndBoundary : rdy (on (kth [])) .wfi { kOnly := true } = true ∧ rdy (on (th [])) .fenceI {} = true ∧
    rdy (on (kth [(2, 256)])) (.exbset 2) (kOne 2) = true ∧ rdy (on (kth [(2, 257)])) (.exbset 2) (kOne 2) = true := by decide +kernel
theorem witness_SegmentSet : (let t := { kth [(2, 512)] with sgs := [(0, sg 0 15 0 65536)] }
    let s := { on t with mem := mem [(512, 0x0010000000000000), (520, 64)] }
    rdy s (.segset 1 2) (kOne 2) && (match reach (envOf s a0 t (.segset 1 2) (kOne 2)) (specImage 16 16) 512 with
      | .ok b q => (match readImage (envOf s a0 t (.segset 1 2) (kOne 2)) b q 16 with | .ok v => !sgMalformed (BitVec.ofNat 128 v) && v == 64 * 2 ^ 64 + 2 ^ 52 | .error _ => false)
      | _ => false)) = true := by decide +kernel
theorem witness_WatchpointWrite : rdy (on (kth [(2, 0xC3A), (3, 0x1000)])) (.watch 2 3) (kTwo 2 3) = true ∧ rdy (on (kth [(2, 0xC3A), (3, 0x800)])) (.watch 2 3) (kTwo 2 3) = true := by decide +kernel
theorem witness_BankLocks : rdy (on (kth [(2, 16)])) (.lockb 2) (kOne 2) = true ∧
    (rdy (on (kth [(2, 15)])) (.lockb 2) (kOne 2) && grantable (on (kth [(2, 15)])) 0 15 0 1) = true ∧
    rdy { on (kth [(2, 3)]) with cores := [(0, { exb := 1, locks := [(3, { holder := some 0 })] })] } (.unlockb 2) (kOne 2) = true ∧
    rdy { on (kth [(2, 3)]) with cores := [(0, { exb := 1, locks := [(3, { holder := some 1 })] })] } (.lockb 2) (kOne 2) = true ∧
    rdy { on (kth [(2, 3)]) with cores := [(0, { exb := 1, locks := [(4, { holder := some 0 })] })] } (.lockb 2) (kOne 2) = true := by decide +kernel
theorem witness_RotationWrites : rdy (on (kth [(2, 7), (3, 0xBF00000000000000)])) (.rotwWriteShadow 2 3) (kTwo 2 3) = true ∧ rdy (on (kth [(2, 2 ^ 62 + 63), (3, 3)])) (.rotwWriteAttributes 2 3) (kTwo 2 3) = true ∧
    rdy (on (kth [(2, 2 ^ 63), (3, 0)])) (.rotwCommit 2 3) (kTwo 2 3) = true ∧ rdy (on (kth [(2, 3 * 2 ^ 62), (3, 0)])) (.rotwCopy 2 3) (kTwo 2 3) = true := by decide +kernel
theorem test_rotw_commit : gives (exec (.rotwCommit 2 3) (on (kth [(2, 2 ^ 63), (3, 0)]))) (fun s => (s.core 0).commit == some []) = true := by decide +kernel

/-! ### Witnesses: tiles, matrices and generators -/

/-- The descriptor of an 8 by 8 FP32 tile at a base. -/
def tile (base : Nat) : BitVec 128 := BitVec.ofNat 128 (base + 32 * 2 ^ 16 + 8 * 2 ^ 32 + 8 * 2 ^ 40 + 8 * 2 ^ 48 + 8 * 2 ^ 56)
/-- A thread with tiles 0, 1, 2 in three banks. -/
def tth (l : List (Nat × Nat)) : Thread := { withSeg (th l) 0 with descs := [(0, tile 4096), (1, tile 8192), (2, tile 12288)] }

theorem witness_QueuedOperations : (let i := Instr.tadd 2 0 1 0
    let f : Fields := { tiles := [(0, 2), (1, 0), (2, 1)], items := [0x102, 0x100, 0x101] }
    rdy (on (tth [])) i f && (match queueOp (on (tth [])) 0 (tth []) {} i 16 0 0 with | .ok _ => true | .error _ => false) && queueRoom ((on (tth [])).core 0) false) = true ∧
    (match queueOp (on (th [])) 0 (th []) {} (.tadd 2 0 1 0) 16 0 0 with | .ok _ => false | .error _ => true) = true := by decide +kernel
theorem test_tadd_queues : gives (exec (.tadd 2 0 1 0) (on (tth []))) (fun s => (s.core 0).tileQ.length == 1 && ((s.getTh a0).map (fun t => t.cnt.t)) == some 1) = true := by decide +kernel
theorem witness_queueFields : queueFields (.tadd 2 0 1 0) = some { tiles := [(0, 2), (1, 0), (2, 1)], items := [0x102, 0x100, 0x101] } := rfl
/-- A SIGN generator of FP32 with unscaled values. -/
def gen : BitVec 256 := BitVec.ofNat 256 (2 ^ 128 + 2 ^ 144 + 127 * 2 ^ 152 + 5)
theorem witness_Descriptors : (let t := tth [(2, 512), (3, 3)]
    let s := { on t with mem := mem [(512, (tile 4096).toNat % 2 ^ 64)] }
    let f : Fields := { srcs := [(1, 2)], tiles := [(0, 5)] }
    rdy s (.tdef 5 2) f && (match reach (envOf s a0 t (.tdef 5 2) f) (specImage 16 16) 512 with
      | .ok b q => (match readImage (envOf s a0 t (.tdef 5 2) f) b q 16 with | .ok v => descOk (BitVec.ofNat 128 v) | .error _ => false) | _ => false)) = true ∧
    rdy (on (tth [(2, 8), (3, 8)])) (.tshape 0 2 3) { srcs := [(1, 2), (2, 3)], tiles := [(0, 0)], items := [0x100] } = true ∧
    rdy (on (tth [(3, 9)])) (.txget 1 0 3) { dst := some 1, srcs := [(2, 3)], tiles := [(1, 0)], items := [0x100] } = true ∧
    rdy (on (tth [(2, 9), (3, 0)])) (.txset 0 2 3) { srcs := [(1, 2), (2, 3)], tiles := [(0, 0)], items := [0x100] } = true := by decide +kernel
theorem test_txget : thAfter (.txget 1 0 3) (on (tth [(3, 1)])) (fun t => (t.ent 1).val == 32) = true := by decide +kernel

theorem witness_GeneratorFill : (let t := { tth [] with gens := [(3, gen)] }
    let s := on t
    let f : Fields := { tiles := [(0, 1)], items := [0x101, 0x203] }
    rdy s (.gfill 1 3) f && rdy s (.gfill 1 4) { f with items := [0x101, 0x204] } && (match opndOf s 0 t {} 1 0 false true with
      | .ok o => (tileChecks (s.core 0) { fmtOk := fun _ => true, shapeOk := fun _ => true } [o]).isNone && gKind (genCap t 3).img != 0 && gKind (genCap t 4).img == 0 &&
          (ropeChecks (s.core 0).exb 1 (genCap t 3).img o).isNone
      | .error _ => false)) = true := by decide +kernel
theorem witness_Generators : (let t := { tth [(2, 512)] with gens := [(3, gen)] }
    let s := { on t with mem := mem [(512, 5), (528, 1 + 2 ^ 16 + 127 * 2 ^ 24)] }
    let f : Fields := { srcs := [(1, 2)] }
    rdy s (.gset 3 2) f && rdy s (.gget 3 2) { f with items := [0x203] } && rdy s (.gseed 3 2) f && reached (reach (envOf s a0 t (.gget 3 2) { f with items := [0x203] }) specGget 512) &&
      (match reach (envOf s a0 t (.gset 3 2) f) (specImage 32 32) 512 with
        | .ok b q => (match readImage (envOf s a0 t (.gset 3 2) f) b q 32 with | .ok v => BitVec.ofNat 256 v == gen && !genMalformed gen && genFmtOk gen | .error _ => false) | _ => false)) = true := by decide +kernel
theorem test_gseed : thAfter (.gseed 3 2) (on { tth [(2, 9)] with gens := [(3, gen)] }) (fun t => (t.gen 3).toNat == 2 ^ 128 + 2 ^ 144 + 127 * 2 ^ 152 + 9) = true := by decide +kernel
theorem witness_VernierAndRepeat : rdy (on (kth [(2, 7), (3, 0x8786858483828180)])) (.mitw 2 3) (kTwo 2 3) = true ∧ rdy (on (kth [(2, 8)])) (.mitw 2 3) (kTwo 2 3) = true ∧
    (∀ k < 8, vernForeign (on (kth [])) 0 0 (128 + k) (128 + k) = false) ∧
    (rdy (on (th [(2, 0)])) (.rpt 2 511 7) { srcs := [(1, 2)] } && !staggerBad 0) = true ∧ staggerBad (2 ^ 64 - 1) = true := by decide +kernel
theorem test_rpt_opens : thAfter (.rpt 2 511 7) (on (th [(2, 0)])) (fun t => t.seqr.busy && t.seqr.n == 8 && t.seqr.m == 511 && t.pc == 20) = true := by decide +kernel

/-! ### Witnesses: copies and streams -/

theorem witness_TileCopies : (let t := tth [(2, 16384), (3, 32)]
    let f : Fields := { srcs := [(1, 2), (2, 3)], tiles := [(0, 0)], items := [0x100] }
    rdy (on t) (.cpyLd 0 2 3) f && (match copyOp (on t) 0 t {} (.cpyLd 0 2 3) 16384 32 with | .ok _ => true | .error _ => false) && (freeEngine ((on t).cluster 0)).isSome &&
      (match copyOp (on t) 0 t {} (.cpySt 0 2 3) (2 ^ 61) 32 with | .error (.trap _ _ _) => true | _ => false)) = true := by decide +kernel
theorem test_copy_starts : thAfter (.cpyLd 0 2 3) (on (tth [(2, 16384), (3, 32)])) (fun t => t.cnt.c == 1 && t.xseq == 1 && t.ringEnt 0 == 0) = true := by decide +kernel
theorem witness_CodecTransfers : (let t := withSeg (th [(2, 1024)]) 0
    let s := fun (n : Nat) => { on t with mem := mem [(1024, 2048), (1032, 4096), (1040, n), (1048, 256)] }
    let e := fun (n : Nat) => envOf (s n) a0 t (.czip 1 2) (oneSrc 1 2)
    rdy (s 4) (.czip 1 2) (oneSrc 1 2) && (match codecBlock (e 4) 0 with
      | .ok (_, dw) => bits (dw.getD 2 0).toNat 31 0 == 4 && (zipExp (bits (dw.getD 2 0).toNat 47 32)).isSome &&
          (match codecPtr (e 4) 0 2048 16 4 false with | .ok _ => true | _ => false) && (match codecPtr (e 4) 0 4096 256 1 true with | .ok _ => true | _ => false)
      | .error _ => false) && (match codecBlock (e 0) 0 with | .ok (_, dw) => bits (dw.getD 2 0).toNat 31 0 == 0 | .error _ => false)) = true := by decide +kernel
/-- The in-port x5 bound to the copy stream. -/
def streamIn : Word := BitVec.ofNat 64 (2 ^ 15 + 5 * 2 ^ 8 + 4 * 2 ^ 4)
theorem witness_ReductionAndStream : (let t := { tth [(2, 2 ^ 61), (3, 0)] with sgs := [(1, sg 1 15 0 1048576)] }
    let f : Fields := { srcs := [(1, 2), (2, 3)], tiles := [(0, 0)], items := [0x100] }
    rdy (on t) (.red 0 2 3) f && (match opndOf (on t) 0 t {} 0 0 false false with
      | .ok o => (tileChecks ((on t).core 0) { fmtOk := fun _ => true, shapeOk := fun _ => true } [o]).isNone | .error _ => false) &&
      (match ptrCheck (on t) 0 t { size := 32, align := 32, r := true, w := true, a := true, kinds := [1, 2], acc := 10 } (2 ^ 61) with | .ok _ => true | .error _ => false)) = true ∧
    (let t := { withSeg (th [(2, 512), (3, 4)]) 0 with pmap := streamIn }
     rdy (on t) (.sbind 2 3) { srcs := [(1, 2), (2, 3)] } && (match ptrCheck (on t) 0 t { size := 32, align := 8, r := true, acc := 10 } 512 with | .ok _ => true | .error _ => false) &&
       decide ((inPort t).map Prod.snd = some 4) && !streaming (on t) 0 t.tag) = true ∧ rdy (on (withSeg (th [(2, 512), (3, 4)]) 0)) (.sbind 2 3) { srcs := [(1, 2), (2, 3)] } = true := by decide +kernel
/-- A transfer of slot 0 with a sequence. -/
def tr (n : Nat) : Transfer := { slot := 0, tag := 0, core := 0, ins := .cpyLd 0 2 3, seq := BitVec.ofNat 16 n, owner := 0 }
theorem witness_StatusAndCancel : rdy (on (th [(2, 2 ^ 63)])) (.cstat 1 2) (oneSrc 1 2) = true ∧ rdy (on (th [(2, 2 ^ 63)])) (.ccancel 2) { srcs := [(1, 2)] } = true ∧
    tfind { on (th []) with transfers := [(1, tr 0)] }.transfers 1 = some (tr 0) := by decide +kernel
theorem test_ccancel : gives (exec (.ccancel 2) { on (th [(2, 2 ^ 63)]) with transfers := [(1, tr 0)] }) (fun s => decide ((tfind s.transfers 1).map (fun x => x.ended) = some (some (6, 0, 0, 0)))) = true := by decide +kernel

/-! ### Witnesses: threads and tasks -/

theorem witness_EndOfThread : rdy (on { th [] with cnt := { s := 1 } }) .quit {} = true ∧ (rdy (on (th [])) .quit {} && (markedEntry (th [])).isNone && !hasJournal (on (th [])) 0 0) = true ∧
    (markedEntry { th [] with regs := [(5, { st := .pending, mark := some { cause := .poison, tval := 0, tinfo := 0 } })] }).isSome = true := by decide +kernel
theorem test_quit_ends : gives (exec .quit { on (th []) with launches := [(0, launch0 0)] }) (fun s => s.threads == [] && s.agenda.contains (.launchDone 0)) = true := by decide +kernel
/-- Dwords of a record at 512: one core, one slot, entry 0, window 16. -/
def record : List (Nat × Nat) := [(512, 2 ^ 16), (520, 2 ^ 8), (536, 1)]
/-- The record that they make. -/
def rec0 : LRec := { dw := [0x10000, 0x100, 0, 1, 0, 0, 0, 0, 0, 0, 0, 0], segs := [], owner := 0 }
theorem witness_CreationAsked : rdy (on (th [(2, 2 ^ 8), (3, 2 ^ 16)])) (.spawn 1 2 3) (twoSrc 1 2 3) = true ∧
    (let s := { on ptr with mem := mem record }
     rdy s (.gspawn 1 2) (oneSrc 1 2) && (match reach (envOf s a0 ptr (.gspawn 1 2) (oneSrc 1 2)) (specImage 48 16) 512 with
        | .ok b q => (match readImage (envOf s a0 ptr (.gspawn 1 2) (oneSrc 1 2)) b q 48 with | .ok _ => true | .error _ => false) | _ => false) &&
      rdy s (.lnch 1 2) (oneSrc 1 2) && (match readAny (envOf s a0 ptr (.lnch 1 2) (oneSrc 1 2)) 0 (start s ptr (oneSrc 1 2)) 512 512 6 with
        | .ok (b, ws) => (match readSegs (envOf s a0 ptr (.lnch 1 2) (oneSrc 1 2)) 0 b 512 ((ws.map (BitVec.ofNat 64)).drop 5) with | .ok (c, _) => (c.getTh a0).isSome | .error _ => false)
        | .error _ => false)) = true ∧
    rec0.malformed = false ∧ coresOk (on (th [])) rec0 0 = true ∧ ({ rec0 with dw := [0, 0x100, 0, 1] }).malformed = true ∧ coresOk (on (th [])) { rec0 with owner := 5 } 0 = false := by decide +kernel
theorem test_submit : (submit (on (th [])) rec0 0 none).1 = 0 ∧ (submit (on (th [])) { rec0 with owner := 5 } 0 none).1 = -3 := by decide +kernel
theorem witness_NextIndex : rdy { on (th []) with launches := [(0, { launch0 0 with record := { rec0 with dw := [0x10000, 0x100, 0, 2] } })] } (.tnext 1) (onlyDst 1) = true ∧
    rdy { on (th []) with launches := [(0, { launch0 0 with kind := 1, record := { rec0 with dw := [0x110000, 0x100, 0, 2] }, claim := 1 })] } (.tnext 1) (onlyDst 1) = true := by decide +kernel
theorem test_tnext : thAfter (.tnext 1) { on (th []) with launches := [(0, { launch0 0 with record := { rec0 with dw := [0x10000, 0x100, 0, 2] } })] } (fun t => (t.ent 1).val == 1 && t.num.lindex == 1) = true := by decide +kernel
/-- A thread of a launch of two indices, with a message key of sender or receiver 1 in x2. -/
def mth (n : Nat) : Thread := { th [(2, n), (3, 9)] with num := { lcount := 2 } }
theorem witness_Messages : (let f : Fields := { srcs := [(1, 2), (2, 3)] }
    rdy (on (mth (2 ^ 48 + 1))) (.msend 2 3) f && rdy (on (mth 1)) (.msend 2 3) f && decide ((((on (mth 1)).die 0).msgs ++ msgsComing (on (mth 1)) 0).length < 4096) && decide (msgHome (on (mth 1)) 0 (mth 1) = 0)) = true ∧
    (rdy (on (mth 1)) (.mrecv 1 2) (oneSrc 1 2) && rdy (on (mth 2)) (.mrecv 1 2) (oneSrc 1 2)) = true ∧
    rdy { on (mth 1) with dies := [(0, { msgs := [{ launch := 0, receiver := 0, sender := 1, seq := 0, payload := 77 }] })] } (.mrecv 1 2) (oneSrc 1 2) = true := by decide +kernel
theorem test_mrecv : gives (exec (.mrecv 1 2) { on (mth 1) with dies := [(0, { msgs := [{ launch := 0, receiver := 0, sender := 1, seq := 0, payload := 77 }] })] })
    (fun s => (s.die 0).msgs == [] && (s.getTh a0).map (fun t => (t.ent 1).val) == some 77) = true := by decide +kernel
theorem witness_Phases : rdy (on (th [(2, 5)])) (.phase 2) (onlySrc 2) = true ∧ chainLinks (on (th [])) 0 (th []) = [] ∧
    (let l : Launch := { launch0 0 with record := { rec0 with dw := [0x100010000, 0x100000000, 0, 2] } }
     let s := { on (th [(2, 5)]) with launches := [(0, l)], threads := [(0, th [(2, 5)]), (64, th [])] }
     rdy s (.phase 2) (onlySrc 2) && decide (chainLinks s 0 (th []) = [(1, 1)]) && (pairSlot s (th []) 1).isSome) = true ∧
    rdy (on { th [(2, 5)] with prog := .released }) (.phase 2) (onlySrc 2) = true := by decide +kernel
/-- The in-port x5 on link N. -/
def northIn : Word := BitVec.ofNat 64 (2 ^ 15 + 5 * 2 ^ 8)
theorem witness_BoundedWaits : (let t := { th [] with pmap := northIn }
    let f : Fields := { names := [(1, 5)] }
    rdy (on { t with prog := .met }) (.qwait 5 1) f && rdy (on t) (.qwait 5 1) f && !portReady (on t) 0 t 5 && (portQueue (on t) 0 t 5).isSome && rdy (on { t with prog := .expired 0 0 }) (.qwait 5 1) f &&
      rdy (on (th [])) (.qwait 5 1) f && (portQueue (on (th [])) 0 (th []) 5).isNone) = true ∧
    (let t := { ptr with prog := .since 0 0 0 }
     rdy (on { ptr with prog := .expired 1 2 }) (.rwait 2 4095) (onlySrc 2) && rdy (on t) (.rwait 2 4095) (onlySrc 2) && (match reach (envOf (on t) a0 t (.rwait 2 4095) (onlySrc 2)) specRing 512 with
      | .ok b q => (match readImage (envOf (on t) a0 t (.rwait 2 4095) (onlySrc 2)) b q 32 with | .ok _ => true | .error _ => false) | _ => false)) = true := by decide +kernel
theorem test_qwait_traps : thAfter (.qwait 5 1) (on { th [] with csr := { tvec := 64 } }) (fun t => t.csr.tval == 0x507 && t.csr.tinfo == 0x10000) = true := by decide +kernel

/-! ### Witnesses: counters, invocations, contexts, owners and queues -/

/-- A thread with the handle of counter 0 of a die in x2. -/
def hth (die : Nat) : Thread := th [(2, die * 2 ^ 16)]
theorem witness_CounterInstructions : rdy (on (th [(2, 2 ^ 32)])) (.cntnew 1 2) (oneSrc 1 2) = true ∧ rdy (on (th [(2, 0)])) (.cntnew 1 2) (oneSrc 1 2) = true ∧
    (rdy (on (hth 0)) (.cntdec 2) (onlySrc 2) && decide (hDie 0 = 0 ∧ hModule 0 = (on (hth 0)).modnum 0)) = true ∧
    (rdy (on (hth 1)) (.cntfree 2) (onlySrc 2) && decide (hDie (2 ^ 16) = 1 ∧ freeJournal (on (hth 1)) 0 = some 0)) = true ∧
    rdy (on { hth 0 with prog := .served 0 (some { cause := .counterFreed, tval := 0, tinfo := 0 }) }) (.cntdec 2) (onlySrc 2) = true ∧
    (let t := withSeg (th [(2, 0), (3, 512)]) 0
     let s := { on t with mem := mem record }
     let f : Fields := { srcs := [(1, 2), (2, 3)] }
     rdy s (.cntbind 2 3) f && rdy (on { t with prog := .served 0 none }) (.cntbind 2 3) f && (match readAny (envOf s a0 t (.cntbind 2 3) f) 0 s 512 512 6 with | .ok _ => true | .error _ => false)) = true := by decide +kernel
theorem test_cntnew : gives (exec (.cntnew 1 2) (on (th [(2, 0)]))) (fun s => (tget (s.die 0).counters 0 {}).st == .ready) = true ∧
    gives (exec (.cntnew 1 2) (on (th [(2, 3)]))) (fun s => tget (s.die 0).counters 0 {} == { st := .armed, val := 3 }) = true := by decide +kernel
theorem witness_Invocations : (rdy (on (th [(2, 1), (3, 0)])) (.rinv 1 2 3) (twoSrc 1 2 3) && invMalformed 1 0) = true ∧
    (rdy (on (th [(2, 2 ^ 40), (3, 0)])) (.rinvr 1 2 3) (twoSrc 1 2 3) && !invMalformed (2 ^ 40) 0 && invOutside (on (th [])) 0 (2 ^ 40) && !importServes (on (th [])) 0 0 (2 ^ 40)) = true ∧
    (let t := th [(2, 0), (3, 2 * 2 ^ 24), (10, 5), (11, 6)]
     rdy (on t) (.rinv 1 2 3) (twoSrc 1 2 3) && !invMalformed 0 (2 * 2 ^ 24) && !invOutside (on t) 0 0 && (argCheck (envOf (on t) a0 t (.rinv 1 2 3) (twoSrc 1 2 3)) 2).isNone && (freeJournal (on t) 0).isSome) = true ∧
    rdy (on (th [(2, 0), (3, 1)])) (.rreply 2 3) { srcs := [(1, 2), (2, 3)] } = true ∧ rdy (on (th [(2, 2 ^ 63), (3, 1)])) (.rreply 2 3) { srcs := [(1, 2), (2, 3)] } = true := by decide +kernel
theorem test_rinv_malformed : thAfter (.rinv 1 2 3) (on (th [(2, 1), (3, 0)])) (fun t => (t.ent 1).val == BitVec.ofInt 64 (-4) && t.pc == 20) = true := by decide +kernel
theorem witness_TableInstructions : (let t := { kth [(2, 4095), (3, 512)] with sgs := [(0, sg 0 15 0 65536)] }
    let s := { on t with mem := mem [(512, 2 * 2 ^ 30)] }
    let e := envOf s a0 t (.impset 2 3) (kTwo 2 3)
    rdy s (.impset 2 3) (kTwo 2 3) && (match reach e (specImage 16 16) 512 with
      | .ok b q => decide (b.partOf 0 = s.partOf 0) && (match readImage e b q 16 with | .ok v => v == 2 ^ 31 && !importBad b 0 (b.modnum 0) v | .error _ => false) | _ => false)) = true ∧
    rdy (on { kth [(2, 4096), (3, 512)] with sgs := [(0, sg 0 15 0 65536)] }) (.htset 2 3) (kTwo 2 3) = true := by decide +kernel
theorem witness_ContextInstructions : (let f : Fields := { oneSrc 1 2 with kOnly := true }
    rdy (on (kth [(2, 1)])) (.ctxout 1 2) f && decide (slotOfCoord 1 = some 1) && rdy (on (kth [(2, 2 ^ 14)])) (.ctxout 1 2) f && rdy (on (kth [(2, 0)])) (.ctxinRestore 1 2) f &&
      (frameOf (on (kth [])) 0 0 0).isNone && rdy (on (kth [(2, 2 ^ 61)])) (.ctxinDiscard 1 2) f) = true ∧
    (let s := { on (kth [(2, 0)]) with dies := [(0, { frames := [(0, { saved := some { th [] with cnt := { l := 1 } } })] })] }
     rdy s (.ctxinRestore 1 2) { oneSrc 1 2 with kOnly := true } && (match frameOf s 0 0 0 with | some (_, fr, u) => (ctxinTarget s 0 0 0 fr u).isSome && frameBusy u | none => false)) = true := by decide +kernel
theorem witness_OwnerQueries : rdy (on (th [])) (.oseed 1) { dst := some 1 } = true ∧ rdy (on (th [(2, 2 ^ 20), (3, 0)])) (.odraw 1 2 3) (twoSrc 1 2 3) = true ∧
    rdy (on { th [(2, 7)] with cnt := { l := 63 } }) (.oshare 1 2) (oneSrc 1 2) = true := by decide +kernel
theorem witness_PlacementAndReseed : rdy (on (th [(2, 0), (3, 2 ^ 20)])) (.oplace 1 2 3) (twoSrc 1 2 3) = true ∧
    (let t := withSeg (th [(2, 2 ^ 61), (3, 0x10000)]) (sg 4 15 0 4096)
     rdy (on t) (.oplace 1 2 3) (twoSrc 1 2 3)) = true ∧
    rdy (on (kth [(2, 77)])) (.oreeseed 1 2) { oneSrc 1 2 with kOnly := true } = true ∧ sweeping (on (kth [])) 0 0 = false ∧
    sweeping { on (kth []) with dies := [(0, { owners := [(0, { seed := 5, sweep := true })] })] } 0 0 = true := by decide +kernel
theorem test_oreeseed : gives (exec (.oreeseed 1 2) (on (kth [(2, 77)]))) (fun s => (s.ownerEnt 0 0).seed == 77 && (s.ownerEnt 0 0).sweep && (s.ownerEnt 0 0).gen == 1) = true := by decide +kernel
/-- The Sextant of die 0 with thread h about to issue. -/
def sxOn (h : Nat) (l : List (Nat × Nat)) : State := { State.reset with dies := [(0, { sx := [(h, { running := true, th := kth l })] })], cur := some (.sextant 0 h) }
theorem witness_SextantInstructions : readyB (sxOn 3 [(2, 2 ^ 32)]) (.sextant 0 3) (kth [(2, 2 ^ 32)]) (.wpkQueue 1 2) (oneSrc 1 2) = true ∧ readyB (sxOn 3 [(2, 1)]) (.sextant 0 3) (kth [(2, 1)]) (.wpkPending 1 2) (oneSrc 1 2) = true ∧
    wpkFinds (sxOn 3 []) 0 3 1 0 = none ∧ readyB (sxOn 32 [(2, 0)]) (.sextant 0 32) (kth [(2, 0)]) (.wpkEvent 1 2) (oneSrc 1 2) = true ∧
    readyB (sxOn 3 [(2, 1023)]) (.sextant 0 3) (kth [(2, 1023)]) (.qkick 2) (onlySrc 2) = true ∧ readyB (sxOn 3 [(2, 1024)]) (.sextant 0 3) (kth [(2, 1024)]) (.qkick 2) (onlySrc 2) = true ∧
    (∀ n ∈ [0, 2 ^ 60, 2 ^ 61 + 2 ^ 10, 2 ^ 61, 3 * 2 ^ 60, 2 ^ 62], readyB (sxOn 3 [(2, n)]) (.sextant 0 3) (kth [(2, n)]) (.qstatReadPending 1 2) (oneSrc 1 2) = true) ∧ (sxOn 3 []).dieIn 0 0 = true := by decide +kernel
theorem test_qstat_bind : gives (exec (.qstatBind 1 2) (sxOn 3 [(2, 2 ^ 61 + 2 ^ 10 + 5)])) (fun s => (tfind (s.qmap 0).slots 0).map Prod.fst == some 5) = true := by decide +kernel

/-! ### Witnesses: the conditions under which queued operations, copies and releases complete -/

/-- The conditions of Stands, computed. -/
def standsB (exb : Nat) (bfmt : Word) (o : Opnd) : Bool :=
  decide (dRows o.d ≠ 0) && decide (∀ p ∈ o.foot, exb * 256 ≤ p.1 ∧ p.1 + p.2 ≤ 65536) && decide (fmtBits o.fmt ≠ 0) &&
    o.dataRanges.all (fun p => (List.range (max 1 p.2)).all (fun k => bankCode bfmt (p.1 + k) == o.fmt))
theorem stands_of {exb : Nat} {bfmt : Word} {o : Opnd} (h : standsB exb bfmt o = true) : Stands exb bfmt o := by
  simp only [standsB, Bool.and_eq_true, decide_eq_true_eq, List.all_eq_true, List.mem_range, beq_iff_eq] at h
  exact { named := h.1.1.1, place := h.1.1.2, code := h.1.2,
          banks := fun p hp b h1 h2 => by have := h.2 p hp (b - p.1) (by omega); rwa [Nat.add_sub_cancel' h1] at this }
theorem stand_all {exb : Nat} {bfmt : Word} {l : List Opnd} (h : l.all (standsB exb bfmt) = true) : ∀ o ∈ l, Stands exb bfmt o :=
  fun o ho => stands_of (List.all_eq_true.mp h o ho)
/-- A tile of the module in slot 0 stands, and nothing else of the store overlaps it. -/
def fits (t : Thread) (n : Nat) : Bool := standsB ((on t).core 0).exb ((on t).core 0).bfmt (tileOf (on t) 0 t n 0 false true)
theorem witness_CopyFits : CopyFits (on (tth [])) 0 (tth []) ⟨true, false, 0⟩ (tileOf (on (tth [])) 0 (tth []) 0 0 false true) 32 :=
  { named := by decide +kernel, tile := rfl, stands := stands_of (by decide +kernel),
    writable := fun _ => (by decide +kernel : (1 < dRows (tileOf (on (tth [])) 0 (tth []) 0 0 false true).d → (tileOf (on (tth [])) 0 (tth []) 0 0 false true).rowBytes ≤ dPitch (tileOf (on (tth [])) 0 (tth []) 0 0 false true).d) ∧ dRdonly (tileOf (on (tth [])) 0 (tth []) 0 0 false true).d = false),
    px := fun h => absurd h (by decide), word := by decide +kernel, pitch := by decide +kernel }
theorem witness_CopyRuns : (let t := tth [(2, 16384), (3, 32)]
    let o := tileOf (on t) 0 t 0 0 false true
    let sp := copySpec t ⟨true, false, 0⟩ o 32
    decide (dVrows o.d = 8 ∧ dVcols o.d = 8) && (match ptrCheck (on t) 0 t sp 16384 with | .ok r => r == (0, 16384) | .error _ => false) &&
      (watchFind t 16384 sp.size true false).isNone && (freeEngine ((on t).cluster 0)).isSome && decide (t.cnt.c + (seqExtra t (.cpyLd 0 2 3)).2 < 63)) = true := by decide +kernel
theorem witness_MoveFits : MoveFits (on (tth [])) 0 0 (tth []) 1 0 (tileOf (on (tth [])) 0 (tth []) 0 1 false false) (tileOf (on (tth [])) 0 (tth []) 1 0 false true) 0 :=
  { named := by decide +kernel, tiles := ⟨rfl, rfl⟩, stands := ⟨stands_of (by decide +kernel), stands_of (by decide +kernel)⟩,
    writable := (by decide +kernel : (1 < dRows (tileOf (on (tth [])) 0 (tth []) 1 0 false true).d → (tileOf (on (tth [])) 0 (tth []) 1 0 false true).rowBytes ≤ dPitch (tileOf (on (tth [])) 0 (tth []) 1 0 false true).d) ∧ dRdonly (tileOf (on (tth [])) 0 (tth []) 1 0 false true).d = false),
    far := by decide +kernel, mine := by decide +kernel, shape := by decide +kernel,
    apart := fun _ => (by decide +kernel : ∀ p ∈ (tileOf (on (tth [])) 0 (tth []) 1 0 false true).foot, ∀ q ∈ (tileOf (on (tth [])) 0 (tth []) 0 1 false false).foot, p.1 + p.2 ≤ q.1 ∨ q.1 + q.2 ≤ p.1) }
theorem witness_CodecRuns : (let t := withSeg (th [(2, 1024)]) 0
    let s := { on t with mem := mem [(1024, 2048), (1032, 4096), (1040, 4), (1048, 256)] }
    let e := envOf s a0 t (.czip 1 2) (oneSrc 1 2)
    let x := mkAccess e { ea := e.a, kind := 0, a := 1024, place := aLocal 0 1024 } (.load false) 64 0
    let vs := visibleStores e.s e.s.nextId x
    let range := fun (p : Word) (n al : Nat) (wr : Bool) => (match ptrCheck e.s 0 t { size := n, align := al, r := !wr, w := wr, acc := if wr then 11 else 10 } p with | .ok r => r == (0, p.toNat) | .error _ => false) && (watchFind t p.toNat n (!wr) wr).isNone
    (match ptrCheck e.s 0 t { size := 64, align := 32, r := true, w := true, kinds := [0], acc := 10 } e.a with | .ok r => r == (0, 1024) | .error _ => false) &&
      !lockedOut e.s 0 x.addr && !imageWaits e.s x && (readError e.s vs x.addr 64).isNone && range 2048 16 4 false && range 4096 256 1 true && decide (t.cnt.c + (seqExtra t (.czip 1 2)).2 < 63)) = true := by decide +kernel
theorem witness_ReductionRuns : (let t := { tth [(2, 2 ^ 61), (3, 0)] with sgs := [(1, sg 1 15 0 1048576)] }
    fits t 0 && (match ptrCheck (on t) 0 t { size := 32, align := 32, r := true, w := true, a := true, kinds := [1, 2], acc := 10 } (2 ^ 61) with | .ok r => r == (1, 0) | .error _ => false) &&
      (watchFind t (2 ^ 61) 32 true true).isNone && (freeEngine ((on t).cluster 0)).isSome) = true ∧
    (let t := { withSeg (th [(2, 512), (3, 4)]) 0 with pmap := streamIn }
     decide (streamCount (4 : Word) = 4 ∧ (streamCount (4 : Word) - 1) * streamStride (4 : Word) + 8 = 32 ∧ bits (4 : Word).toNat 47 32 % 8 = 0) && (watchFind t 512 32 true false).isNone && !streaming (on t) 0 t.tag) = true := by decide +kernel
theorem witness_FillRuns : (let t := { tth [] with gens := [(3, gen)] }
    let o := tileOf (on t) 0 t 1 0 false true
    fits t 1 && decide (o.rowBytes ≤ dPitch o.d ∧ dRdonly o.d = false ∧ gKind (genCap t 3).img = 1) && (ropeRange (genCap t 3).img).isEmpty && decide (((on t).core 0).matQ.length < 4)) = true := by decide +kernel

theorem witness_ReleaseFirst : ReleaseDone (on ptr) a0 ptr (some (clamped (on ptr) a0 5)) ∧ ReleaseWaits { ptr with touched := 1 } (some (clamped (on ptr) a0 5)) ∧
    ReleaseDone (on { ptr with prog := .probes 5 1 0 [] }) a0 { ptr with prog := .probes 5 1 0 [] } (some 5) ∧
    (rdy (on ptr) (.sdRl 5 3 2 0) { srcs := [(1, 2), (2, 3)] } && rdy (on ptr) (.amoaddD 1 2 3 0 1) (twoSrc 1 2 3) && reached (reach (envOf (on ptr) a0 ptr (.sdRl 5 3 2 0) { srcs := [(1, 2), (2, 3)] }) (specStore 8) 512) &&
      reached (reach (envOf (on ptr) a0 ptr (.amoaddD 1 2 3 0 1) (twoSrc 1 2 3)) (specAmo 8) 512)) = true :=
  ⟨Or.inr ⟨rfl, Or.inr (by decide +kernel), by decide +kernel, fun _ => by decide +kernel⟩, ⟨rfl, by decide +kernel, by decide +kernel⟩,
   Or.inl ⟨5, 1, 0, rfl, by decide +kernel, fun _ => by decide +kernel⟩, by decide +kernel⟩
theorem test_release_parks : thAfter (.sdRl 5 3 2 0) (on { ptr with touched := 1 }) (fun t => t.park == some .fence && t.pc == 16) = true := by decide +kernel
theorem witness_FenceIWaits : rdy (on { th [] with cnt := { s := 1 } }) .fenceI {} = true ∧ thAfter .fenceI (on { th [] with cnt := { s := 1 } }) (fun t => t.park == some (.drain false)) = true ∧
    thAfter .fenceI (on (th [])) (fun t => t.pc == 20 && t.fenceI == (on (th [])).nextId) = true := by decide +kernel
theorem witness_TablesMet : (let t := { kth [(2, 4095), (3, 512)] with sgs := [(0, sg 0 15 0 65536)], prog := .met }
    rdy (on t) (.impset 2 3) (kTwo 2 3)) = true ∧
    (let t := { kth [(2, 4095), (3, 512)] with sgs := [(0, sg 0 15 0 65536)] }
     thAfter (.impset 2 3) { on t with mem := mem [(512, 2 * 2 ^ 30)] } (fun u => u.park == some .table && u.prog == .met)) = true := by decide +kernel
theorem witness_PhaseReissue : rdy (on { th [(2, 5)] with prog := .released, mine := 3 }) (.phase 2) (onlySrc 2) = true ∧ max 3 6 ≠ 3 ∧
    rdy (on { th [(2, 5)] with prog := .released, mine := 6 }) (.phase 2) (onlySrc 2) = true ∧ max 6 6 = 6 ∧
    thAfter (.phase 2) (on { th [(2, 5)] with prog := .released, mine := 3 }) (fun t => t.mine == 6 && t.pc == 20) = true ∧
    (let l : Launch := { launch0 0 with record := { rec0 with dw := [0x100010000, 0x100000000, 0, 2] } }
     let t := { th [(2, 5)] with prog := .released, mine := 6 }
     let s := { on t with launches := [(0, l)], threads := [(0, t), (64, th [])] }
     rdy s (.phase 2) (onlySrc 2) && thAfter (.phase 2) s (fun u => match u.park with | some (.phase v) => v == 5 | _ => false)) = true := by decide +kernel
theorem witness_RingMet : rdy (on { ptr with prog := .met }) (.rwait 2 4095) (onlySrc 2) = true ∧ thAfter (.rwait 2 4095) (on { ptr with prog := .met }) (fun t => t.pc == 20) = true := by decide +kernel
theorem witness_BarDelivered : (let t := { ptr with prog := .served 0 none }
    rdy (on t) (.bar 2) { srcs := [(1, 2)] } && delivered (on t) a0 t (on t).nextId && (match reachBlock (envOf (on t) a0 t (.bar 2) { srcs := [(1, 2)] }) 0 512 [0, 1, 2] with | .ok _ _ => true | _ => false)) = true := by decide +kernel

/-! ### Witnesses: positions, accesses, ordering, locks and tile events -/

theorem witness_Positions : (let s := { on (th []) with threads := [(0, { th [] with wakePos := 0 })] }
    decide (selectSlot s 0 0 = some (0, false) ∧ nextTrap (th []) = none) && does s (.rotationPosition 0) (fun b => b.selected == some a0 && (b.core 0).pos == 1)) = true ∧
    (let t := { th [] with traps := [{ mark := { cause := .lockTimeout, tval := 3, tinfo := 4096 }, seq := 0, isLock := true, journal := none }], csr := { tvec := 64 } }
     let s := on t
     decide (selectSlot s 0 0 = some (0, false)) && (nextTrap t).isSome && does s (.rotationPosition 0) (fun b => b.selected.isNone && (b.getTh a0).map (fun u => u.pc) == some 64)) = true ∧
    (selectSlot (on { th [] with hold := true }) 0 0 = none) ∧
    does { on (th []) with cores := [(0, { commit := some [(0, 0x81)] })] } (.rotationTableSwitch 0) (fun b => (b.core 0).rotEntry 0 == 0x81) = true := by decide +kernel
theorem witness_Wakes : (let t := { th [] with park := some (.counters 0 0 0 0) }
    parkMet (on t) a0 t (.counters 0 0 0 0) && does (on t) (.parkWake 0) (fun b => (b.getTh a0).map (fun u => (u.park, u.wakePos)) == some (none, 2))) = true ∧
    (let t := { th [] with park := some (.counters 0 0 0 0), cnt := { l := 1 } }
     !parkMet (on t) a0 t (.counters 0 0 0 0) && does (on t) (.parkWake 0) (fun b => b.agenda == [.parkWake 0])) = true ∧
    (sxReady ((sxOn 3 []).sxThread 0 3) 0 && does (sxOn 3 []) (.sextantCycle 0) (fun b => b.selected == some (.sextant 0 3) && (b.die 0).lastSx == 3)) = true := by decide +kernel

/-- An access of slot 0 to its local store. -/
def acc (k : AKind) (n data : Nat) : Access := { agent := a0, tag := 0, core := 0, owner := 0, kind := k, ea := 512, seg := 0, addr := aLocal 0 512, size := n, data := data, dst := some { agent := a0, tag := 0, reg := 1 } }
/-- The module with an access on its way under number 1. -/
def coming (x : Access) : State := { on ptr with net := [(1, x)], mem := mem [(512, 0xFF80)] }
theorem witness_BankAccesses : AtBank (coming (acc (.load true) 1 0)) 1 (acc (.load true) 1 0) :=
  { net := by decide +kernel, space := by decide +kernel, open_ := by decide +kernel, past := by decide +kernel, plain := by decide +kernel, clear := by decide +kernel, first := fun h => absurd h (by decide +kernel) }
theorem witness_BankStore : AtBank (coming { acc .store 8 5 with lvl := 5 }) 1 { acc .store 8 5 with lvl := 5 } :=
  { net := by decide +kernel, space := by decide +kernel, open_ := by decide +kernel, past := by decide +kernel, plain := by decide +kernel, clear := by decide +kernel, first := fun _ => by decide +kernel }
theorem witness_BankMemOk : (coming (acc (.load true) 1 0)).MemOk := (by decide +kernel : memWf (coming (acc (.load true) 1 0)).mem = true)
theorem test_copier_wakes : does (on { th [] with park := some .copyQueue }) (.parkWake 0) (fun b => (b.getTh a0).map (fun u => (u.park, u.wakePos)) == some (none, 2)) = true := by decide +kernel
theorem test_load_at_bank : does (coming (acc (.load true) 1 0)) (.memoryAccessArrival 1) (fun b => (tfind b.reqs 1) == some (.value { agent := a0, tag := 0, reg := 1 } (BitVec.ofInt 64 (-128)) none true none 0)) = true := by decide +kernel
theorem test_amo_at_bank : does (coming (acc (.amo 0) 8 1)) (.memoryAccessArrival 1) (fun b => b.rd (aLocal 0 512) 8 == 0xFF81) = true := by decide +kernel
theorem test_sc_without_reservation : does (coming (acc .sc 8 1)) (.memoryAccessArrival 1) (fun b => b.rd (aLocal 0 512) 8 == 0xFF80 && (tfind b.reqs 1) == some (.value { agent := a0, tag := 0, reg := 1 } 1 none true none 0)) = true := by decide +kernel

/-- A store to die 0's device memory at its slice. -/
def devStore : Access := { agent := a0, tag := 0, core := 0, owner := 0, kind := .store, ea := 0, seg := 3, addr := 4096, size := 8, data := 9, lvl := 5 }
theorem witness_SliceAccesses : AtSlice { on ptr with net := [(1, devStore)] } 1 devStore :=
  { net := by decide +kernel, space := by decide +kernel, open_ := by decide +kernel, unseen := by decide +kernel, room := by decide +kernel, served := by decide +kernel, first := fun _ => by decide +kernel }
/-- A load of die 0's device memory by an owner that waits for its fill, and at no point of its way. -/
def filling (owner addr : Nat) : Access := { devStore with kind := .load false, owner := owner, addr := addr, fill := 1, listed := true }
theorem test_fill_alone : does { on ptr with net := [(1, filling 1 4096)] } (.dieCacheFill 0 16 1) (fun b => b.net.all (fun p => p.2.fill == 2) && (lineOf b 4096).isSome) = true := by decide +kernel
theorem test_fill_round : rivalAt { on ptr with net := [(1, filling 1 4096), (2, filling 2 8192)] } 1 (1, 0, 0) = true ∧
    does { on ptr with net := [(1, filling 1 4096), (2, filling 2 8192)] } (.dieCacheFill 0 16 1) (fun b => b.agenda == [.arbitrationRound 0 1 0, .dieCacheFill 0 16 1]) = true := by decide +kernel
theorem test_slice_write_once : does { on ptr with net := [(1, devStore)] } (.sliceWrite 1) (fun b => b.rd 4096 8 == 9) = true ∧
    does { on ptr with net := [(1, devStore)], dies := [(0, { filters := [(homeSlice 4096, [(devStore.ident 1, 0)])] })] } (.sliceWrite 1) (fun b => b.rd 4096 8 == 0) = true := by decide +kernel
theorem witness_FullEmptyAtBank : (let x := acc .ldfe 8 0
    !feReady (coming x) x && !blocked (coming x) 1 x && !targetFenced (coming x) x && x.isFe && does (coming x) (.feAccessArrival 1) (fun b => waitList b x.addr == [1])) = true ∧
    (let x := acc .ldfe 8 0
     let s := { coming x with full := [x.addr] }
     feReady s x && does s (.feAccessArrival 1) (fun b => !b.feBit x.addr)) = true := by decide +kernel
theorem witness_AnswersArrive : (let t := { th [] with regs := [(1, { st := .pending, req := 7, cnt := 2 })], cnt := { l := 1 } }
    let s := { on t with reqs := [(7, .value { agent := a0, tag := 0, reg := 1, cnt := 2 } 42 none true none 1)] }
    does s (.registerValueArrival 7) (fun b => (b.getTh a0).map (fun u => (u.ent 1, u.cnt.l, u.fstat)) == some ({ val := 42, st := .present, cnt := 2 }, 0, 1))) = true ∧
    (let j : JEnt := { pointer := 8, owner := 0, slot := 0, typ := 0, size := 3, reason := 0, seq := 0, tag := 0, id := 9 }
     let s := { on (th []) with cores := [(0, { journal := [(0, j)] })] }
     does s (.postedAnswerArrival 0 0 0) (fun b => (b.core 0).journal == []) && does s (.postedAnswerArrival 0 0 5) (fun b => (b.getTh a0).map (fun u => u.traps.length) == some 1)) = true ∧
    (let s := { on { th [] with resv := some { granule := 1, expires := 5 } } with now := 5 }
     does s (.reservationExpiry 0) (fun b => (b.getTh a0).map (fun u => u.resv) == some none)) = true ∧
    does { on { th [] with park := some (.feRetry 3) } with now := 3 } (.feListRetry 0) (fun b => (b.getTh a0).map (fun u => u.park) == some none) = true := by decide +kernel
theorem witness_Replays : (let h : BitVec 128 := mkHdr 4 2 7 0 0 0 0 0
    let s := { on (th []) with reqs := [(1, .sent 0 0 0 0 h [0, 0] 0 0 true)] }
    decide (hDmod h ≠ s.modnum 0) && does s (.requestReplayTimeout 1) (fun b => b.agenda == [.requestReplayTimeout 1]) &&
      does { s with now := 262144 } (.requestReplayTimeout 1) (fun b => tfind b.reqs 1 == some (.sent 0 0 0 0 h [0, 0] 1 262144 true)) &&
      does { s with now := 262144, reqs := [(1, .sent 0 0 0 0 h [0, 0] 3 0 true)] } (.requestReplayTimeout 1) (fun b => b.agenda == [.postedAnswerArrival 0 0 7])) = true := by decide +kernel

theorem witness_Numbers : fmtValue 1 0x3F800001 = .fin false 0x800001 (-23) ∧ roundTo 1 .rne (fmtValue 1 0x3F800001) = (0x3F800001, 0) ∧ (fmtValue 9 0xFF).isNan = false := by decide +kernel
theorem test_tie_to_even : (roundTo 1 .rne (.fin false (2 ^ 24 + 1) 0)).1 = 0x4B800000 ∧ (roundTo 1 .rne (.fin false (2 ^ 24 + 3) 0)).1 = 0x4B800002 := by decide +kernel

theorem witness_OrderingEvents : (let t := { th [] with prog := .probes 3 1 0 [0, 96] }
    echoReady (on t) a0 t 3 1 96 && does (on t) (.fenceEchoArrival 0 96) (fun b => (b.getTh a0).map (fun u => u.prog) == some (.probes 3 1 0 [0]))) = true ∧
    (let t := { th [] with prog := .asked 1, cnt := { s := 1 } }
     let s := { on t with reqs := [(1, .barinit 0 0 512 (aLocal 0 512) 2 1)] }
     !blockBusy s 1 0 (aLocal 0 512) && does s (.barinitAtBank 1) (fun b => b.rd (aLocal 0 512) 8 == 2 + 2 ^ 32 + 2 ^ 35 && (b.getTh a0).map (fun u => u.cnt.s) == some 0) &&
       does { s with mem := mem [(512, 2 + 2 ^ 32 + 2 ^ 35), (520, 1)] } (.barinitAtBank 1) (fun b => (b.getTh a0).map (fun u => match u.prog with | .refused m => m.cause == .segRights | _ => false) == some true)) = true ∧
    (let t := { th [] with prog := .asked 1 }
     let s := { on t with reqs := [(1, .bar 0 0 512 (aLocal 0 512) 1)], mem := mem [(512, 2 + 2 ^ 32 + 2 ^ 35), (520, 2 ^ 32)] }
     does s (.barrierArrival 1) (fun b => b.rd (aLocal 0 520) 8 == 1 + 2 ^ 32 && (b.getTh a0).map (fun u => u.park) == some (some (.barrier (aLocal 0 512) 1))) &&
       does { s with mem := mem [(512, 2 + 2 ^ 32 + 2 ^ 35), (520, 1 + 2 ^ 32)] } (.barrierArrival 1) (fun b => b.rd (aLocal 0 520) 8 == 2 * 2 ^ 32 && (b.getTh a0).map (fun u => u.prog) == some (.served 1 none))) = true ∧
    (let t := { th [] with park := some (.barrier (aLocal 0 512) 1) }
     does { on t with mem := mem [(520, 2 * 2 ^ 32)] } (.barrierReleaseDelivery 0 (aLocal 0 512)) (fun b => (b.getTh a0).map (fun u => u.park) == some none)) = true := by decide +kernel
theorem witness_LocksAndPorts : (let s := { on (th []) with cores := [(0, { locks := [(3, { waiters := [(0, 1)] })] })] }
    grantable s 0 3 0 1 && does s (.bankLockGrant 0 3) (fun b => (b.lock 0 3).holder == some 0)) = true ∧
    (let s := { on (th []) with cores := [(0, { locks := [(3, { holder := some 0 })] })] }
     does { s with now := 4095 } (.lockTimeout 0 3) (fun b => b.agenda == [.lockTimeout 0 3]) && does { s with now := 4096 } (.lockTimeout 0 3) (fun b => (b.lock 0 3).holder.isNone &&
        (b.getTh a0).map (fun u => u.traps.map (fun x => (x.mark.cause, x.mark.tval, x.mark.tinfo))) == some [(.lockTimeout, 3, 4096)])) = true ∧
    (let s := { on (th []) with cores := [(0, { locks := [(3, { holder := some 0, releasing := some 1 })] })] }
     !bankPending s 0 3 1 (fun m => m == 0) && does s (.bankLockGrant 0 3) (fun b => (b.lock 0 3).holder.isNone)) = true ∧
    (let w : PortWord := { val := 5, mark := none, slot := 64 }
     let s := { on (th []) with cores := [(0, { ports := [(1, { coming := [(1, some w), (2, none)] })] })] }
     does s (.portWordArrival 0 1) (fun b => ((b.core 0).queue 1).words == [w] && ((b.core 0).queue 1).tail == 1)) = true := by decide +kernel
/-- A queued tadd of tiles 0 and 1 into 2. -/
def taddOp : TileOp := { id := 1, slot := 0, tag := 0, ins := .tadd 2 0 1 0, word := (Instr.tadd 2 0 1 0).word, pc := 16, descs := [tile 12288, tile 4096, tile 8192], codes := [1, 1, 1], xs := 0, gA := none, gB := none, next := 0, q := 0, zonce := false, moff := 0 }
theorem witness_TileEvents : (let s := { on { tth [] with cnt := { t := 1 } } with cores := [(0, { tileQ := [taddOp] })], mem := mem [(4096, 0x3F800000), (8192, 0x40000000)] }
    match tileWord taddOp.ins with
    | some w => !scalarAhead s 0 taddOp (taddOp.foot w) && !matrixAhead s 0 taddOp (taddOp.foot w) && (firstFault s 0 (stripReads taddOp w 0)).isNone && does s (.tileStrip 0) (fun b => b.rd (aLocal 0 12288) 4 == 0x40400000)
    | none => false) = true := by decide +kernel
theorem witness_VernierEvents : does State.reset (.vernierEntry 0) (fun b => (b.octet 0).entry == 1) = true ∧
    does { State.reset with octets := [(0, { pendingWrite := some [(0, 0x81)] })] } (.vernierTableSwitch 0) (fun b => (b.octet 0).vern 0 == 0x81) = true := by decide +kernel
theorem witness_Reissue : (let w : SeqWord := { ins := .tadd 2 0 1 0, pc := 20, xa := 0, xb := 0 }
    let t := { tth [] with seqr := { busy := true, n := 1, m := 1, words := [w], q := 1 } }
    let s := on t
    t.seqr.reissuing && decide (t.seqr.words[t.seqr.idx]? = some w) && does s (.rptReissue 0) (fun b => (b.core 0).tileQ.length == 1)) = true := by decide +kernel

/-! ### Witnesses: transfers, translation, creation and waits -/

/-- A store copy of tile 0 to local store whose source is read and whose cells are all written. -/
def copyTr : Transfer := { slot := 0, tag := 0, core := 0, ins := .cpySt 0 2 3, owner := 0, desc := tile 4096, code := 1, kind := 0, at_ := 16384, len := 256, xs := 32, unit := 1000, segs := [(0, sg 0 15 0 65536)] }
/-- The module with a transfer under number 1. -/
def moving (x : Transfer) : State := { on { tth [] with cnt := { c := 1 } } with transfers := [(1, x)], clusters := [(0, { engines := [(0, [1])] })] }
theorem witness_TransferEnds : (match copyTr.plan (moving copyTr) with | .ok p => (p.cells.drop 1000).isEmpty && p.code == 1 | .error _ => false) = true ∧ running (moving copyTr) 1 copyTr = true ∧
    faultWaits (moving copyTr) 1 copyTr = false ∧ does (moving copyTr) (.copyUnitWrite 1) (fun b => (tfind b.transfers 1).map (fun x => x.ended) == some (some (1, 0, 0, 0))) = true ∧
    does (moving { copyTr with wait := some 9 }) (.copyUnitWrite 1) (fun b => b.agenda == [.copyUnitWrite 1]) = true := by decide +kernel
theorem test_copy_reads_first : does (moving { copyTr with unit := 0 }) (.copyUnitWrite 1) (fun b => match tfind b.transfers 1 with | some x => x.unit == 0 && x.seen.length == 4 && x.ended.isNone | none => false) = true := by decide +kernel
theorem witness_Completion : does (moving { copyTr with ended := some (1, 0, 0, 0), bytes := 256 }) (.copyCompletion 1)
    (fun b => match b.getTh a0 with | some u => u.cnt.c == 0 && u.ringEnt 0 == statusBits 0 1 0 0 0 256 | none => false) = true := by decide +kernel
theorem witness_StreamPush : (let x : Transfer := { copyTr with ins := .sbind 2 3, at_ := 512, len := 8, xs := 1, unit := 0, seen := [(512, (77, false))] }
    does (moving x) (.sbindStreamPush 1) (fun b => ((b.core 0).queue 4).words.map (fun w => w.val) == [77] && (tfind b.transfers 1).map (fun y => y.ended) == some (some (1, 0, 0, 0)))) = true := by decide +kernel
/-- A claim that stands before its last point. -/
def lastClaim (p : Point) : Claim := { owner := 0, path := [(p, 0)] }
theorem witness_Contribution : (let x : Transfer := { copyTr with ins := .red 0 2 3, kind := 1, at_ := 0, xs := 0, unit := 0 }
    decide (redBlk (moving x) (placeOfKind 0 1 0)).ok = false && does { moving x with claims := [(1, lastClaim (4, 0, 0))] } (.redContributionArrival 1) (fun b => (tfind b.transfers 1).map (fun y => y.ended) == some (some (9, 1, 0, 0)))) = true := by decide +kernel

/-- A pending entry of owner 5 and page 0. -/
def pend0 : PendEnt := { owner := 5, vpn := 0, st := .walking, level := 0, acc := 0, cls := 0, first := 0, waiters := [(0, 0)] }
theorem witness_TranslationEvents : (let s := { on (th []) with dies := [(0, { xlat := { pend := [(0, pend0)] } })] }
    (walkRivals s 0 0 pend0).isEmpty && does s (.pageWalk 0 0) (fun b => (tfind (b.die 0).xlat.pend 0).map (fun p => (p.st, p.level)) == some (.faulted, 1) && (b.die 0).xlat.fbent == [(0, 0)] && (b.die 0).xlat.noticePending)) = true ∧
    (let s := { on (th []) with dies := [(0, { xlat := { pend := [(0, { pend0 with st := .faulted, level := 1 })], fbent := [(0, 0)], noticePending := true, pgcfg := 1 } })] }
     does s (.pagerNotice 0) (fun b => !(b.die 0).xlat.noticePending) && does s (.fbcmdMapped 0 0) (fun b => (tfind (b.die 0).xlat.pend 0).map (fun p => p.st) == some .resolved) &&
       does s (.fbcmdDeny 0 0) (fun b => (tfind (b.die 0).xlat.pend 0).map (fun p => p.st) == some (.denied 9)) && does s (.fbcmdMapped 0 1) (fun b => (b.die 0).xlat.cmderr) && does s (.fbcmdReplayAll 0) (fun b => (b.die 0).xlat.pend == [])) = true ∧
    does State.reset (.fbcmdInval 0 5) (fun b => (b.die 0).xlat.busy) = true ∧ does { State.reset with dies := [(0, { xlat := { busy := true } })] } (.fbcmdInval 0 5) (fun b => (b.die 0).xlat.cmderr) = true ∧
    does { State.reset with dies := [(0, { xlat := { busy := true } })] } (.invalComplete 0) (fun b => !(b.die 0).xlat.busy) = true := by decide +kernel
/-- Tables that map page 0 of owner 5: root 0x8000, tables at 0x10000 and 0x18000, a leaf to 0x20000. -/
def tables : List Host.Cell := memWriteN (memWriteN (memWriteN [] (aDev 0x18000) (0x20000 + 7) 8) (aDev 0x10000) (0x18000 + 1) 8) (aDev 0x8000) (0x10000 + 1) 8
/-- The machine with the walk of page 0 of owner 5 under way. -/
def walking (p : PendEnt) : State := { on (th []) with mem := tables, dies := [(0, { xlat := { pend := [(0, p)] }, owners := [(5, { seed := 1, v := true, troot := 0x8000 })] })] }
theorem witness_MigrationEvents : migRefusal State.reset 0 ≠ 0 ∧ does State.reset (.fbcmdMigrate 0) (fun b => (b.die 0).xlat.migstat != 0 && !(b.die 0).xlat.busy) = true := by decide +kernel

/-- The register x1 of slot 0. -/
def rd1 : RegDst := { agent := a0, tag := 0, reg := 1 }
theorem witness_CreationEvents : (let s := { on (th []) with reqs := [(1, .spawn rd1 0 0 (BitVec.ofNat 64 (2 ^ 16)) [7] [] {} 0)] }
    does s (.spawnArrival 1) (fun b => (tfind b.threads 1).map (fun t => (t.pc, t.win, t.tlim, (t.ent 10).val)) == some (0, 16, 4, 7) && decide (tfind b.reqs 1 = some (.value rd1 1 none false none 0)))) = true ∧
    does { on (th []) with reqs := [(1, .spawn rd1 0 0 1 [] [] {} 0)] } (.spawnArrival 1) (fun b => decide (tfind b.reqs 1 = some (.value rd1 (BitVec.ofInt 64 (-4)) none false none 0))) = true ∧
    (let s := { on (th []) with reqs := [(1, .gspawn rd1 0 [0x1010000, 0, 0, 0, 0, 0] [] 0 0)] }
     !groupBad [0x1010000, 0, 0, 0, 0, 0] && does s (.spawnArrival 1) (fun b => b.threads.length == 3 && (tfind b.groups s.nextId).map (fun g => g.live) == some 2)) = true ∧
    (let l : Launch := { record := rec0, home := 0, kind := 0 }
     let s := { on (th []) with launches := [(1, l)] }
     does s (.launchPlacement 1 1) (fun b => (tfind b.threads 64).isSome && (tfind b.launches 1).map (fun x => (x.live, x.waiting)) == some (1, false))) = true ∧
    does { on (th []) with launches := [(1, { record := rec0, home := 0, kind := 0 })], now := 256000 } (.launchAgeing 1) (fun b => (tfind b.launches 1).map (fun x => x.level) == some 1) = true ∧
    does { on (th []) with launches := [(1, { launch0 0 with live := 0 })] } (.launchDone 1) (fun b => b.launches == []) = true := by decide +kernel
theorem witness_WaitEvents : (let m : Msg := { launch := 0, receiver := 0, sender := 1, seq := 0, payload := 77 }
    let s := { on (th []) with launches := [(0, launch0 0)], reqs := [(1, .msg 0 0 m)] }
    does s (.messageStoreArrival 1) (fun b => (b.die 0).msgs == [m])) = true ∧
    does (on (th [])) (.phaseReportArrival 0 1 5 0) (fun b => (b.getTh a0).map (fun u => tget u.reported 1 0) == some 5) = true ∧
    (let t := { th [] with park := some (.qwait 5 10), prog := .since 0 0 0 }
     does { on t with now := 10 } (.qtimeout 0) (fun b => b.agenda == [.qtimeout 0]) && does { on t with now := 11 } (.qtimeout 0) (fun b => (b.getTh a0).map (fun u => u.prog) == some (.expired 0 0))) = true ∧
    (let t := { th [] with park := some (.rwait (aLocal 0 512) 0 300), prog := .since 0 0 0 }
     does { on t with now := 255 } (.rwaitPoll 0) (fun b => b.agenda == [.rwaitPoll 0]) && does { on t with now := 256 } (.rwaitPoll 0) (fun b => (b.getTh a0).map (fun u => u.park) == some (some (.rwait (aLocal 0 512) 256 300))) &&
       does { on t with now := 256, mem := mem [(520, 4)] } (.rwaitPoll 0) (fun b => (b.getTh a0).map (fun u => (u.park, u.prog)) == some (none, .met)) &&
       does { on t with now := 256, poison := [aLocal 0 512] } (.rwaitPoll 0) (fun b => (b.getTh a0).map (fun u => (u.park, u.prog)) == some (none, .since 0 0 0)) &&
       does { on t with now := 301 } (.rwaitPoll 0) (fun b => b.agenda == []) &&
       does { on t with now := 301 } (.rtimeout 0) (fun b => (b.getTh a0).map (fun u => u.prog) == some (.expired 0 0))) = true := by decide +kernel
theorem witness_CounterEvents : (let s := { on (th []) with dies := [(0, { counters := [(0, { st := .armed, val := 1 })] })], reqs := [(1, .cntDec (some (0, 0)) 0 none 0 0)] }
    (counterOf s 0).isSome && does s (.counterDecrement 1) (fun b => tget (b.die 0).counters 0 {} == { st := .ready, val := 0, last := some (0, 0) })) = true ∧
    (let s := { on { th [] with prog := .asked 1 } with reqs := [(1, .cntDec (some (0, 0)) 0 none 0 0)] }
     (counterOf s 0).isNone && does s (.counterDecrement 1) (fun b => (b.getTh a0).map (fun u => match u.prog with | .served _ (some m) => m.cause == .counterFreed | _ => false) == some true)) = true ∧
    (let s := { on (th []) with dies := [(0, { counters := [(0, { st := .bound, val := 1, record := some rec0 })] })], reqs := [(1, .cntDec (some (0, 0)) 0 none 0 0)] }
     !taskFull s rec0 0 && coresOk s rec0 0 && does s (.counterDecrement 1) (fun b => (tfind b.launches s.nextId).map (fun l => l.record) == some rec0)) = true ∧
    (let s := { on (th []) with dies := [(0, { counters := [(0, { st := .armed, val := 1 })] })], reqs := [(1, .cntBind 0 0 0 rec0)] }
     does s (.counterBind 1) (fun b => (tget (b.die 0).counters 0 {}).st == .bound)) = true ∧
    (let s := { on (th []) with dies := [(0, { counters := [(0, { st := .armed, val := 1 })] })], reqs := [(1, .cntFree 0 0 0 (some 2))] }
     does s (.counterFree 1) (fun b => tget (b.die 0).counters 0 {} == { gen := 1, last := some (0, 0) })) = true := by decide +kernel
theorem witness_ContextEvents : (let s := { on (kth []) with threads := [(0, kth []), (1, th [(7, 5)])], reqs := [(1, .ctxout rd1 0 1 0)] }
    decide (freeFrame s 0 0 = some 0) && does s (.ctxoutRequestArrival 1) (fun b => (tfind b.threads 1).isNone && ((tget (b.die 0).frames 0 {}).saved.map (fun u => (u.ent 7).val)) == some 5)) = true ∧
    does { on (kth []) with reqs := [(1, .ctxout rd1 0 1 0)] } (.ctxoutRequestArrival 1) (fun b => decide (tfind b.reqs 1 = some (.value rd1 (BitVec.ofInt 64 (-1)) none false none 0))) = true ∧
    does { on (kth []) with reqs := [(1, .ctxin rd1 0 0 0)] } (.ctxinRequestArrival 1) (fun b => decide (tfind b.reqs 1 = some (.value rd1 (BitVec.ofInt 64 (-4)) none false none 0))) = true ∧
    (let s := { on (kth []) with dies := [(0, { frames := [(0, { saved := some (th [(7, 5)]), slot := 1 })] })], reqs := [(1, .ctxin rd1 0 0 0)] }
     (frameOf s 0 0 0).isSome && does s (.ctxinRequestArrival 1) (fun b => (tfind b.threads 1).map (fun u => (u.ent 7).val) == some 5) &&
       does { s with reqs := [(1, .ctxin rd1 0 0x8000000000000000 0)] } (.ctxinRequestArrival 1) (fun b => (tget (b.die 0).frames 0 {}).saved.isNone)) = true := by decide +kernel

/-! ### Witnesses: packets, owners, partitions, the platform and the queues -/

/-- An INVOKE of this module to die 0, handler 3, one thread, no arguments. -/
def inv3 : Beat := mkHdr 5 1 0 0 0 0 0 (3 * 2 ^ 52)
/-- The module with handler 3 valid: quota 4, policy refuse, window 16. -/
def handled (n : Nat) : State := { on (th []) with parts := [(0, { handlers := [(3, BitVec.ofNat 128 (2 ^ 31 + 4 * 2 ^ 24 + n * 2 ^ 20 + 2 ^ 16))] })] }
theorem witness_InvocationEvents : (hdrOk inv3 && decide (hTyp inv3 = 5 ∧ sameTenant (handled 0) 0 inv3 = true ∧ takesNone (handled 0) 0 = false) &&
      does (handled 0) (.invoke 0 inv3 [0]) (fun b => ((unitOf b 0).queue 0).length == 1 && b.agenda.length == 2) && does (on (th [])) (.invoke 0 inv3 [0]) (fun b => b.agenda.length == 1 && ((unitOf b 0).queue 0).length == 0)) = true ∧
    does (handled 0) (.invoke 0 0 []) (fun b => b.agenda == []) = true ∧ does (handled 0) (.spillRingMove 0 3) (fun b => b.agenda == []) = true ∧
    (let r : InvRec := { hdr := inv3, beats := [0], token := 0 }
     does { handled 0 with dies := [(0, { inv := { queues := [(0, [r])] } })] } (.invocationPlacement 0 0) (fun b => b.launches.length == 1 && b.threads.length == 2) &&
       does { on (th []) with dies := [(0, { inv := { queues := [(0, [r])] } })] } (.invocationPlacement 0 0) (fun b => b.threads.length == 1 && (unitOf b 0).queue 0 == []) &&
       does { handled 1 with dies := [(0, { inv := { spill := [(3, [r])] } })] } (.spillRingMove 0 3) (fun b => ((unitOf b 0).queue 0).length == 1)) = true ∧
    does (on (th [])) (.reply 0 (mkHdr 6 1 0 0 0 0 0 0) [0]) (fun b => (unitOf b 0).replyDrops == 1) = true := by decide +kernel
/-- A WRITE of 8 bytes from this module to export 0 of die 0. -/
def write8 : Beat := mkHdr 1 2 0 0 0 0 0 (3 * 2 ^ 40)
theorem witness_FabricEvents : (packetOk 1 write8 [0, 0] && does State.reset (.write 0 write8 [0, 0]) (fun b => b.mem == [] && b.agenda.length == 1)) = true ∧
    (packetOk 4 (mkHdr 4 2 0 0 0 0 0 0) [0, 0] && !exportAdmits State.reset 0 2 (mkHdr 4 2 0 0 0 0 0 0) [0, 0] && does State.reset (.counter 0 (mkHdr 4 2 0 0 0 0 0 0) [0, 0]) (fun b => b.agenda.length == 1)) = true ∧
    does State.reset (.pause 0 1) (fun b => tget (b.port 0).pausedUs 1 false) = true ∧ does State.reset (.resume 0 1) (fun b => !tget (b.port 0).pausedUs 1 false) = true ∧
    does State.reset (.linkTraining 11 true) (fun b => (b.port 11).up) = true ∧ does { State.reset with mynis := [(0, { up := true })] } (.fabricLinkLost 0) (fun b => !(b.port 0).up) = true ∧
    does State.reset (.hostLinkTraining 32 8) (fun b => b.cxl == some (32, 8)) = true ∧ does State.reset (.hostLinkTraining 33 8) (fun b => b.cxl.isNone) = true ∧ does State.reset (.flitReceive 0 []) (fun b => b.mynis == []) = true := by decide +kernel

theorem witness_OwnerEvents : does State.reset (.arbitrationRound 0 0 0) (fun b => b.agenda == []) = true ∧ does State.reset (.sweeperVisit 0 0 0) (fun b => b.agenda == []) = true ∧
    does { State.reset with dies := [(0, { owners := [(0, { seed := 5, sweep := true })] })] } (.sweeperVisit 0 0 0) (fun b => sweepNext b 0 0 0 == 1 && b.agenda == [.sweeperVisit 0 0 0]) = true ∧
    does State.reset (.ownerTableWrite 0 4095 3 77) (fun b => (b.ownerEnt 0 4095).seed == 77) = true ∧ does State.reset (.ownerTableWrite 0 5 0 0x8001) (fun b => (b.ownerEnt 0 5).troot == 0x8000) = true ∧
    does { State.reset with dies := [(0, { owners := [(5, { seed := 1, exN := 9 })] })] } (.exceedanceCounterClear 0 5) (fun b => (b.ownerEnt 0 5).exN == 0) = true ∧
    does State.reset (.dmonselWrite 0 3 1) (fun b => tget (b.die 0).plat.dmonsel 3 0 == 1) = true ∧ does State.reset (.coreOwnerAssign 409599 4095) (fun b => (b.core 409599).owner == 4095) = true := by decide +kernel
theorem witness_PartitionEvents : does State.reset (.pcmdReset 0 1) (fun b => (b.part 0).resetStep == 1 && (b.part 0).resetCause == 1) = true ∧ does State.reset (.pcmdReset 0 0) (fun b => b.parts == []) = true ∧
    does State.reset (.sextantResetRequest 31 7) (fun b => (b.part 31).resetCause == 4 && (b.part 31).zero && (b.part 31).rel) = true ∧
    does { State.reset with parts := [(0, { resetStep := 1 })] } (.partitionReset 0) (fun b => (b.part 0).st == 2 && (b.part 0).resetStep == 2) = true ∧
    does { on (th []) with parts := [(0, { resetStep := 6 })] } (.partitionReset 0) (fun b => b.threads == []) = true ∧
    does { State.reset with parts := [(0, { resetStep := 7, resetCause := 2 })] } (.partitionReset 0) (fun b => (b.part 0).resetStep == 0 && (b.part 0).cause == 2 && (b.part 0).resets == 1) = true ∧
    does { on (th []) with mem := memWriteN [] (aDev 64) 9 8, parts := [(0, { st := 3 })] } (.zeroClear 0) (fun b => (b.part 0).st == 1 && b.mem == []) = true ∧
    does (on (th [])) .moduleReset (fun b => b.threads == [] && b.dies == []) = true ∧ does State.reset (.raiseSecurityMinimum 3) (fun b => b.minVersion == 3) = true ∧
    does { State.reset with minVersion := 2 } (.dieBoot 0 1 0) (fun b => (b.part 0).st == 4 && !(b.die 0).booted) = true := by decide +kernel
theorem witness_Scrub : does State.reset (.scrubPass 0 0 0 1) (fun b => (b.die 0).plat.ce == 1) = true ∧ does State.reset (.scrubPass 0 0 0 0) (fun b => b.dies == []) = true ∧
    does State.reset (.pdiesWrite 0 0) (fun b => b.parts == []) = true ∧ does State.reset (.vfcfgWrite 0 0x8000000000000000) (fun b => b.vfNow 0 == State.reset.vfNow 0) = true := by decide +kernel
theorem witness_PlatformEvents : does State.reset (.thermalStepRise 0 100) (fun b => (b.die 0).plat.thH == 3) = true ∧
    does State.reset (.thermalTrip 0 110) (fun b => (b.part 0).resetStep == 1 && (b.part 0).resetCause == 3) = true ∧ does State.reset (.powerStepChange 3) (fun b => b.powerW == 3) = true ∧
    does { State.reset with dies := [(0, { plat := { dbgSel := 1 } })] } (.dbgRead 0) (fun b => dbgDone b 0 == (3, 0)) = true := by decide +kernel
theorem witness_Debug : (let s := { on (th [(5, 7)]) with dies := [(0, { plat := { dbgSel := 5, dbgData := 9 } })] }
    decide (dbgSlot s 0 = some 0) && does s (.dbgRead 0) (fun b => dbgDone b 0 == (0, 0) && (b.die 0).plat.dbgData == 7) && does s (.dbgWrite 0) (fun b => dbgDone b 0 == (1, 0)) &&
      does s (.dbgHold 0) (fun b => (b.getTh a0).map (fun u => u.hold) == some true) && does s (.dbgUnhold 0) (fun b => (b.getTh a0).map (fun u => u.hold) == some false) && does s (.dbgRelease 0) (fun b => dbgDone b 0 == (1, 0))) = true ∧
    (let s := { on { th [(5, 7)] with stopped := true, csr := { tepc := 32 } } with dies := [(0, { plat := { dbgSel := 5, dbgData := 9 } })] }
     does s (.dbgRelease 0) (fun b => (b.getTh a0).map (fun u => u.pc) == some 32) && dbgMayWrite s 0 && does s (.dbgWrite 0) (fun b => (b.getTh a0).map (fun u => (u.ent 5).val) == some 9)) = true := by decide +kernel
theorem witness_Records : does State.reset (.eventRecord 0 1 2 3 4) (fun b => (b.die 0).plat.evW == 1 && b.rd (aSram 0 (0xFE000 + 24)) 8 == 4) = true ∧
    does { State.reset with dies := [(0, { plat := { evW := 4, evR := 5 } })] } (.eventRecord 0 1 2 3 4) (fun b => (b.die 0).plat.evOvf && b.mem == []) = true ∧
    does State.reset (.loadRequest 0 1 false) (fun b => b.ldstat == 0x13) = true ∧ does State.reset (.hostMemRequest 0 true 64 [1, 2]) (fun b => b.rd (aDev 64) 2 == 0x201) = true ∧
    does State.reset (.hostCoherenceRequest 0 0) (fun b => b.mem == []) = true ∧ does State.reset (.throttleStepApply 0) (fun b => (b.die 0).plat.thNext.isNone) = true := by decide +kernel

/-- Queue 5 of partition 0 with its control block at host 0x2000 and its ring at host 0x3000: SIZE 256, RD 0, WR n. -/
def queued (wr st : Nat) (l : List (Nat × Nat)) : State :=
  let h := 2 ^ 63
  let m := ([(0x1028, h + 0x2000), (0x2000, h + 0x3000), (0x2008, 256), (0x2010, 0), (0x2018, wr), (0x2020, 0x7FF * 2 ^ 48), (0x2028, st)] ++ l).foldl (fun (m : List Host.Cell) (p : Nat × Nat) => memWriteN m (aHost p.1) p.2 8) []
  { on (th []) with mem := m, parts := [(0, { qtable := BitVec.ofNat 64 (h + 0x1000) })], dies := [(0, { owners := [(0, { seed := 1, v := true })], qmap := { slots := if st = 1 then [(0, (5, 0))] else [] } })] }
theorem witness_QueueEvents : (kickTaken (queued 0 0 []) 0 5).isSome = true ∧ (kickTaken (queued 0 2 []) 0 5).isNone = true := by decide +kernel
theorem test_kick : does (queued 0 0 []) (.kick 0 5) (fun b => (b.qmap 0).pending == [5] && (b.qmap 0).deferred == [(5, 0)] && b.agenda.contains (.kickDelivery 0)) = true := by decide +kernel
theorem test_scheduler_maps : (let s := queued 0 0 []
    does { s with dies := [(0, { owners := [(0, { seed := 1, v := true })], qmap := { pending := [5] } })] } (.schedulerRun 0) (fun b => (b.qmap 0).slots == [(0, (5, 0))] && (b.qmap 0).pending == [])) = true := by decide +kernel
/-- A NOP packet of 16 bytes in the ring. -/
def nopRing : State := queued 16 1 [(0x3000, 16 * 2 ^ 16 + 7)]
theorem test_packet_starts : does nopRing (.queuePacketStart 0 5) (fun b => b.agenda.contains (.nop 0 1) && b.rd (aHost 0x2010) 4 == 16) = true ∧
    does (queued 16 1 [(0x3000, 16 * 2 ^ 16)]) (.queuePacketStart 0 5) (fun b => b.rd (aHost 0x2028) 1 == 4 * 16 + 2 && (b.qmap 0).slots == []) = true := by decide +kernel
/-- A packet of queue 5 in flight with its dwords. -/
def packet (typ : Nat) (d : List Nat) : Packet := { queue := 5, owner := 0, typ := typ, bytes := d.flatMap (fun v => (List.range 8).map (fun k => BitVec.ofNat 8 (v / 256 ^ k))), start := 0, time := 77, qcb := aHost 0x2000 }
/-- The module with it. -/
def inFlightOf (x : Packet) : State := { queued 64 1 [] with parts := [(0, { qtable := BitVec.ofNat 64 (2 ^ 63 + 0x1000), packets := [(3, x)] })] }
theorem witness_QueuePackets : packetOf (inFlightOf (packet 7 [0, 0])) 0 3 = some (packet 7 [0, 0]) ∧ does (inFlightOf (packet 7 [0, 0])) (.nop 0 3) (fun b => b.agenda == [.packetComplete 0 3]) = true ∧
    does (inFlightOf (packet 7 [0, 0])) (.packetComplete 0 3) (fun b => b.rd (aHost 0x202C) 4 == 1 && (b.part 0).packets == []) = true ∧
    does (inFlightOf (packet 4 [0, 99, 2 ^ 63 + 0x4000, 0x7FF])) (.signal 0 3) (fun b => b.rd (aHost 0x4000) 8 == 99 && b.outbox == []) = true ∧
    does (inFlightOf (packet 6 [0, 0, 2 ^ 63 + 0x4000, 0])) (.timestamp 0 3) (fun b => b.rd (aHost 0x4000) 8 == 77) = true ∧
    does (inFlightOf (packet 8 [0, 0])) (.resetQueue 0 3) (fun b => b.rd (aHost 0x2010) 4 == 64) = true ∧
    (let x := packet 2 [0, 8, 2 ^ 63 + 0x2008, 2 ^ 63 + 0x4000]
     let y : Packet := { x with seen := [(2 ^ 63 + 0x2000, (7, false)), (2 ^ 63 + 0x2008, (256, false)), (2 ^ 63 + 0x2010, (9, false)), (2 ^ 63 + 0x2018, (64, false))] }
     let s := { inFlightOf x with claims := [(packetWaiter 0 3, lastClaim (6, 0, 200))] }
     decide (pkUnread x = some (2 ^ 63 + 0x2008) ∧ pkUnread y = none ∧ pkUnit y = 8 ∧ visibleStores s s.nextId (pkAccess 0 3 0 x (aHost 0x2000) 32) = []) &&
       does s (.copy 0 3) (fun b => (packetOf b 0 3).map (fun z => (z.pos, tget z.seen (2 ^ 63 + 0x2008) (0, false))) == some (0, (256, false)) && b.mem == s.mem) &&
       does { inFlightOf y with claims := [(packetWaiter 0 3, lastClaim (6, 0, 200))] } (.copy 0 3) (fun b => b.rd (aHost 0x4000) 8 == 256 && (packetOf b 0 3).map (fun z => z.pos) == some 8) &&
       does (inFlightOf { y with pos := 8 }) (.copy 0 3) (fun b => b.agenda == [.packetComplete 0 3]) && does (inFlightOf { x with deny := 9 }) (.copy 0 3) (fun b => b.rd (aHost 0x2028) 1 == 8 * 16 + 2)) = true ∧
    does (inFlightOf (packet 5 [0, 0, 1, 0])) (.queueInvoke 0 3) (fun b => b.rd (aHost 0x2028) 1 == 7 * 16 + 2) = true := by decide +kernel
theorem test_wait_packet : does (inFlightOf (packet 3 [0, 256, 2 ^ 63 + 0x2008, 0])) (.wait 0 3) (fun b => b.agenda.length == 1) = true ∧
    does (inFlightOf (packet 1 [0, 0, 0x10000, 0x100, 0, 1, 0, 0])) (.launch 0 3) (fun b => b.launches.length + b.mem.length != 0) = true := by decide +kernel

/-! ### Witnesses: orders of service, requests on their way, and what waits -/

/-- A claim of owner 0 that stands before its last point lets its request through; one before a point that another owner
waits at does not. -/
theorem witness_Through : Through (moving copyTr) 1 [] ∧ Through { moving copyTr with claims := [(1, lastClaim (4, 0, 0))] } 1 [((4, 0, 0), 0)] ∧
    does (moving { copyTr with unit := 0, seen := (List.range 32).map (fun k => (4096 + 8 * k, (BitVec.ofNat 64 (k + 1), false))) }) (.copyUnitWrite 1)
      (fun b => (match tfind b.transfers 1 with | some y => y.unit == 8 && y.ended.isNone | none => false) && b.rd (aLocal 0 16384) 8 == 1) = true ∧
    does { moving { copyTr with ins := .red 0 2 3, kind := 1, at_ := 0, xs := 0, unit := 0 } with claims := [(1, lastClaim (4, 0, 0)), (2, { lastClaim (4, 0, 0) with owner := 7 })] } (.redContributionArrival 1)
      (fun b => (match tfind b.transfers 1 with | some y => y.ended.isNone | none => false)) = true :=
  ⟨Or.inl ⟨by decide +kernel, rfl⟩, Or.inr ⟨lastClaim (4, 0, 0), (4, 0, 0), 0, by decide +kernel, rfl, by decide +kernel, by decide +kernel, Or.inr (by decide +kernel)⟩, by decide +kernel, by decide +kernel⟩

/-- A migration of page 0 of owner 5 from 0x20000 to 0x40000. -/
def mig0 : Migration := { owner := 5, vpn := 0, old := 0x20000, new := 0x40000 }
/-- The module with it under way. -/
def migrating (m : Migration) (q : List Nat) : State :=
  { on (th []) with mem := tables, dies := [(0, { xlat := { mig := some m, busy := true, migstat := 1 }, owners := [(5, { seed := 1, v := true, troot := 0x8000 })] })], clusters := [(0, { engines := [(0, q)] })] }
theorem witness_Migration : (let s := migrating mig0 []
    (migEngine s 0 == some (0, 0)) && does s (.migrationComplete 0) (fun b => (b.die 0).xlat.mig == some { mig0 with engine := some (0, 0, s.nextId) } && (b.cluster 0).queue 0 == [s.nextId] && b.agenda == [.migrationComplete 0])) = true ∧
    (let m := { mig0 with engine := some (0, 0, 9) }
     let s := { migrating m [9] with claims := [(9, lastClaim (4, 0, 0))] }
     s.active 0 0 9 && s.net.isEmpty && smallLeaf s 0 5 0 == some (0x18000, 0x20007) && !bitAt 0x20007 5 && does { s with clusters := [] } (.migrationComplete 0) (fun b => b.agenda == [.migrationComplete 0])) = true ∧
    Through { migrating { mig0 with engine := some (0, 0, 9) } [9] with claims := [(9, lastClaim (4, 0, 0))] } 9 (migPoints (migrating { mig0 with engine := some (0, 0, 9) } [9]) 0 { mig0 with engine := some (0, 0, 9) }) :=
  ⟨by decide +kernel, by decide +kernel, Or.inr ⟨lastClaim (4, 0, 0), (4, 0, 0), 0, by decide +kernel, rfl, by decide +kernel, by decide +kernel, Or.inr (by decide +kernel)⟩⟩
theorem witness_DeniedWaiter : (let s := { on { th [] with park := some (.page 0 0) } with dies := [(0, { xlat := { pend := [(0, { pend0 with st := .denied 9, vpn := 3 })] } })] }
    does s (.fbcmdReplayAll 0) (fun b => (b.getTh a0).map (fun u => u.prog) == some (.denied 9 3)) &&
      does { s with dies := [(0, { xlat := { pend := [(0, { pend0 with st := .denied 9, vpn := 3, waiters := [] })] } })] } (.fbcmdReplayAll 0) (fun b => (b.getTh a0).map (fun u => u.prog) == some .none)) = true := by decide +kernel
theorem witness_CreationOrder : (let s := { on (th []) with cores := [(0, { exb := 1, lastMake := some (0, 2 ^ 40) })], reqs := [(1, .spawn rd1 0 0 (BitVec.ofNat 64 (2 ^ 16)) [7] [] {} 0)] }
    !makeTurn s 0 (1 + coordOf 0) && does s (.spawnArrival 1) (fun b => b.threads.length == 1 && b.agenda == [.spawnArrival 1])) = true ∧
    (let s := { on (th []) with cores := [(1, { lastMake := some (0, 1) })], launches := [(1, { record := { rec0 with dw := [0x10000, 0x100, 1, 1, 0, 0, 0, 0, 0, 0, 0, 0] }, home := 0, kind := 0 })] }
     !makeTurn s 1 0 && does s (.launchPlacement 1 1) (fun b => b.threads.length == 1 && b.agenda == [.launchPlacement 1 1])) = true := by decide +kernel
theorem witness_PhaseReports : (let t := { th [] with launch := 3 }
    let s := { on (th []) with dies := [(0, { frames := [(2, { saved := some t, slot := 0 })] })] }
    does s (.phaseReportArrival 0 1 5 3) (fun b => b.threads == s.threads && ((tget (b.die 0).frames 2 {}).saved.map (fun u => tget u.reported 1 0)) == some 5)) = true := by decide +kernel
theorem witness_RingWritten : (let t := { ptr with park := some (.rwait (aLocal 0 512) 0 300), prog := .since 0 0 0 }
    let s := { on t with now := 7 }
    (match tfind (s.perfWrite { cls := 1, owner := 0, ident := 0, tag := 9, core := 1 } (aLocal 0 520) 1 8).threads 0 with | some u => u.prog == .met | none => false) &&
      (match tfind (s.perfWrite { cls := 1, owner := 0, ident := 0, tag := 9, core := 1 } (aLocal 0 512) 0 8).threads 0 with | some u => decide (u.park = some (.rwait (aLocal 0 512) 7 300)) && u.prog == .since 0 0 0 | none => false)) = true := by decide +kernel
theorem witness_DoneElsewhere : (let h : Word := BitVec.ofNat 64 (7 * 2 ^ 24)
    let s := { on (th []) with reqs := [(1, .cntDec none h none 0 0)] }
    let p : Part := { imports := [(4, BitVec.ofNat 128 (7 * 2 ^ 48 + 2 * 2 ^ 30))] }
    decide (hModule h ≠ s.modnum 0) && (counterImport s 0 0 (hModule h)).isNone && does s (.counterDecrement 1) (fun b => b.reqs == []) &&
      counterImport { s with parts := [(0, p)] } 0 0 7 == some 4 && does { s with parts := [(0, p)], claims := [(1, lastClaim (5, 0, 0))] } (.counterDecrement 1) (fun b => b.agenda.contains (.requestReplayTimeout 1) && (match tfind b.reqs 1 with | some (.done ..) => true | _ => false))) = true := by decide +kernel

theorem witness_InvokeOrder : (let s := { handled 0 with dies := [(0, { inv := { lastAdm := some (0, 2 ^ 60) } })] }
    !admitTurn s 0 (admitKey inv3 [0]) && does s (.invoke 0 inv3 [0]) (fun b => b.agenda == [.invoke 0 inv3 [0]] && unitOf b 0 == unitOf s 0)) = true := by decide +kernel
/-- A handler whose ring takes 16 records at 0x8000, with quota 0 and the spill policy. -/
def spilling (n : Nat) : State := { on (th []) with parts := [(0, { handlers := [(3, BitVec.ofNat 128 (0x8000 * 2 ^ 64 + 16 * 2 ^ 48 + 2 ^ 31 + n * 2 ^ 24 + 2 ^ 20 + 2 ^ 16))] })] }
theorem witness_Spill : does (spilling 0) (.invoke 0 inv3 [0]) (fun b => match (unitOf b 0).ring 3 with
    | [r] => b.rd r.ring 8 == inv3.toNat % 2 ^ 64 && (readRecord b r).hdr == inv3
    | _ => false) = true := by decide +kernel
theorem witness_ReplyTaken : (let r : InvRec := { hdr := inv3, beats := [0], token := 0x8000000000000001 }
    let n : Launch := { launch0 0 with live := 0, kind := 2, inv := some r }
    does { on (th []) with launches := [(5, n)] } (.launchDone 5) (fun b => b.launches == [] && b.agenda.length == 1)) = true := by decide +kernel
theorem witness_FlushedPort : (let t := { th [] with pmap := BitVec.ofNat 64 (2 ^ 31 + 6 * 2 ^ 24) }
    (List.range 4).all (fun d => match outQueue 0 { t with pmap := BitVec.ofNat 64 (2 ^ 31 + 6 * 2 ^ 24 + d * 2 ^ 20) } with
      | some (c, _) => does (on { t with pmap := BitVec.ofNat 64 (2 ^ 31 + 6 * 2 ^ 24 + d * 2 ^ 20) }) (.coreOwnerAssign c 7) (fun b => (b.getTh a0).map (fun u => bitAt u.pmap.toNat 47) == some true && (b.core c).owner == 7)
      | none => true) && (List.range 4).any (fun d => (outQueue 0 { t with pmap := BitVec.ofNat 64 (2 ^ 31 + 6 * 2 ^ 24 + d * 2 ^ 20) }).isSome)) = true := by decide +kernel
theorem test_wait_reread : let x : Packet := { queue := 5, owner := 0, typ := 3, bytes := ((List.replicate 16 0 ++ [0, 1] ++ List.replicate 6 0 ++ [1] ++ List.replicate 7 0 ++ [1] ++ List.replicate 15 0) : List (BitVec 8)), start := 0, time := 0 }
    let s : State := { State.reset with parts := [(0, { packets := [(9, x)] })] }
    (packetOf ((s.perfWrite sxWriter 0x100 1 8).perfWrite sxWriter 0x100 0 8) 0 9).map (fun y => y.met) = some true ∧
    (packetOf (s.perfWrite sxWriter 0x120 1 8) 0 9).map (fun y => y.met) = some false := by decide +kernel
theorem test_queue_mapped : let s : State := { State.reset with dies := [(0, { qmap := { slots := [(0, (5, 0))], qcbs := [(5, 77)] } })] }
    qcbPlace s 0 5 = some 77 ∧ qcbPlace s 0 6 = none ∧ qcbPlace (unbindSlot s 0 0) 0 5 = none := by decide +kernel
theorem witness_ScrubWaits : let s : State := { State.reset with claims := [(1, { owner := 5, path := [((1, 0, 0), 0)] })] }
    (scrubWay s 0 3 0 2).length = 1 ∧ (scrubWay s 0 3 0 2).all (fun x => rivalAt s 0 x.1) = true ∧ (tfind s.claims (scrubWho 0 3 0)).isNone = true ∧
    does s (.scrubPass 0 3 0 2) (fun b => b.poison.isEmpty && b.claims.length == 2 && b.agenda == [.scrubPass 0 3 0 2]) = true ∧
    scrubFree State.reset 0 3 0 2 = true ∧ does State.reset (.scrubPass 0 3 0 2) (fun b => b.poison.length == 4) = true := by decide +kernel
theorem test_array_error : let l : Line := { slice := 0, set := 3, way := 0, line := 7, host := true, owner := 5, key := 4097, epoch := false, valid := 1, dirty := 0 }
    let s : State := { State.reset with dies := [(0, { lines := [l] })] }
    does s (.scrubPass 0 7 3 2) (fun b => b.poison == (List.range 4).map (fun k => aHost (7 * 256 + 8 * k)) && (b.part 0).resetStep == 1) = true ∧
    does s (.scrubPass 0 7 4 2) (fun b => b.poison.isEmpty) = true := by decide +kernel
theorem witness_Strike : does State.reset (.scrubPass 0 1 512 4) (fun b => (scrubWords State.reset 0 1 512).all (fun w => b.eccBad.contains w) && !b.eccBad.isEmpty) = true ∧ does State.reset (.scrubPass 0 1 512 2) (fun b => (b.die 0).plat.ued == 1 && (scrubWords State.reset 0 1 512).all (fun w => b.poison.contains (wordAddr w))) = true := by decide +kernel
theorem witness_ReleaseMisaligned : (let s := { on { th [(5, 7)] with stopped := true, csr := { tepc := 33, tvec := 64 } } with dies := [(0, { plat := { dbgSel := 5, dbgData := 9 } })] }
    does s (.dbgRelease 0) (fun b => match b.getTh a0 with | some u => u.csr.tval == 33 && u.csr.tcause == BitVec.ofNat 64 Cause.misaligned.code | none => false)) = true := by decide +kernel
theorem witness_HostWaits : (let s := { on (th []) with parts := [(0, { st := 2 })] }
    hostWaits s 0 && does s (.hostMemRequest 0 true 64 [1, 2]) (fun b => b.agenda == [.hostMemRequest 0 true 64 [1, 2]] && b.mem == [])) = true := by decide +kernel
/-- The word at offset 16 was bad before the thread's last fence.i, and is good now. -/
theorem witness_ChangedWord : (let t := { th [] with fenceI := 9 }
    let s := { on t with cores := [(0, { exb := 1, codeLog := [(16, (0, some .poison), 2)] })], mem := mem [(16, 0x00500093)] }
    match fetch s a0 t with | .word w => w == 0x00500093 | _ => false) = true := by decide +kernel

/-! ### Witnesses: issue checks, barriers and releases -/

/-- A thread with a handler. -/
def hnd (t : Thread) : Thread := { t with csr := { t.csr with tvec := 64 } }
/-- An instruction takes a trap of a cause, with TINFO. -/
def trapsAs (i : Instr) (s : State) (c : Cause) (info : Word) : Bool := thAfter i s (fun u => u.pc == 64 && u.csr.tcause == BitVec.ofNat 64 c.code && u.csr.tinfo == info)
/-- An instruction parks. -/
def parksOn (i : Instr) (s : State) (p : Park) : Bool := thAfter i s (fun u => u.park == some p && u.pc == 16)
theorem witness_IssueChecks : (let regs := fun (x y : RegEnt) => hnd { th [] with regs := [(2, x), (4, y)] }
    let v : RegEnt := { val := 5, st := .present }
    (issueFields (.add 1 2 4)).isSome && (twoSrc 1 2 9).all == [(0, 1), (1, 2)] ++ (2, 9) :: [] &&
      trapsAs (.add 1 2 9) (on { regs v v with win := 8 }) .regRange (infoReg 9 2) &&
      trapsAs (.tadd 2 0 9 0) (on (hnd (tth []))) .tileName (info253 0 2) &&
      trapsAs (.add 1 2 4) (on (regs v { st := .released })) .regReleased (infoReg 4 2) &&
      trapsAs (.add 1 2 4) (on (regs { v with ecc := true } v)) .eccUncorr (info142 18 14 false 0) &&
      trapsAs (.tadd 2 0 1 0) (on (hnd { tth [] with ecc := [0x100] })) .eccUncorr (info142 18 14 false 0) &&
      parksOn (.add 1 2 4) (on (regs v { st := .pending })) (.reg 4) &&
      trapsAs (.add 1 2 4) (on (regs v { st := .pending, mark := some { cause := .poison, tval := 9, tinfo := 11 } })) .poison 11) = true := by decide +kernel
theorem witness_BarrierRefusals : (let t := hnd ptr
    let i := Instr.barinit 2 3 1
    let seg := fun (s : Thread) (g : BitVec 128) => { s with sgs := [(0, g)] }
    let f := hnd { th [(2, 2 ^ 61), (3, 7)] with sgs := [(1, sg 2 15 (2 ^ 25) 4096)] }
    (match ptrCheck (on t) 0 t specBar 512 with | .ok r => r == (0, 512) | .error _ => false) && scopeKind 3 != 0 &&
      trapsAs (.barinit 2 3 3) (on t) .segRights (info142 3 9 false 0) &&
      (match ptrCheck (on (seg t (sg 5 15 0 65536))) 0 (seg t (sg 5 15 0 65536)) specBar 512 with | .ok _ => false | .error x => decide (x = accFault .segRights 16 specBar 512)) &&
      trapsAs i (on (seg t (sg 5 15 0 65536))) .segRights (info142 3 9 false 0) &&
      trapsAs (.barinit 2 3 3) (two f) .segRights (info142 5 9 false 1) &&
      trapsAs i (on (withSeg (hnd (th [(2, 512), (3, 0)])) 0)) .segRights (info142 6 9 false 0) &&
      trapsAs i (on (withSeg (hnd (th [(2, 512), (3, 65)])) 0)) .segRights (info142 6 9 false 0) &&
      trapsAs (.bar 2) (on (hnd { th [(2, 2 ^ 61)] with sgs := [(1, sg 3 15 0 4096)] })) .segRights (info142 3 9 false 1) &&
      trapsAs (.bar 2) (on (seg t (sg 5 15 0 65536))) .segRights (info142 3 9 false 0) &&
      trapsAs (.bar 2) (on t) .segRights (info142 8 9 false 0) &&
      trapsAs (.bar 2) { on t with mem := mem [(512, 2 + 3 * 2 ^ 32 + 2 ^ 35)] } .segRights (info142 3 9 false 0) &&
      trapsAs (.bar 2) { two f with mem := memWriteN [] (placeOfKind 0 2 (2 ^ 25)) (2 + 3 * 2 ^ 32 + 2 ^ 35) 8 } .segRights (info142 5 9 false 1)) = true := by decide +kernel
theorem witness_BarIssue : (let s := fun (t : Thread) => { on t with mem := mem [(512, 2 + 2 ^ 32 + 2 ^ 35)] }
    let q := { acc (.load false) 8 0 with acq := true }
    thAfter (.bar 2) (s ptr) (fun u => u.prog == .asked (s ptr).nextId && u.pc == 16) &&
      parksOn (.bar 2) (s { ptr with touched := 1 }) .fence &&
      parksOn (.bar 2) { s ptr with net := [(0, q)] } .fence &&
      parksOn (.bar 2) (s { ptr with bar := some { ptr := 512, gen := 0, scope := 1 } }) (.barrier (aLocal 0 512) 0) &&
      thAfter (.bar 2) (s { ptr with bar := some { ptr := 512, gen := 4, scope := 1 } }) (fun u => u.pc == 20 && u.bar.isNone)) = true := by decide +kernel
theorem witness_TrapReturnItems : (let f : Fields := { kOnly := true, items := [0x15C0, 0x15C2] }
    rdy (on { kth [] with csr := { tepc := 8 } }) .tret f &&
      readyB (sxOn 3 []) (.sextant 0 3) (kth []) .tret f &&
      gives (exec .tret (sxOn 3 [])) (fun b => (b.sxThread 0 3).th.mode == .k && (b.sxThread 0 3).th.pc == 0)) = true := by decide +kernel

/-! ### Witnesses: checks of queued words that all pass, and first ones that fail -/

theorem pass_append {l m : List Check} (h : ∀ c ∈ l, ¬ c.1) (k : ∀ c ∈ m, ¬ c.1) : ∀ c ∈ l ++ m, ¬ c.1 := fun c hc => (List.mem_append.mp hc).elim (h c) (k c)
theorem pass_all {α : Type} {l : List α} {f : α → List Check} (h : ∀ o ∈ l, ∀ c ∈ f o, ¬ c.1) : ∀ c ∈ l.flatMap f, ¬ c.1 :=
  fun c hc => let ⟨o, ho, hf⟩ := List.mem_flatMap.mp hc; h o ho c hf
theorem pass_null {exb : Nat} {bfmt : Word} {o : Opnd} (h : Stands exb bfmt o) : ∀ c ∈ nullChecks o, ¬ c.1 := by
  simpa [nullChecks] using h.named
theorem pass_place {exb : Nat} {bfmt : Word} {o : Opnd} (h : Stands exb bfmt o) : ∀ c ∈ tilePlace exb o, ¬ c.1 := by
  have k : ∀ p ∈ o.dataRanges ++ o.scaleRanges, exb * 256 ≤ p.1 ∧ p.1 + p.2 ≤ 65536 := h.place
  simp only [tilePlace, placeChecks, Past, Below, List.forall_mem_cons, List.mem_append] at k ⊢
  refine ⟨?_, ?_, ?_, ?_, fun _ h => absurd h List.not_mem_nil⟩ <;> rintro ⟨p, hp, h⟩
  · have := k p (.inl hp); omega
  · have := k p (.inr hp); omega
  · have := k p (.inl hp); omega
  · have := k p (.inr hp); omega
theorem pass_code {exb : Nat} {bfmt : Word} {o : Opnd} {ok : Prop} (h : Stands exb bfmt o) (k : ok) : ∀ c ∈ codeChecks bfmt ok o, ¬ c.1 := by
  simp only [codeChecks, List.forall_mem_cons]
  exact ⟨h.code, fun ⟨p, hp, b, h1, h2, h3⟩ => h3 (h.banks p hp b h1 h2), fun n => n k, fun _ h => absurd h List.not_mem_nil⟩
theorem pass_shape {o : Opnd} {ok : Prop} (h : o.dest = true → Writable o) (k : ok) : ∀ c ∈ shapeChecks ok o, ¬ c.1 := by
  simp only [shapeChecks, List.forall_mem_cons]
  exact ⟨fun n => n k, fun ⟨d, r, p⟩ => Nat.not_lt.mpr ((h d).1 r) p, fun ⟨d, r⟩ => Bool.noConfusion (r.symm.trans (h d).2), fun _ h => absurd h List.not_mem_nil⟩
theorem pass_overlap {n : Nat} {may : Prop} {d o : Opnd} (h : Apart d.foot o.foot) : ∀ c ∈ overlapChecks n may d o, ¬ c.1 := by
  have k : Apart d.foot o.dataRanges := fun p hp q hq => h p hp q (List.mem_append.mpr (.inl hq))
  simp only [overlapChecks, List.forall_mem_cons]
  exact ⟨fun n => n.2 k, fun n => n.2 h, fun _ h => absurd h List.not_mem_nil⟩
/-- The word of tadd 2, 0, 1. -/
def addWord : TileWord := { k := .arith 0 .rne, d := 2, a := some 0, b := some 1 }
theorem witness_TileChecks : ∀ c ∈ queueChecks (on (tth [])) 0 (tth []) (.tadd 2 0 1 0) 0 0, ¬ c.1 :=
  have st : ∀ o ∈ tileOf (on (tth [])) 0 (tth []) 2 0 false true :: besides (on (tth [])) 0 (tth []) addWord, Stands ((on (tth [])).core 0).exb ((on (tth [])).core 0).bfmt o := stand_all (by decide +kernel)
  show ∀ c ∈ stripChecks (on (tth [])) 0 (tth []) addWord, ¬ c.1 from
  pass_append (pass_append (pass_append (pass_append (pass_append (pass_append
    (by simp [addWord]) (pass_all fun o ho => pass_null (st o ho))) (pass_all fun o ho => pass_place (st o ho)))
    (pass_all fun o ho => pass_code (st o ho) (fun _ h => absurd h (by decide))))
    (pass_all fun o ho => pass_shape
      ((by decide +kernel : ∀ o ∈ tileOf (on (tth [])) 0 (tth []) 2 0 false true :: besides (on (tth [])) 0 (tth []) addWord, o.dest = true → (1 < dRows o.d → o.rowBytes ≤ dPitch o.d) ∧ dRdonly o.d = false) o ho)
      (fun _ => (by decide +kernel : ∀ o ∈ tileOf (on (tth [])) 0 (tth []) 2 0 false true :: besides (on (tth [])) 0 (tth []) addWord, (tileOf (on (tth [])) 0 (tth []) 2 0 false true).rows = o.rows ∧ (tileOf (on (tth [])) 0 (tth []) 2 0 false true).cols = o.cols) o ho)))
    (pass_all fun o ho => pass_overlap ((by decide +kernel : ∀ o ∈ besides (on (tth [])) 0 (tth []) addWord, ∀ p ∈ (tileOf (on (tth [])) 0 (tth []) 2 0 false true).foot, ∀ q ∈ o.foot, p.1 + p.2 ≤ q.1 ∨ q.1 + q.2 ≤ p.1) o ho)))
    (pass_all fun o ho => by
      rw [if_neg ((by decide +kernel : ∀ o ∈ (besides (on (tth [])) 0 (tth []) addWord).drop 1, ¬ o.dest = true) o ho)]; exact fun _ h => absurd h List.not_mem_nil)
theorem witness_TileFails : FirstFails (queueChecks (on (th [])) 0 (th []) (.tadd 2 0 1 0) 0 0) (.tileShape, 1, 0) :=
  ⟨[(addWord.k = .sparse ∧ 8 ≤ addWord.d.toNat + 1, .tileName, 0, 3)], _, _, rfl, by decide +kernel, by simp [addWord]⟩
/-- The word of mma 2, 0, 1. -/
def mulWord : MatWord := { c := 2, a := 0, b := 1, sat := false, z := false, tb := false }
theorem witness_MatrixChecks : ∀ c ∈ queueChecks (on (tth [])) 0 (tth []) (.mma 0 1 0 2 0 0 0 0) 0 0, ¬ c.1 :=
  let tl := fun (n k : Nat) (dest : Bool) => tileOf (on (tth [])) 0 (tth []) n k false dest
  have st : ∀ o ∈ [tl 2 0 true, tl 0 1 false, tl 1 2 false], Stands ((on (tth [])).core 0).exb ((on (tth [])).core 0).bfmt o := stand_all (by decide +kernel)
  have c := st _ (.head _)
  have a := st _ (.tail _ (.head _))
  have b := st _ (.tail _ (.tail _ (.head _)))
  have ap : ∀ o ∈ [tl 0 1 false, tl 1 2 false], ∀ p ∈ (tl 2 0 true).foot, ∀ q ∈ o.foot, p.1 + p.2 ≤ q.1 ∨ q.1 + q.2 ≤ p.1 := by decide +kernel
  show ∀ c ∈ mulChecks (on (tth [])) 0 (tth []) mulWord, ¬ c.1 from
  pass_append (pass_append (pass_append (pass_append (pass_append (pass_append (pass_append (pass_append (pass_append (pass_append (pass_append
    (by simp [mulWord]) (pass_all fun o ho => pass_null (st o ho))) (pass_place c)) (pass_place a)) (pass_place b)) (fun _ h => absurd h List.not_mem_nil))
    (pass_all fun o ho => pass_code (st o ho) trivial))
    (pass_all fun o ho => pass_shape
      ((by decide +kernel : ∀ o ∈ [tl 2 0 true, tl 0 1 false, tl 1 2 false], o.dest = true → (1 < dRows o.d → o.rowBytes ≤ dPitch o.d) ∧ dRdonly o.d = false) o ho) trivial))
    (by
      have h1 : mulFmtA (on (tth [])) 0 (tth []) mulWord = 1 := by decide +kernel
      have h2 : mulFmtB (on (tth [])) 0 (tth []) mulWord = 1 := by decide +kernel
      have h3 : (mulC (on (tth [])) 0 (tth []) mulWord).fmt = 1 := by decide +kernel
      have h4 : ∀ o ∈ mulA (on (tth [])) 0 (tth []) mulWord, o.rows = (mulC (on (tth [])) 0 (tth []) mulWord).rows ∧ o.cols ≤ 8 := by decide +kernel
      have h5 : ∀ o ∈ mulB (on (tth [])) 0 (tth []) mulWord, o.rows = (mulC (on (tth [])) 0 (tth []) mulWord).cols ∧ o.cols ≤ 8 := by decide +kernel
      have h6 : mulWord.k 1 = 24 := by decide +kernel
      have h7 : chunkOf 1 = 24 := by decide +kernel
      simp only [h1, h2, h3, List.forall_mem_cons]
      refine ⟨?_, ?_, ?_, ?_, ?_, ?_, ?_, ?_, ?_, ?_, fun _ h => absurd h List.not_mem_nil⟩
      · decide
      · decide
      · decide
      · decide
      · decide
      · decide
      · exact fun ⟨o, ho, h⟩ => h.elim (fun n => n (h4 o ho).1) (fun ⟨_, n⟩ => by have := (h4 o ho).2; omega)
      · exact fun ⟨o, ho, h⟩ => by
          rw [if_neg (by decide), h6] at h
          exact h.elim (fun n => n (h5 o ho).1) (fun n => by have := (h5 o ho).2; omega)
      · exact fun ⟨o, ho, _⟩ => Option.noConfusion rfl (heq_of_eq ho)
      · decide))
    (pass_overlap (ap _ (.head _)))) (pass_overlap (ap _ (.tail _ (.head _))))) (fun _ h => absurd h List.not_mem_nil)
/-- The module with the bank of tile 0 of code 8. -/
def on8 (t : Thread) : State := { on t with cores := [(0, { exb := 1, bfmt := 0x1111111111111111 + BitVec.ofNat 64 (7 * 2 ^ (4 * (4096 / 4096))) })] }
theorem witness_SideStoreChecks : (∀ c ∈ queueChecks (on8 (tth [])) 0 (tth []) (.mdld 0 5) 0 1984, ¬ c.1) ∧
    (∀ c ∈ queueChecks (on (tth [])) 0 (tth []) (.mdclr 5) 0x2007E0 0, ¬ c.1) ∧ FirstFails (queueChecks (on (tth [])) 0 (tth []) (.mdclr 5) 0 0) (.tileShape, 12, 1) :=
  have h : Stands ((on8 (tth [])).core 0).exb ((on8 (tth [])).core 0).bfmt (tileOf (on8 (tth [])) 0 (tth []) 0 1 false false) := stands_of (by decide +kernel)
  ⟨pass_append (pass_append (pass_append (pass_null h) (pass_place h)) (pass_code h (by decide +kernel))) (List.forall_mem_cons.mpr ⟨by decide +kernel, fun _ h => absurd h List.not_mem_nil⟩),
   List.forall_mem_cons.mpr ⟨by decide +kernel, fun _ h => absurd h List.not_mem_nil⟩, ⟨[], _, [], rfl, by decide +kernel, fun _ h => absurd h List.not_mem_nil⟩⟩
theorem witness_FillChecks : let t := { tth [] with gens := [(3, gen)] }
    let o := tileOf (on t) 0 t 1 0 false true
    FirstFails (nullChecks o ++ tilePlace 1 o ++ codeChecks ((on t).core 0).bfmt True o ++ shapeChecks True o ++ [(gKind (t.gen 4) = 0, .tileFormat, 4, 1)]) (.tileFormat, 4, 1) :=
  let t := { tth [] with gens := [(3, gen)] }
  have h : Stands 1 ((on t).core 0).bfmt (tileOf (on t) 0 t 1 0 false true) := stands_of (by decide +kernel)
  ⟨nullChecks _ ++ tilePlace 1 _ ++ codeChecks ((on t).core 0).bfmt True _ ++ shapeChecks True _, _, [], rfl, by decide +kernel,
    pass_append (pass_append (pass_append (pass_null h) (pass_place h)) (pass_code h trivial)) (pass_shape (fun _ => (by decide +kernel : (1 < dRows (tileOf (on t) 0 t 1 0 false true).d → (tileOf (on t) 0 t 1 0 false true).rowBytes ≤ dPitch (tileOf (on t) 0 t 1 0 false true).d) ∧ dRdonly (tileOf (on t) 0 t 1 0 false true).d = false)) trivial)⟩

theorem witness_DescriptorRefusals : (trapsAs (.txset 5 2 3) (on (hnd (tth [(2, 0), (3, 0)]))) .tileShape (info253 1 0) &&
      trapsAs (.txset 0 2 3) (on (hnd (tth [(2, 10), (3, 0)]))) .tileShape (info253 8 0) &&
      trapsAs (.txget 1 0 3) (on (hnd (tth [(3, 10)]))) .tileShape (info253 8 1) &&
      rdy (on (tth [(2, 9)])) (.gseed 3 2) { srcs := [(1, 2)], items := [0x203] }) = true := by decide +kernel
theorem witness_VernierRefusals : (let s := fun (t : Thread) => { on t with cores := [(0, { exb := 1, owner := 3 }), (1, { owner := 4 })] }
    let k := fun (x y : Nat) => hnd (kth [(2, x), (3, y)])
    trapsAs (.mitw 2 3) (on (k 7 0x8788858483828180)) .illegal (info348 6 0) &&
      trapsAs (.mitw 2 3) (on (k 8 0x8786858483828180)) .illegal (info348 6 0) &&
      trapsAs (.mitw 2 3) (s (k 7 0x8786858483828181)) .illegal (info348 8 0) &&
      trapsAs (.mitw 2 3) (s (k 7 0)) .illegal (info348 8 0) &&
      thAfter (.mitw 2 3) (s (k 7 0x8786858483828180)) (fun u => u.pc == 20) &&
      trapsAs (.rpt 2 511 7) (on (hnd (th [(2, 2 ^ 64 - 1)]))) .tileShape (info253 13 1)) = true := by decide +kernel
theorem witness_ReleaseParks : (let x := fun (l : List (Nat × Nat)) => { withSeg (th l) 0 with touched := 1 }
    let m := { mth 1 with touched := 1 }
    let s := fun (t : Thread) => { on t with mem := mem record }
    let inv := { th [(2, 0), (3, 2 * 2 ^ 24), (10, 5), (11, 6)] with touched := 1 }
    parksOn (.lnch 1 2) (s (x [(2, 512)])) .fence &&
      rdy (on m) (.msend 2 3) { srcs := [(1, 2), (2, 3)], items := [0x1CC0, 0x1CC1] } && parksOn (.msend 2 3) (on m) .fence &&
      parksOn (.cntdec 2) (on { hth 0 with touched := 1 }) .fence &&
      parksOn (.cntdec 2) (on { th [(2, 7 * 2 ^ 24)] with touched := 1 }) .fence &&
      parksOn (.rinv 1 2 3) (on inv) .fence && parksOn (.rinvr 1 2 3) (on inv) .fence &&
      parksOn (.rreply 2 3) (on { th [(2, 2 ^ 63), (3, 1)] with touched := 1 }) .fence &&
      parksOn (.rreply 2 3) (on { th [(2, 2 ^ 63), (3, 1)] with cnt := { s := 63 } }) (.counterFull 1) &&
      thAfter (.rreply 2 3) (on (th [(2, 2 ^ 63), (3, 1)])) (fun u => u.cnt.s == 1 && u.pc == 20) &&
      gives (exec (.qkick 2) { sxOn 3 [] with dies := [(0, { sx := [(3, { running := true, th := { kth [(2, 5)] with touched := 1 } })] })] }) (fun b => (b.sxThread 0 3).th.park == some .fence) &&
      thAfter (.cntdec 2) (on { hth 0 with prog := .probes 4 0 0 [] }) (fun u => u.park.isSome && u.prog == .asked 1)) = true := by decide +kernel
theorem witness_TaskFields : (let l := { launch0 0 with record := { rec0 with dw := [0x10000, 0x100, 0, 2] } }
    rdy (on (withSeg (th [(2, 512)]) 0)) (.gspawn 1 2) { oneSrc 1 2 with items := [0x1CC1] } &&
      rdy { on (th []) with launches := [(0, l)] } (.tnext 1) { onlyDst 1 with items := [0x1CC0] } &&
      rdy (on (mth 1)) (.mrecv 1 2) { oneSrc 1 2 with items := [0x1CC0] } &&
      rdy (on (th [(2, 5)])) (.phase 2) { onlySrc 2 with items := [0x1CC2] } &&
      (submit { on (th []) with parts := [(0, { thermalHold := true })] } rec0 0 none).1 == -1 && (submit { on (th []) with parts := [(0, { st := 2 })] } rec0 0 none).1 == -1 &&
      thAfter (.cntnew 1 2) { on (th [(2, 0)]) with parts := [(0, { st := 2 })] } (fun u => u.pc == 20)) = true := by decide +kernel
theorem witness_DecrementElsewhere : (let h := 7 * 2 ^ 24
    let p : Part := { imports := [(4, BitVec.ofNat 128 (7 * 2 ^ 48 + 2 * 2 ^ 30))] }
    let t := th [(2, h)]
    hModule (BitVec.ofNat 64 h) == 7 && (on t).modnum 0 != 7 && (counterImport (on t) 0 0 7).isNone && counterImport { on t with parts := [(0, p)] } 0 0 7 == some 4 &&
      gives (exec (.cntdec 2) { on t with parts := [(0, p)] }) (fun b => match b.reqs with | [(_, .sent ..)] => true | _ => false) &&
      gives (exec (.cntdec 2) (on t)) (fun b => match b.reqs with | [(_, .cntDec ..)] => true | _ => false) &&
      gives (exec (.cntfree 2) (on t)) (fun b => match b.reqs with | [(_, .cntFree ..)] => true | _ => false)) = true := by decide +kernel
theorem witness_HeldQueue : (let die := fun (n : Nat) => { (queued 0 1 []).die n with sx := [(3, { running := true, th := kth [(2, 5)] })], qmap := { slots := [(32 + 3, (5, 0))], qcbs := [(5, aHost 0x2000)] } }
    let s := { queued 0 1 [] with dies := [(1, die 0)], parts := [(0, { dies := some 1, resetStep := 3 }), (1, { dies := some 2 })], cur := some (.sextant 1 3) }
    queueHeld s 1 5 && !queueHeld { s with parts := [(0, { dies := some 1, resetStep := 2 }), (1, { dies := some 2 })] } 1 5 &&
      gives (exec (.qkick 2) s) (fun b => (b.sxThread 1 3).th.park == some .table) &&
      gives (exec (.wpkQueue 1 2) { s with dies := [(1, { die 0 with sx := [(3, { running := true, th := kth [(2, 0)] })] })] }) (fun b => (b.sxThread 1 3).th.park == some .table) &&
      does s (.kick 1 5) (fun b => b.agenda == [.kick 1 5]) &&
      does { s with dies := [(1, { die 0 with qmap := { slots := [(32 + 3, (5, 0))], qcbs := [(5, aHost 0x2000)], deferred := [(5, 0)] } })] } (.kickDelivery 1) (fun b => b.agenda == [.kickDelivery 1]) &&
      (match qcbOf s 1 5 with | some c => startHeld s 1 c | none => false) && does s (.queuePacketStart 1 5) (fun b => b.agenda == [.queuePacketStart 1 5])) = true := by decide +kernel
theorem witness_Misnumbered : (let x := { acc (.load true) 1 0 with part := some 1 }
    let tr := { copyTr with part := some 1 }
    mismatch (coming x) x == some 1 && mismatch (coming x) { x with part := some 0 } == none &&
      does (coming x) (.memoryAccessArrival 1) (fun b => b.net == [] && (b.part 1).ufaults == 1 && (b.part 1).resetStep == 1 && (b.part 1).resetCause == 3 && b.mem == (coming x).mem) &&
      misnumbered (moving tr) tr == some 1 && does (moving tr) (.copyUnitWrite 1) (fun b => b.transfers == [] && (b.part 1).ufaults == 1) &&
      does (coming (acc (.load true) 1 0)) (.scrubPass 0 1 1 5) (fun b => (tfind b.net 1).map (fun y => y.part) == some (some 1))) = true := by decide +kernel
theorem witness_StoreOrder : (let s := { on ptr with net := [(1, { devStore with stamp := 1 }), (2, { devStore with stamp := 2, data := 7 })] }
    let f := { on ptr with net := [(1, devStore)], dies := [(0, { filters := [(homeSlice 4096, (List.range 64).map (fun k => (k + 100, 0)))] })] }
    storeBehind s 2 { devStore with stamp := 2, data := 7 } && !storeBehind s 1 { devStore with stamp := 1 } &&
      does s (.sliceWrite 2) (fun b => b.mem == [] && b.agenda == [.sliceWrite 2]) && does s (.sliceWrite 1) (fun b => b.rd 4096 8 == 9) &&
      does f (.sliceWrite 1) (fun b => b.mem == [] && b.agenda == [.sliceWrite 1] && (tfind b.net 1).map (fun y => y.atFilter) == some true)) = true := by decide +kernel
theorem witness_Fills : (let e := Event.dieCacheFill 0 16 1
    let s := fun (l : List (Nat × Access)) => { on ptr with net := l }
    let x := { filling 1 4096 with came := some 5 }
    let y := { filling 1 8192 with came := some 0 }
    let z := filling 2 8192
    behind (s [(1, x), (2, y)]) (1, 0, 0) (x.waiting 1) && does (s [(1, x), (2, y)]) e (fun b => b.agenda == [e] && (tfind b.net 1).map (fun w => w.fill) == some 1) &&
      rivalAt (s [(1, { x with granted := true }), (2, z)]) 1 (1, 0, 0) && does (s [(1, { x with granted := true }), (2, z)]) e (fun b => (tfind b.net 1).map (fun w => w.fill) == some 2) &&
      does (s []) e (fun b => b.agenda == []) &&
      does { s [(1, x), (2, z)] with dies := [(0, { lines := [{ slice := homeSlice 4096, set := 0, way := 0, line := 16, host := false, owner := 1, key := 1, epoch := false, valid := 255, dirty := 0 }] })] } e (fun b => (tfind b.net 1).map (fun w => w.fill) == some 2)) = true := by decide +kernel
theorem witness_PacketLeaves : (let h : Beat := mkHdr 4 2 7 0 0 0 0 0
    let s := { on (th []) with reqs := [(1, .sent 0 0 0 0 h [0, 0] 0 0 false)] }
    let e := Event.requestReplayTimeout 1
    does { s with claims := [(1, lastClaim (5, 0, 0))] } e (fun b => tfind b.reqs 1 == some (.sent 0 0 0 0 h [0, 0] 0 0 true) && b.claims == [] && b.agenda.contains e) &&
      portFenced { s with parts := [(1, { st := 2 })] } 0 0 h && does { s with parts := [(1, { st := 2 })], claims := [(1, lastClaim (5, 0, 0))] } e (fun b => b.agenda == [.postedAnswerArrival 0 0 3] && b.claims == [])) = true := by decide +kernel
theorem witness_PacketClaims : packetWay (on (th [])) 0 0 0 (mkHdr 4 2 7 0 0 0 0 0) ≠ [] := by
  rw [packetWay, if_neg (by decide +kernel), plain, toPort]
  simp
/-- A queued tile operation of an instruction, with its descriptors and codes. -/
def tileOf0 (i : Instr) (d : List (BitVec 128)) (c : List (BitVec 4)) : TileOp := { taddOp with ins := i, word := i.word, descs := d, codes := c }
/-- An operation names as many operands, and its destination's code is no reserved one. -/
def names (op : TileOp) (n : Nat) : Bool := match tileWord op.ins with | some w => (op.tileOps w).length == n && (match (op.tileOps w).head? with | some d => fmtBits d.fmt != 0 | none => false) | none => false
/-- The module with a strip of an operation to make. -/
def stripping (op : TileOp) (l : List (Nat × Nat)) : State := { on { tth [] with cnt := { t := 1 } } with cores := [(0, { tileQ := [op] })], mem := mem l }
theorem witness_TileElements : (let t3 := [tile 12288, tile 4096, tile 8192]
    let t2 := [tile 12288, tile 4096]
    names taddOp 3 && names (tileOf0 (.tfill 2 3) [tile 12288] [1]) 1 && names (tileOf0 (.tabs 2 0) t2 [1, 1]) 2 &&
      names (tileOf0 (.tqnt 2 0 0) t2 [5, 1]) 2 && names (tileOf0 (.tsum 2 0 2) t2 [1, 1]) 2 && names (tileOf0 (.targmax 2 0 0) t2 [9, 1]) 2 &&
      names (tileOf0 (.tsparse 2 0) t3 [1, 1, 8]) 3 &&
      axisOf (.trmax 2 0 1) == some 1 && (elementOf taddOp State.reset 0 (taddOp.opnd 0 0 false true) (taddOp.opnd 1 1 false false) (taddOp.opnd 2 2 false false)).isSome &&
      does (stripping (tileOf0 (.tsum 2 0 2) t2 [1, 1]) [(4096, 0x3F800000), (4128, 0x40000000), (4132, 0x40400000)]) (.tileStrip 0) (fun b => b.rd (aLocal 0 12288) 4 == 0x40C00000) &&
      does (stripping (tileOf0 (.targmax 2 0 0) t2 [9, 1]) [(4100, 0x3F800000), (4108, 0x3F800000)]) (.tileStrip 0) (fun b => b.rd (aLocal 0 12288) 4 == 1) &&
      does (stripping (tileOf0 (.tmax 2 0 1 0) t3 [1, 1, 1]) [(4096, 0x80000000), (8196, 0xBF800000)]) (.tileStrip 0) (fun b => b.rd (aLocal 0 12288) 8 == 0)) = true := by decide +kernel
theorem test_strip_stops : (let s := stripping taddOp [(4096, 0x3F800000)]
    does { s with poison := [aLocal 0 4096] } (.tileStrip 0) (fun b => b.mem == s.mem && (b.core 0).tileQ == []) &&
      does { s with cores := [(0, { tileQ := [taddOp], locks := [(1, { holder := some 5 })] })] } (.tileStrip 0) (fun b => b.agenda == [.tileStrip 0])) = true := by decide +kernel
/-- The octet with one queued matrix operation, its last entry to come. -/
def octetOn (op : TileOp) (l : List (Nat × Nat)) : State := { on { tth [] with cnt := { t := 1 } } with cores := [(0, { matQ := [op] })], octets := [(0, { partialWork := [(0, 3)] })], mem := mem l }
/-- mma 2, 0, 1 in the queue. -/
def mmaOp : TileOp := tileOf0 (.mma 0 1 0 2 0 0 0 0) [tile 12288, tile 4096, tile 8192, 0] [1, 1, 1, 0]
theorem served_of {op : TileOp} {l : List (Nat × Nat)} (p : servedPlace (octetOn op l) 0 0 = some 0) (n : op.next < matSteps op ∧ blockEmpty op op.next = false)
    (e : stepEntries (octetOn op l) 0 op op.next ≤ 4) (f : matFault (octetOn op l) 0 op op.next = none) : Served (octetOn op l) 0 0 op [] :=
  { table := rfl, place := p, head := rfl, last := e, sound := f
    heads := fun k hk o m h => match k, hk with
      | 0, _ => by cases h; exact n
      | 1, _ => nomatch (h : ([] : List TileOp) = o :: m)
      | 2, _ => nomatch (h : ([] : List TileOp) = o :: m)
      | 3, _ => nomatch (h : ([] : List TileOp) = o :: m)
      | 4, _ => nomatch (h : ([] : List TileOp) = o :: m)
      | 5, _ => nomatch (h : ([] : List TileOp) = o :: m)
      | 6, _ => nomatch (h : ([] : List TileOp) = o :: m)
      | 7, _ => nomatch (h : ([] : List TileOp) = o :: m) }
theorem witness_MatrixBlocks : Served (octetOn mmaOp [(4096, 0x3F800000)]) 0 0 mmaOp [] ∧ (matWord mmaOp.ins).isSome = true :=
  ⟨served_of (by decide +kernel) (by decide +kernel) (by decide +kernel) (by decide +kernel), by decide +kernel⟩
/-- mdld of the tile at 4096, of code 8, to 1984 in the side store. -/
def mdldOp : TileOp := { tileOf0 (.mdld 0 5) [tile 4096] [8] with xs := 1984 }
/-- mdclr of 32 bytes from 2016. -/
def mdclrOp : TileOp := { tileOf0 (.mdclr 5) [] [] with xs := 0x2007E0 }
/-- gfill of the tile at 12288 from a SIGN generator. -/
def gfillOp : TileOp := { tileOf0 (.gfill 2 3) [tile 12288] [1] with gA := some { img := gen, seff := 5 } }
theorem witness_SideStoreBlocks : Served (octetOn mdldOp [(4096, 0x0706050403020100)]) 0 0 mdldOp [] ∧ Served (octetOn mdclrOp []) 0 0 mdclrOp [] ∧ Served (octetOn gfillOp []) 0 0 gfillOp [] :=
  ⟨served_of (by decide +kernel) (by decide +kernel) (by decide +kernel) (by decide +kernel), served_of (by decide +kernel) (by decide +kernel) (by decide +kernel) (by decide +kernel),
   served_of (by decide +kernel) (by decide +kernel) (by decide +kernel) (by decide +kernel)⟩
theorem test_matrix_blocks : (let r := octetOn mmaOp [(4096, 0x3F800000), (8192, 0x40000000), (12288, 0x3F800000)]
    does r (.vernierEntry 0) (fun b => b.rd (aLocal 0 12288) 4 == 0x40400000 && (b.octet 0).entry == 1) &&
      does (octetOn mdldOp [(4096, 0x0706050403020100)]) (.vernierEntry 0) (fun b => b.rd (aSide 0 1984) 8 == 0x0706050403020100) &&
      does { octetOn mdclrOp [] with mem := memWriteN [] (aSide 0 2016) (2 ^ 64 - 1) 8 } (.vernierEntry 0) (fun b => b.mem == []) &&
      does (octetOn gfillOp []) (.vernierEntry 0) (fun b => b.rd (aLocal 0 12288) 4 % 2 ^ 31 == 0x3F800000)) = true := by decide +kernel
theorem witness_Once : Once 0 (stripOut taddOp { k := .arith 0 .rne, d := 2, a := some 0, b := some 1 } (stripping taddOp []) 0 0) := by unfold Once; decide +kernel
theorem witness_FirstMax : FirstMax [.fin false 1 0, .fin false 2 0, .fin false 2 0] 1 (.fin false 2 0) ∧ Kept (fun k => .fin false k 0) 2 3 := by
  refine ⟨⟨rfl, rfl, fun j w h _ => ?_⟩, ⟨by decide, by decide, fun k h _ _ x e => .inl ?_⟩⟩
  · match j, h with
    | 0, h => cases h; decide +kernel
    | 1, h => cases h; decide +kernel
    | 2, h => cases h; decide +kernel
  · have hk : k = 0 ∨ k = 1 := by omega
    rcases hk with rfl | rfl <;> rcases e with rfl | rfl <;> decide +kernel
theorem witness_ReissueRefused : (let w : SeqWord := { ins := .tadd 2 0 1 0, pc := 20, xa := 0, xb := 0 }
    let t := { tth [] with seqr := { busy := true, n := 1, m := 1, words := [w], q := 1 } }
    let stops := fun (u : Thread) (c : Cause) => does (on u) (.rptReissue 0) (fun b => match b.getTh a0 with | some v => v.seqr == {} && v.traps.map (fun x => x.mark.cause) == [c] | none => false)
    stops { t with tlim := 2 } .tileName && stops { t with ecc := [0x100] } .eccUncorr && stops { t with descs := [] } .tileShape &&
      does { on t with cores := [(0, { exb := 1, tileQ := List.replicate 32 taddOp })] } (.rptReissue 0) (fun b => b.agenda == [.rptReissue 0])) = true := by decide +kernel
theorem witness_Walk : (let c := fun (s : State) => { s with claims := [(walkWho 0 0, lastClaim (0, 0, 0))] }
    let e := Event.pageWalk 0 0
    let at_ := fun (l a : Nat) => walking { pend0 with at_ := some (l, a) }
    let is := fun (b : State) (q : Option (PendSt × Nat × Option (Nat × Nat))) => decide ((tfind (b.die 0).xlat.pend 0).map (fun p => (p.st, p.level, p.at_)) = q)
    let hit := fun (n : Nat) => (at_ 1 0x8000).modXlat 0 (fun x => { x with walkCache := [(walkSet (at_ 1 0x8000) 0 5 0x8000, [{ owner := 5, level := 1, above := 0, pa := 0x8000, ent := BitVec.ofNat 64 n }])] })
    (walkHit (at_ 1 0x8000) 0 5 0 1 0x8000).isNone && does (c (walking pend0)) e (fun b => is b (some (.walking, 0, some (2, 0x10000))) && b.agenda.contains e) &&
      does (c (at_ 2 0x10000)) e (fun b => is b (some (.walking, 0, some (3, 0x18000)))) && does (c (at_ 3 0x18000)) e (fun b => is b none && (firstLevel b 0 5 0).isSome) &&
      (walkHit (hit 0x10001) 0 5 0 1 0x8000).isSome && does (hit 0x10001) e (fun b => is b (some (.walking, 0, some (2, 0x10000)))) && does (hit 0) e (fun b => is b (some (.faulted, 1, none))) &&
      does (hit 0x10005) e (fun b => is b (some (.denied 11, 0, none))) &&
      let s := { walking pend0 with dies := [(0, { xlat := { pend := [(0, pend0), (16, { pend0 with at_ := some (1, 0) })] } })] }
      walkerBusy s 0 0 && does s e (fun b => b.agenda == [e] && is b (some (.walking, 0, none))) &&
      let p := { pend0 with st := .faulted, level := 3 }
      let s := (walking p).modXlat 0 (fun x => { x with fbent := [(0, 0)], noticePending := true })
      decide ((recorded s 0).map Prod.fst = [0]) && !hostPager s 0 && mapped s 0 5 0 && does s (.pagerNotice 0) (fun b => (b.die 0).xlat.cmdQ == [.fbcmdMapped 0 0, .fbcmdReplayAll 0]) &&
      let p := { pend0 with st := .faulted, level := 3, vpn := 1 }
      let s := (walking p).modXlat 0 (fun x => { x with fbent := [(0, 0)] })
      !mapped s 0 5 1 && (pagerTables s 0 5 1).map (fun q => q.1) == some 0x18008) = true := by decide +kernel
theorem witness_WalkRounds : (let q := fun (o : Nat) => { pend0 with owner := o, vpn := o }
    let s : State := { on (th []) with dies := [(0, { xlat := { pend := [(0, q 5), (16, q 6)] } })] }
    let l := (walksAt s 0 0).filter (fun q => !q.2.granted)
    decide (walkRivals s 0 0 (q 5) = [6] ∧ (l.map (fun q => q.2.owner)).eraseDups = [5, 6] ∧ (l.map Prod.fst).Nodup) &&
      does { s with dies := [(0, { xlat := { pend := [(0, q 5)] } })] } (.arbitrationRound 0 3 0) (fun b => (b.die 0).xlat.pend == [(0, q 5)])) = true := by decide +kernel
theorem witness_CrossingRound : (let p : Point := (4, 0, 7)
      let r : State := { on (th []) with claims := [(1, { lastClaim p with owner := 5 }), (2, { lastClaim p with owner := 6 })] }
      decide (presentAt r p = [5, 6] ∧ ((waitsAt r p).map (fun x => (x.claim, x.key))).Nodup) && (headOf (openRow r p) ((waitsAt r p).filter (fun x => x.owner == 5 && !x.granted))).map (fun h => (h.claim, h.key)) == some (true, 1)) = true := by decide +kernel
theorem witness_FilterRound : (let p := filterPoint 4096
    let w : Access := { devStore with atFilter := true }
    let s : State := { on (th []) with net := [(1, { w with owner := 1 }), (2, { w with owner := 2 })] }
    decide (presentAt s p = [1, 2] ∧ ((waitsAt s p).map (fun x => (x.claim, x.key))).Nodup) &&
      (headOf (openRow s p) ((waitsAt s p).filter (fun x => x.owner == 1 && !x.granted))).map (fun h => (h.claim, h.key)) == some (false, 1)) = true := by decide +kernel
theorem witness_RegisterReads : (does (on (th [])) (.registerRead 3 0x8000) (fun b => b.outbox == [.hostReg 3 0x8000 0])) = true := by decide +kernel
theorem test_host_register : ((hostReg (on (th [])) 32 0).isSome) = true := by decide +kernel
theorem test_offset_outside : (does (on (th [])) (.registerWrite 33 0 7 1) (fun b => b.dies == [])) = true := by decide +kernel
theorem witness_CounterTurns : (let big := 2 ^ 40
    let c := fun (p : Nat) => { on (th []) with dies := [(0, { counters := [(0, { st := .armed, val := 2, last := some (0, p) })] })] }
    let s := fun (p : Nat) (r : Req) => { c p with reqs := [(1, r)] }
    let d : Req := .cntDec (some (0, 0)) 0 none 0 0
    does (s big d) (.counterDecrement 1) (fun b => b.agenda == [.counterDecrement 1] && b.dies == (s big d).dies) && does (s 0 d) (.counterDecrement 1) (fun b => (tget (b.die 0).counters 0 {}).val == 1) &&
      does (s big (.cntBind 0 0 0 rec0)) (.counterBind 1) (fun b => b.agenda == [.counterBind 1]) && does (s big (.cntFree 0 0 0 (some 2))) (.counterFree 1) (fun b => b.agenda == [.counterFree 1]) &&
      let f := { s 0 d with parts := [(0, { st := 2 })] }
      f.fenced 0 && does f (.counterDecrement 1) (fun b => b.agenda == [.counterDecrement 1]) &&
      let f := { s 0 (.cntBind 0 0 0 rec0) with parts := [(0, { st := 2 })] }
      does f (.counterBind 1) (fun b => b.agenda == [.counterBind 1]) && does { f with reqs := [(1, .cntFree 0 0 0 (some 2))] } (.counterFree 1) (fun b => b.agenda == [.counterFree 1]) &&
      let o := s 0 (.cntDec (some (0, 0)) (BitVec.ofNat 64 (7 * 2 ^ 24)) (some 4) 0 0)
      decide (hModule (BitVec.ofNat 64 (7 * 2 ^ 24)) ≠ o.modnum 0) && does o (.counterDecrement 1) (fun b => b.reqs == [] && b.agenda == [.postedAnswerArrival 0 4 1]) &&
      let o := s 0 (.cntDec (some (0, 0)) 99 (some 4) 0 0)
      (counterOf o 99).isNone && does o (.counterDecrement 1) (fun b => b.reqs == [] && (b.agenda == [.postedAnswerArrival 0 4 3] || b.agenda == [.postedAnswerArrival 0 4 5]))) = true := by decide +kernel
theorem witness_InvokeTurns : (let r : InvRec := { hdr := inv3, beats := [0], token := 0x8000000000000001 }
    let s := { handled 0 with dies := [(0, { inv := { queues := [(0, [r])] } })], cores := [(0, { exb := 1, lastMake := some (0, 2 ^ 60) })] }
    let e := Event.invocationPlacement 0 0
    decide (invPool s 0 0 (s.handler 0 3) r = [0]) && !makeTurn s 0 0 && does s e (fun b => b.agenda == [e]) &&
      let l : Launch := { launch0 0 with kind := 2, inv := some r }
      let t := { on (th []) with launches := [(5, l)], reqs := [(1, .reply 0 0 0 0 (mkHdr 6 1 7 0 0 0 0 0) [BitVec.ofNat 128 (0x8000000000000001 * 2 ^ 64)] false)], claims := [(1, lastClaim (5, 0, 0))] }
      decide (hDmod (mkHdr 6 1 7 0 0 0 0 0) ≠ t.modnum 0) && does t (.requestReplayTimeout 1) (fun b => b.reqs == [] && (tfind b.launches 5).map (fun x => x.inv.map (fun y => y.token)) == some (some 0)) &&
      let z : Launch := { launch0 0 with live := 0, kind := 2, inv := some { r with token := 0 } }
      does { on (th []) with launches := [(5, z)] } (.launchDone 5) (fun b => b.launches == [] && b.agenda == []) &&
      (ringSpot (spilling 0) 0 3 ((spilling 0).handler 0 3) 0 16).isSome && (ringSpot { spilling 0 with dies := [(0, { inv := { spill := [(3, [{ r with ring := ringPlace (spilling 0) 0 ((spilling 0).handler 0 3) 0 }])] } })] } 0 3 ((spilling 0).handler 0 3) 0 1).isNone) = true := by decide +kernel
theorem witness_ReplyEntry : (let j : JEnt := { pointer := 0, owner := 0, slot := 0, typ := 2, size := 0, reason := 0, seq := 3, tag := 0, id := 9, dst := some rd1, reply := true }
    let s := { on (th []) with cores := [(0, { exb := 1, journal := [(4, j)] })] }
    let h := mkHdr 6 1 0 0 0 0 0 0
    let k := 4 * 2 ^ 17 + 3
    hdrOk h && replyEntry s 0 h k == some (0, 4, j) && (replyEntry s 0 h (k + 200 * 2 ^ 34)).isNone &&
      does s (.reply 0 h [BitVec.ofNat 128 (k * 2 ^ 64 + 77)]) (fun b => decide (tfind b.reqs 9 = some (.value rd1 77 none false none 0)))) = true := by decide +kernel
theorem witness_PacketsAgain : (let s := { on (th []) with dies := [(0, { filters := [(64, [(filterKey (on (th [])) 0 (mkHdr 4 2 0 0 0 0 0 0) [0, 0], 0)])] })] }
    (filterOf s 0 64).any (fun p => p.1 == filterKey s 0 (mkHdr 4 2 0 0 0 0 0 0) [0, 0]) && does s (.counter 0 (mkHdr 4 2 0 0 0 0 0 0) [0, 0]) (fun b => b.agenda.length == 1) &&
      let x : BitVec 256 := BitVec.ofNat 256 (2 * 2 ^ 144 + 0xFFFF * 2 ^ 128)
      let s := { on (th []) with parts := [(0, { exports := [(0, x)] })], dies := [(0, { counters := [(0, { st := .armed, val := 2, last := some (0, 2 ^ 50) })] })] }
      let h := mkHdr 4 2 0 0 0 0 0 0
      exportAdmits s 0 2 h [0, 0] && (counterOf s 0).isSome && does s (.counter 0 h [0, 0]) (fun b => b.agenda == [.counter 0 h [0, 0]] && b.dies == s.dies) &&
      does { s with dies := [(0, { counters := [(0, { st := .armed, val := 2 })] })] } (.counter 0 h [0, 0]) (fun b => (tget (b.die 0).counters 0 {}).val == 1) && does { s with dies := [] } (.counter 0 h [0, 0]) (fun b => b.dies.all (fun d => d.2.counters == [])) &&
      let full := { State.reset with mynis := [(0, { pausedPeer := [(1, true)], inbuf := List.replicate 16385 (1, 0, []), up := true })] }
      262144 < bufFill (full.port 0) 1 && does full (.pauseRepeat 0 1) (fun b => b.outbox.length == 1 && b.agenda == [.pauseRepeat 0 1]) &&
      does State.reset (.pauseRepeat 0 1) (fun b => b.outbox == []) && does State.reset (.pause 0 0) (fun b => b.mynis == [])) = true := by decide +kernel
theorem witness_DebugRefusals : (let s := fun (sel : Nat) (t : Bool) => { (if t then on (th []) else State.reset) with dies := [(0, { plat := { dbgSel := BitVec.ofNat 64 sel } })] }
    !dbgKnown 0x50 && does (s 0x50 true) (.dbgRead 0) (fun b => dbgDone b 0 == (2, 0)) && does (s 0x50 false) (.dbgRead 0) (fun b => dbgDone b 0 == (2, 0)) &&
      !dbgWritable 0x2002 && does (s 0x2002 true) (.dbgWrite 0) (fun b => dbgDone b 0 == (2, 0)) && does (s 5 false) (.dbgWrite 0) (fun b => dbgDone b 0 == (3, 0)) &&
      let t := { th [] with win := 8 }
      does { on t with dies := (s 31 true).dies } (.dbgRead 0) (fun b => dbgDone b 0 == (2, 0)) && t.win ≤ 31 &&
      let n := { s 5 true with dies := [(0, { plat := { dbgSel := 5, dbgTgt := BitVec.ofNat 64 (255 * 2 ^ 16) } })] }
      (dbgSlot n 0).isNone && does n (.dbgRead 0) (fun b => dbgDone b 0 == (3, 0)) && does n (.dbgHold 0) (fun b => dbgDone b 0 == (3, 0)) &&
      does (s 5 false) (.dbgRelease 0) (fun b => dbgDone b 0 == (3, 0))) = true := by decide +kernel
theorem witness_Trips : (let t := { State.reset with parts := [(0, { tripped := [0], thermalHold := true })] }
    does t (.thermalTrip 0 1) (fun b => !(b.part 0).thermalHold && (b.part 0).tripped == []) && does State.reset (.thermalTrip 0 110) (fun b => (b.part 0).tripped == [0] && (b.part 0).thermalHold) &&
      let c := { State.reset with dies := [(0, { plat := { thH := 2, thBelow := some 0 } })] }
      thReleased (c.die 0).plat.thrcfg.toNat 2 1 && does { c with now := 4000000 } (.thermalStepFall 0 1) (fun b => (b.die 0).plat.thH == 1) && does c (.thermalStepFall 0 1) (fun b => (b.die 0).plat.thH == 2)) = true := by decide +kernel
theorem witness_Loads : (let s := { on (th []) with ldstat := 1 }
    does s (.loadRequest 0 0 false) (fun b => b.ldstat == 1 && b.agenda == []) &&
      let r := { State.reset with parts := [(0, { resetStep := 3 })] }
      r.holdsHost 1 && does r (.loadRequest 1 0 false) (fun b => b.agenda == [.loadRequest 1 0 false]) &&
      let m := { State.reset with mem := memWriteN (memWriteN [] (aHost 64) 0x40 8) (aHost 72) 5 8 }
      (loadReq m 0).isSome && (hdmPlace m 0 64).isSome && does m (.hostMemRequest 0 false 64 []) (fun b => b.outbox.length == 1 && b.mem == m.mem)) = true := by decide +kernel
theorem witness_PacketAnswers : (let s := fun (a : Option Int) => inFlightOf { packet 5 [0, 0, 1, 0] with answer := a }
    let e := Event.queueInvoke 0 3
    does (s (some 0)) e (fun b => b.agenda == [.packetComplete 0 3]) && does (s (some (-1))) e (fun b => b.agenda == [.invokeRetry 0 3] && (packetOf b 0 3).map (fun y => y.answer) == some none) && does (s (some (-3))) e (fun b => b.rd (aHost 0x2028) 1 == 7 * 16 + 2) &&
      let x := packet 7 [0, 0]
      let h := { State.reset with parts := [(0, { resetStep := 3 }), (1, { packets := [(3, x)] })] }
      heldAt h 1 x.qcb && does h (.nop 1 3) (fun b => b.agenda == [.nop 1 3]) && does h (.packetComplete 1 3) (fun b => b.agenda == [.packetComplete 1 3]) &&
      let x := packet 4 [0, 99, 2 ^ 63 + 0x4000, 0x7FF]
      let h := { State.reset with parts := [(0, { resetStep := 3 }), (1, { packets := [(3, { x with qcb := aDev 0x2000 })] })] }
      pkHeld h 1 { x with qcb := aDev 0x2000 } && !heldAt h 1 (aDev 0x2000) && does h (.signal 1 3) (fun b => b.agenda == [.signal 1 3] && b.mem == [])) = true := by decide +kernel
theorem witness_LaunchAgain : (let x := packet 1 [0, 0, 0x10000, 0x100, 0, 1, 0, 0]
      let s := { State.reset with parts := [(0, { thermalHold := true, packets := [(3, x)] })] }
      (submit s (pkRecord x) (queueDie s 0 x.queue) (some (0, x.queue, 3))).1 == -1 && does s (.launch 0 3) (fun b => b.agenda == [.launchRetry 0 3]) && does s (.launchRetry 0 3) (fun b => b.agenda == [.launchRetry 0 3])) = true := by decide +kernel

/-! ### Witnesses: words and steps -/

/-- The first word of a program, about to be fetched. -/
def about (w : Nat) : State := State.reset.withFetchWord 32 w
/-- The fetch of the selected thread gives the word. -/
def fetches (w : Nat) : Bool := match (about w).getTh a0 with | some t => (match fetch (fetching (about w)) a0 t with | .word v => v.toNat == w | _ => false) | none => false
/-- A step gives a next state with a property of its thread. -/
def stepTh (w : Nat) (p : Thread → Bool) : Bool := gives (step (about w)) (fun b => match b.getTh a0 with | some t => p t | none => false)
theorem witness_SystemWords : (about 0x73).selected = some a0 ∧ fetches 0x73 = true ∧ fetches 0x00100073 = true ∧ rdy { fetching (about 0x73) with cur := some a0 } .ecall {} = true ∧
    rdy { fetching (about 0x00100073) with cur := some a0 } .ebreak {} = true ∧ fetches 0x00004073 = true ∧ fetches 0x30200073 = true := by decide +kernel
theorem witness_LengthChecks : fetches 0 = true ∧ fetches 0xFFFFFFFF = true ∧ (0xFFFFFFFF#32).extractLsb' 2 3 = 7 := by decide +kernel
theorem witness_FenceWords : fetches 0x0FF0000F = true ∧ rdy { fetching (about 0x0FF0000F) with cur := some a0 } (.fence 0 15 15) {} = true ∧ fetches 0x8330000F = true ∧ fetches 0x1000000F = true := by decide +kernel
theorem witness_StepRunsDecoded : (about 0x00500093).selected = some a0 ∧ fetches 0x00500093 = true ∧ stepTh 0x00500093 (fun t => (t.ent 1).val == 5 && t.pc == 4) = true ∧
    stepTh 0 (fun t => t.stopped) = true ∧ (match fetch (on { th [] with pc := 256 }) a0 { th [] with pc := 256 } with | .trap c v _ => c == .overlay && v == 256 | _ => false) = true := by decide +kernel
theorem witness_EventRows : { State.reset with ev := some (.flr 31) }.ev = some (.flr 31) ∧ (Event.flr 31).wf = true ∧ (Event.flr 32).wf = false ∧
    (match exec (Event.flr 32).row { State.reset with ev := some (.flr 32) } with | .fault .noSuchUnit => true | _ => false) = true := by decide +kernel
theorem witness_DecodeEncode : (Instr.mma 1 7 3 9 1 1 0 1).wf = true ∧ encode (.mma 1 7 3 9 1 1 0 1) = some 0x873988AB := by decide +kernel
theorem witness_EncodeDecode : reads 0x0832D05B (.fenceS 3 5) = true := by decide +kernel
theorem witness_StepKeepsMemory : memWf (about 0x73).mem = true ∧ gives (step (about 0x73)) (fun b => memWf b.mem) = true := by decide +kernel
theorem test_table_word : decodeTableWord 32 0x00000013 = some (.addi 0 0 0) := by decide

/-! ### What a program brings (02 R32-R48) -/

theorem test_li_wide : (Pseudo.li 5 0x12345FFF).expand = some [.lui 5 0x12346, .addiw 5 5 0xFFF] ∧ (Pseudo.li 5 2147483648).expand = none ∧
    (Pseudo.nop.expand.map (fun l => l.map (fun i => encode i))) = some [some 0x00000013] := by decide +kernel
theorem test_data_float : dataFloat 1 (.ratio 1 1) = some [0, 0, 0x80, 0x3F] ∧ dataFloat 4 (.inf false) = none ∧ dataInt 1 256 = none ∧ dataInt 1 (-1) = some [0xFF] := by decide +kernel
/-- A source of one word, one bank and one launch record in its data. -/
def tiny : Source :=
  { text := [.words [0x00000013]], items := [.launch { entry := 0, cores := 1, window := 32 }], banks := [(3, 2)] }
/-- A load request for it. -/
def tinyReq : LoadReq := { image := 0, length := tiny.image.length, owner := 0, part := 0, origin := 0, cores := 1, hnd := false }
theorem test_image_loads : (imageHdr { State.reset with mem := memWriteL [] (aHost 0) tiny.image } tinyReq).map (fun h => (h.exb, h.bfmt, h.bmask, h.nlch, h.llen)) =
    some (1, 0x2000, 8, 1, 352) := by decide +kernel
theorem test_launch_image_sound : (let r : LRec := { dw := launchImage { entry := 0, cores := 1, window := 32 }, segs := [], owner := 0 }
    !r.malformed && r.cores == 1 && r.slots == 1 && r.lcount == 1) = true := by decide +kernel

end Sys2Proof.Tests
end

section
/-!
The rows of events (01 R6, R14): every row reads its own event back from the state and closes with evDo, which alone decides
between a next state and noSuchUnit.
-/
namespace Sys2Proof.Laws
open Sys2Proof.Machine

theorem evDo_of_wf {e : Event} (h : e.wf = true) (t : State) : evDo e t = .next { t with ev := none } := if_pos h

theorem evDo_of_not_wf {e : Event} (h : e.wf = false) (t : State) : evDo e t = .fault .noSuchUnit := if_neg (by simp [h])

/-- Each event finds itself in its own row's match, and the row's effect on the state is the witness.  One row serves two
events: a host's register read runs REGISTER_WRITE's row, in a branch of its own. -/
theorem exec_row_of_drawn (s : State) (e : Event) : ∃ t, exec e.row { s with ev := some e } = evDo e t := by
  cases e with
  | registerRead fn off => exact ⟨hostRegRead { s with ev := some (.registerRead fn off) } fn off, rfl⟩
  | _ => exact ⟨_, rfl⟩

theorem exec_row_of_ev {s : State} {e : Event} (h : s.ev = some e) : ∃ t, exec e.row s = evDo e t := by
  have hs : { s with ev := some e } = s := by rw [← h]
  simpa only [hs] using exec_row_of_drawn s e

/-- Settles O55: a row that runs on its own event ends in evDo, and evDo follows the event's well-formedness. -/
theorem eventRows : Obligations.EventRows := by
  intro s e hev
  obtain ⟨t, ht⟩ := exec_row_of_ev hev
  exact ⟨fun hwf => ⟨t, ht.trans (evDo_of_wf hwf t)⟩, fun hwf => ht.trans (evDo_of_not_wf hwf t)⟩

end Sys2Proof.Laws
end

section
/-!
The step and the fetch (03 R53-R55, R75): what the step of a selected agent makes of each thing its fetch can give, and which
words a core's fetch can give.
-/
namespace Sys2Proof.Laws
open Sys2Proof.Machine Sys2Proof.Claims

theorem getTh_fetching (s : State) (a : Agent) : (fetching s).getTh a = s.getTh a := by cases a <;> rfl

section
variable {s : State} {a : Agent} {t : Thread} (hsel : s.selected = some a) (hth : s.getTh a = some t)
include hsel hth

theorem step_of_decoded {w : BitVec 32} {i : Instr} (hf : fetch (fetching s) a t = .word w) (hd : decodeWord w = .ok i) :
    step s = exec i { fetching s with cur := some a } := by
  have hn : nextInstr (fetching s) a = .ok i := by simp only [nextInstr, getTh_fetching, hth, hf, hd]
  rw [step_selected hsel]
  change stepIssue (fetching s) a = _
  simp only [stepIssue, hn]

theorem step_of_rejected {w : BitVec 32} {e : Reject} (hf : fetch (fetching s) a t = .word w) (hd : decodeWord w = .error e) :
    step s = .next ((fetching s).takeTrap a .illegal false (w.setWidth 64) 0) := by
  have hn : nextInstr (fetching s) a = .error ((fetching s).takeTrap a .illegal false (w.setWidth 64) 0) := by
    simp only [nextInstr, getTh_fetching, hth, hf, hd]
  rw [step_selected hsel]
  change stepIssue (fetching s) a = _
  simp only [stepIssue, hn]

theorem step_of_fetch_trap {c : Cause} {v x : Word} (hf : fetch (fetching s) a t = .trap c v x) :
    step s = .next ((fetching s).takeTrap a c false v x) := by
  have hn : nextInstr (fetching s) a = .error ((fetching s).takeTrap a c false v x) := by
    simp only [nextInstr, getTh_fetching, hth, hf]
  rw [step_selected hsel]
  change stepIssue (fetching s) a = _
  simp only [stepIssue, hn]

end

/-! ### The fetch of a core's thread -/

theorem fetch_overlay {s : State} {slot : Nat} {t : Thread} (h : (s.core (coreOf slot)).exb * 256 ≤ t.pc.toNat) :
    fetch s (.thread slot) t = .trap .overlay t.pc (overlayInfo t (s.core (coreOf slot)).exb s.tick) := by
  simp only [fetch, ge_iff_le, h, if_true]

theorem fetch_of_sound {s : State} {slot : Nat} {t : Thread} (h : t.pc.toNat < (s.core (coreOf slot)).exb * 256)
    (hc : (codeWord s (coreOf slot) t t.pc.toNat).2 = none) :
    fetch s (.thread slot) t = .word (codeWord s (coreOf slot) t t.pc.toNat).1 := by
  unfold fetch
  simp only [ge_iff_le, Nat.not_le.mpr h, if_false]
  split
  · next hw => rw [hw] at hc; cases hc
  · next hw => rw [hw]

theorem fetch_of_error {s : State} {slot : Nat} {t : Thread} {c : Cause} (h : t.pc.toNat < (s.core (coreOf slot)).exb * 256)
    (hc : (codeWord s (coreOf slot) t t.pc.toNat).2 = some c) : fetch s (.thread slot) t = .trap c t.pc 0 := by
  unfold fetch
  simp only [ge_iff_le, Nat.not_le.mpr h, if_false]
  split
  · next hw => rw [hw] at hc; cases hc; rfl
  · next hw => rw [hw] at hc; cases hc

/-- Below the boundary a fetch that gives a word has read it without an error. -/
theorem codeWord_of_fetch {s : State} {slot : Nat} {t : Thread} {w : BitVec 32} (h : t.pc.toNat < (s.core (coreOf slot)).exb * 256)
    (hf : fetch s (.thread slot) t = .word w) : codeWord s (coreOf slot) t t.pc.toNat = (w, none) := by
  cases hc : (codeWord s (coreOf slot) t t.pc.toNat).2 with
  | none => rw [fetch_of_sound h hc] at hf; cases hf; exact Prod.ext rfl hc
  | some c => rw [fetch_of_error h hc] at hf; cases hf

/-- With no change of the word since the thread's last fence.i, the fetch reads what stands in local store. -/
theorem codeWord_unchanged {s : State} {c off : Nat} {t : Thread}
    (h : ∀ e ∈ (s.core c).codeLog, e.1 = off → e.2.2 < t.fenceI) : codeWord s c t off = codeNow s c off := by
  have hn : (s.core c).codeLog.filter (fun x => x.1 == off && t.fenceI ≤ x.2.2) = [] := by
    rw [List.filter_eq_nil_iff]
    intro e he
    have := h e he
    simp only [Bool.and_eq_true, beq_iff_eq, decide_eq_true_eq, not_and, Nat.not_le]
    exact this
  simp only [codeWord, hn, List.map_nil]

theorem getD_cons_mem {α : Type} (x : α) (l : List α) (k : Nat) : (x :: l).getD k x = x ∨ (x :: l).getD k x ∈ l := by
  cases k with
  | zero => exact Or.inl rfl
  | succ k =>
    by_cases hk : k < l.length
    · exact Or.inr (by simp [List.getD, hk])
    · exact Or.inl (by simp [List.getD, Nat.not_lt.mp hk])

/-- A fetch reads what stands in local store, or what stood there before a change since the thread's last fence.i. -/
theorem codeWord_now_or_old (s : State) (c off : Nat) (t : Thread) :
    codeWord s c t off = codeNow s c off ∨
    ∃ e ∈ (s.core c).codeLog, e.1 = off ∧ t.fenceI ≤ e.2.2 ∧ e.2.1 = codeWord s c t off := by
  unfold codeWord
  dsimp only
  split
  · exact Or.inl rfl
  · refine (getD_cons_mem (codeNow s c off) _ _).imp_right fun hm => ?_
    obtain ⟨e, he, heq⟩ := List.mem_map.mp hm
    obtain ⟨hlog, hkeep⟩ := List.mem_filter.mp he
    simp only [Bool.and_eq_true, beq_iff_eq, decide_eq_true_eq] at hkeep
    exact ⟨e, hlog, hkeep.1, hkeep.2, heq⟩

theorem codeError_none {s : State} {c off : Nat} :
    codeError s c off = none ↔ s.uncorr (aLocal c off) 4 = false ∧ s.poisoned (aLocal c off) 4 = false := by
  unfold codeError
  cases s.uncorr (aLocal c off) 4 <;> cases s.poisoned (aLocal c off) 4 <;> simp

/-- What a fetch below the boundary gives while the word has not changed since the thread's last fence.i (03 R54, R55). -/
theorem fetch_unchanged {s : State} {slot : Nat} {t : Thread} (h : t.pc.toNat < (s.core (coreOf slot)).exb * 256)
    (hlog : ∀ e ∈ (s.core (coreOf slot)).codeLog, e.1 = t.pc.toNat → e.2.2 < t.fenceI) :
    let at_ := aLocal (coreOf slot) t.pc.toNat
    (s.uncorr at_ 4 = true → fetch s (.thread slot) t = .trap .eccUncorr t.pc 0) ∧
    (s.uncorr at_ 4 = false → s.poisoned at_ 4 = true → fetch s (.thread slot) t = .trap .poison t.pc 0) ∧
    (s.uncorr at_ 4 = false → s.poisoned at_ 4 = false → fetch s (.thread slot) t = .word (BitVec.ofNat 32 (s.rd at_ 4))) := by
  have hc := codeWord_unchanged hlog
  have herr : (codeWord s (coreOf slot) t t.pc.toNat).2 = codeError s (coreOf slot) t.pc.toNat := congrArg Prod.snd hc
  refine ⟨fun hu => fetch_of_error h ?_, fun hu hp => fetch_of_error h ?_, fun hu hp => ?_⟩
  · rw [herr, codeError, if_pos hu]
  · rw [herr, codeError, hu, if_neg Bool.false_ne_true, if_pos hp]
  · rw [fetch_of_sound h (herr.trans (codeError_none.mpr ⟨hu, hp⟩)), hc]
    rfl

/-- A word that a fetch below the boundary gives stands in local store without an error, or stood there without one before a
change since the thread's last fence.i (03 R55). -/
theorem word_of_fetch {s : State} {slot : Nat} {t : Thread} {w : BitVec 32} (h : t.pc.toNat < (s.core (coreOf slot)).exb * 256)
    (hf : fetch s (.thread slot) t = .word w) :
    let at_ := aLocal (coreOf slot) t.pc.toNat
    (w = BitVec.ofNat 32 (s.rd at_ 4) ∧ s.uncorr at_ 4 = false ∧ s.poisoned at_ 4 = false) ∨
    ∃ e ∈ (s.core (coreOf slot)).codeLog, e.1 = t.pc.toNat ∧ t.fenceI ≤ e.2.2 ∧ e.2.1 = (w, none) := by
  have hc := codeWord_of_fetch h hf
  refine (codeWord_now_or_old s (coreOf slot) t.pc.toNat t).imp (fun hnow => ?_) (fun hold => hc ▸ hold)
  rw [hc] at hnow
  obtain ⟨hw, he⟩ := Prod.mk.inj hnow
  exact ⟨hw, codeError_none.mp he.symm⟩

/-- Settles O54: the step of a selected agent by what its fetch gives, the fetch by what stands in local store and in the log
of changed words, and the step with no agent selected by the event drawn. -/
theorem stepRunsDecoded : Obligations.StepRunsDecoded := by
  intro s
  refine ⟨fun a t hsel hth => ⟨fun _ _ => step_of_decoded hsel hth, fun _ _ => step_of_rejected hsel hth,
    fun _ _ _ => step_of_fetch_trap hsel hth, ?_⟩, ?_⟩
  · rintro slot rfl
    exact ⟨fun h => ⟨_, fetch_overlay (s := fetching s) h⟩,
      fun h => ⟨fetch_unchanged (s := fetching s) h, fun _ => word_of_fetch (s := fetching s) h⟩⟩
  · intro hsel e rest hdraw
    rw [step_event hsel, hdraw]
    rfl

end Sys2Proof.Laws
end

section
/-!
The CSRs that a thread's record holds (03 R78, 14 R341, R342): a read gives the field, and a write changes its writable bits alone.
-/
namespace Sys2Proof.Laws
open Sys2Proof.Machine Sys2Proof.Claims

/-- tprog keeps 16 bits of what is written (14 R342). -/
theorem setWidth16_setWidth64 (v : Word) : (v.setWidth 16).setWidth 64 = v &&& 0xFFFF := by
  apply BitVec.eq_of_toNat_eq
  simp only [BitVec.toNat_setWidth, BitVec.toNat_and]
  exact (Nat.mod_eq_of_lt (by omega)).trans (Nat.and_two_pow_sub_one_eq_mod v.toNat 16).symm

theorem csrRead_held (s : State) (a : Agent) (t : Thread) : ∀ p ∈ csrHeld, csrRead s a t p.1 = p.2.1 t := by
  simp only [csrHeld, List.forall_mem_cons]
  exact ⟨rfl, rfl, rfl, rfl, rfl, rfl, rfl, rfl, rfl, rfl, List.forall_mem_nil _⟩

/-- A write to a CSR of the table replaces the thread's record by one in which that CSR alone of the table has changed, to the
writable bits of the value. -/
theorem csrWrite_held (s : State) (a : Agent) (t : Thread) (v : Word) {p : Nat × (Thread → Word) × Word} (hp : p ∈ csrHeld) :
    ∃ u, csrWrite s a t p.1 v = s.setTh a u ∧ p.2.1 u = v &&& p.2.2 ∧ ∀ q ∈ csrHeld, q.1 ≠ p.1 → q.2.1 u = q.2.1 t := by
  simp only [csrHeld, List.mem_cons, List.not_mem_nil, or_false] at hp
  rcases hp with rfl | rfl | rfl | rfl | rfl | rfl | rfl | rfl | rfl | rfl <;>
    refine ⟨_, rfl, ?_, by simp [csrHeld, Thread.wrote]⟩ <;>
    simp only [Thread.wrote, tcauseBits, setWidth16_setWidth64, BitVec.and_allOnes]

/-- Settles O4: the write of a CSR of the table replaces the thread's record, and reads of the table go by that record. -/
theorem csrKeepsFields : Obligations.CsrKeepsFields := by
  intro s a t n get mask v hmem hth
  obtain ⟨u, hwrite, hmask, hothers⟩ := csrWrite_held s a t v hmem
  exact ⟨csrRead_held s a t _ hmem, u, by rw [hwrite, getTh_setTh hth], hmask, fun k get' mask' hk => hothers (k, get', mask') hk⟩

end Sys2Proof.Laws
end

section
/-!
The checks before an instruction's own (03 R75 steps 6 and 7): each instruction of the classes of O12 runs behind the shared issue,
and the shared issue stops at the first check that finds something.
-/
namespace Sys2Proof.Laws
open Sys2Proof.Machine Sys2Proof.Claims

/-! ### Which instructions run behind the shared issue -/

/-- The instruction runs behind the shared issue with these fields. -/
def RunsWith (i : Instr) (f : Fields) : Prop := ∃ body : Env → Res, ∀ s, exec i s = runIns s i f body

theorem runsWith_intOp {i : Instr} {f : Fields} (h : (intOp i).map Prod.fst = some f) : RunsWith i f := by
  unfold intOp at h
  split at h <;> cases h <;> exact ⟨_, fun _ => rfl⟩

theorem runsWith_jumpOp {i : Instr} {f : Fields} (h : (jumpOp i).map Prod.fst = some f) : RunsWith i f := by
  unfold jumpOp at h
  split at h <;> cases h <;> exact ⟨_, fun _ => rfl⟩

theorem runsWith_loadOp {i : Instr} {f : Fields} (h : (loadOp i).map Prod.fst = some f) : RunsWith i f := by
  unfold loadOp at h
  split at h <;> cases h <;> exact ⟨_, fun _ => rfl⟩

theorem runsWith_storeOp {i : Instr} {f : Fields} (h : (storeOp i).map Prod.fst = some f) : RunsWith i f := by
  unfold storeOp at h
  split at h <;> cases h <;> exact ⟨_, fun _ => rfl⟩

theorem runsWith_atomOp {i : Instr} {f : Fields} (h : (atomOp i).map Prod.fst = some f) : RunsWith i f := by
  unfold atomOp at h
  split at h <;> cases h <;> exact ⟨_, fun _ => rfl⟩

theorem runsWith_feOp {i : Instr} {f : Fields} (h : (feOp i).map Prod.fst = some f) : RunsWith i f := by
  unfold feOp at h
  split at h <;> cases h <;> exact ⟨_, fun _ => rfl⟩

theorem runsWith_copyFields {i : Instr} {f : Fields} (h : copyFields i = some f) : RunsWith i f := by
  unfold copyFields at h
  split at h <;> cases h <;> exact ⟨_, fun _ => rfl⟩

theorem runsWith_codecOp {i : Instr} {f : Fields} (h : (codecOp i).map Prod.fst = some f) : RunsWith i f := by
  unfold codecOp at h
  split at h <;> cases h <;> exact ⟨_, fun _ => rfl⟩

/-- The item that a form of csrrw reads: the CSR, unless rd is x0 (03 R77). -/
theorem csrItems_eq (d : BitVec 5) (n : Nat) :
    (if (d != 0) = true then [0x1000 + n] else []) = if d = 0 then [] else [0x1000 + n] := by
  by_cases h : d = 0 <;> simp [h]

theorem runsWith_csrOp {i : Instr} {f : Fields} (h : (csrOp i).map Prod.fst = some f) : RunsWith i f := by
  unfold csrOp at h
  split at h <;> cases h
  case h_1 d x n => exact ⟨_, fun s => by rw [← csrItems_eq]; rfl⟩
  case h_4 d n u => exact ⟨_, fun s => by rw [← csrItems_eq]; rfl⟩
  all_goals exact ⟨_, fun _ => rfl⟩

/-- Every strip-running word but tfill runs as one that names tiles alone. -/
theorem exec_eq_runTile {i : Instr} {w : TileWord} (h : tileWord i = some w) (hfill : ∀ d x, i ≠ .tfill d x) (s : State) :
    exec i s = runTile s i := by
  unfold tileWord at h
  split at h
  case h_1 d x => exact absurd rfl (hfill d x)
  all_goals cases h <;> rfl

theorem runTile_of_tiles {i : Instr} (hsr : ∀ d g x, i ≠ .tcvtSr d g x) (s : State) :
    runTile s i = runIns s i { tiles := wordTiles i, items := (wordTiles i).map (fun p => 0x100 + p.2.toNat) } (tileBody (fun _ => 0)) := by
  unfold runTile
  split
  · next d g x => exact absurd rfl (hsr d g x)
  · dsimp only; rw [List.append_nil]

theorem runsWith_queueFields {i : Instr} {f : Fields} (h : queueFields i = some f) : RunsWith i f := by
  unfold queueFields at h
  split at h
  case h_8 hfill _ _ _ _ _ hsr =>
    obtain ⟨w, hw, rfl⟩ := Option.map_eq_some_iff.mp h
    exact ⟨_, fun s => (exec_eq_runTile hw hfill s).trans (runTile_of_tiles hsr s)⟩
  all_goals cases h; exact ⟨_, fun _ => rfl⟩

theorem runsWith_issueFields {i : Instr} {f : Fields} (h : issueFields i = some f) : RunsWith i f := by
  simp only [issueFields, Option.or_eq_some_iff] at h
  rcases h with h | ⟨-, h | ⟨-, h | ⟨-, h | ⟨-, h | ⟨-, h | ⟨-, h | ⟨-, h | ⟨-, h | ⟨-, h⟩⟩⟩⟩⟩⟩⟩⟩⟩
  · exact runsWith_intOp h
  · exact runsWith_jumpOp h
  · exact runsWith_csrOp h
  · exact runsWith_loadOp h
  · exact runsWith_storeOp h
  · exact runsWith_atomOp h
  · exact runsWith_feOp h
  · exact runsWith_queueFields h
  · exact runsWith_copyFields h
  · exact runsWith_codecOp h

/-! ### Where the shared issue stops -/

/-- Steps 4 and 5 of 03 R75 let the word on: the unit runs it, an open rpt block may capture it, its CSR is in the map, and the
mode may run it. -/
structure Admitted (a : Agent) (t : Thread) (i : Instr) (f : Fields) : Prop where
  unit : unitRuns a i.word = true
  block : t.seqr.takes t.pc = true → capturable i.word = true
  csr : csrUnknown a f = false
  mode : needsK f = true → t.mode = .k

theorem Admitted.captures {a : Agent} {t : Thread} {i : Instr} {f : Fields} (h : Admitted a t i f) :
    (t.seqr.takes t.pc && !capturable i.word) = false := by
  cases hx : t.seqr.takes t.pc
  · rfl
  · rw [h.block hx]; rfl

theorem Admitted.privileged {a : Agent} {t : Thread} {i : Instr} {f : Fields} (h : Admitted a t i f) :
    (needsK f && t.mode == .u) = false := by
  cases hx : needsK f
  · rfl
  · rw [h.mode hx]; rfl

section
variable {s : State} {a : Agent} {t : Thread} {i : Instr} {f : Fields} {body : Env → Res} (h : Admitted a t i f)
include h

theorem issue_of_rangeBad {fd r : Nat} (hr : rangeBad t f = some (fd, r)) :
    issue s a t i f body = trapSync s a .regRange (wordVal i) (infoReg r fd) := by
  simp only [issue, h.unit, h.captures, h.csr, h.privileged, hr, Bool.not_true, Bool.false_eq_true, if_false]

variable (hr : rangeBad t f = none)
include hr

theorem issue_of_tileBad {fd : Nat} (ht : tileBad t f = some fd) :
    issue s a t i f body = trapSync s a .tileName (wordVal i) (info253 0 fd) := by
  simp only [issue, h.unit, h.captures, h.csr, h.privileged, hr, ht, Bool.not_true, Bool.false_eq_true, if_false]

variable (ht : tileBad t f = none)
include ht

theorem issue_of_released {r fd : Nat} (hc : regCheck t f = .released r fd) :
    issue s a t i f body = trapSync s a .regReleased (wordVal i) (infoReg r fd) := by
  simp only [issue, h.unit, h.captures, h.csr, h.privileged, hr, ht, hc, Bool.not_true, Bool.false_eq_true, if_false]

theorem issue_of_ecc {n : Nat} (hc : regCheck t f = .ecc n) :
    issue s a t i f body = trapSync s a .eccUncorr (BitVec.ofNat 64 n) (info142 18 14 false 0) := by
  simp only [issue, h.unit, h.captures, h.csr, h.privileged, hr, ht, hc, Bool.not_true, Bool.false_eq_true, if_false]

theorem issue_of_marked {r : Nat} {m : Mark} (hc : regCheck t f = .marked r m) :
    issue s a t i f body = trapSync (s.setTh a (t.setEnt r { st := .released })) a m.cause m.tval m.tinfo := by
  simp only [issue, h.unit, h.captures, h.csr, h.privileged, hr, ht, hc, Bool.not_true, Bool.false_eq_true, if_false]

theorem issue_of_pending {r : Nat} (hc : regCheck t f = .pending r) :
    issue s a t i f body = s.parkOn a (.reg r) t.prog := by
  simp only [issue, h.unit, h.captures, h.csr, h.privileged, hr, ht, hc, Bool.not_true, Bool.false_eq_true, if_false]

end

/-! ### What each check finds first -/

theorem find?_append_cons {α : Type} {l m : List α} {x : α} {q : α → Bool} (hl : ∀ y ∈ l, q y = false) (hx : q x = true) :
    (l ++ x :: m).find? q = some x := by
  rw [List.find?_append, find_none_of hl, List.find?_cons_of_pos hx]; rfl

theorem filter_append_cons {α : Type} {l m : List α} {x : α} {q : α → Bool} (hl : ∀ y ∈ l, q y = false) (hx : q x = true) :
    (l ++ x :: m).filter q = x :: m.filter q := by
  rw [List.filter_append, List.filter_eq_nil_iff.mpr fun y hy => by simp [hl y hy], List.filter_cons_of_pos hx, List.nil_append]

theorem rangeBad_first {t : Thread} {f : Fields} {l m : List (Nat × Nat)} {fd r : Nat} (hf : f.all = l ++ (fd, r) :: m)
    (hl : ∀ p ∈ l, p.2 < t.win) (hr : t.win ≤ r) : rangeBad t f = some (fd, r) := by
  rw [rangeBad, hf]
  exact find?_append_cons (fun p hp => by simpa using hl p hp) (by simpa using hr)

theorem rangeBad_none {t : Thread} {f : Fields} (h : ∀ p ∈ f.all, p.2 < t.win) : rangeBad t f = none :=
  find_none_of fun p hp => by simpa using h p hp

theorem tileBad_first {t : Thread} {f : Fields} {l m : List (Nat × BitVec 4)} {fd : Nat} {n : BitVec 4}
    (hf : f.tiles = l ++ (fd, n) :: m) (hl : ∀ p ∈ l, p.2.toNat < t.tlim) (hn : t.tlim ≤ n.toNat) : tileBad t f = some fd := by
  rw [tileBad, hf, find?_append_cons (fun p hp => by simpa using hl p hp) (by simpa using hn)]
  rfl

theorem tileBad_none {t : Thread} {f : Fields} (h : ∀ p ∈ f.tiles, p.2.toNat < t.tlim) : tileBad t f = none := by
  rw [tileBad, find_none_of fun p hp => by simpa using h p hp]
  rfl

theorem regCheck_of_released {t : Thread} {f : Fields} {fd r : Nat}
    (h : (entrySrcs t f).find? (fun p => (t.ent p.2).st == .released) = some (fd, r)) : regCheck t f = .released r fd := by
  simp only [regCheck, h]

/-- The entries and then the other items that an instruction reads with an uncorrectable error, in field order (18 R446). -/
def eccRead (t : Thread) (f : Fields) : List Nat :=
  ((entrySrcs t f).filter (fun p => (t.ent p.2).ecc && (t.ent p.2).st == .present)).map Prod.snd ++
    (itemsRead t f).filter (fun n => t.ecc.contains n)

section
variable {t : Thread} {f : Fields} (hlive : ∀ p ∈ entrySrcs t f, (t.ent p.2).st ≠ .released)
include hlive

theorem no_released : (entrySrcs t f).find? (fun p => (t.ent p.2).st == .released) = none :=
  find_none_of fun p hp => by simpa using hlive p hp

theorem regCheck_of_eccRead {n : Nat} {l : List Nat} (h : eccRead t f = n :: l) : regCheck t f = .ecc n := by
  rw [eccRead] at h
  simp only [regCheck, no_released hlive, h]

variable (hsound : eccRead t f = [])
include hsound

theorem regCheck_of_marked {fd r : Nat} {k : Mark} (h : (entryNames t f).find? (fun p => (t.ent p.2).st == .pending) = some (fd, r))
    (hk : (t.ent r).mark = some k) : regCheck t f = .marked r k := by
  rw [eccRead] at hsound
  simp only [regCheck, no_released hlive, hsound, h, hk]

theorem regCheck_of_pending {fd r : Nat} (h : (entryNames t f).find? (fun p => (t.ent p.2).st == .pending) = some (fd, r))
    (hk : (t.ent r).mark = none) : regCheck t f = .pending r := by
  rw [eccRead] at hsound
  simp only [regCheck, no_released hlive, hsound, h, hk]

end

theorem eccTest_iff (t : Thread) (r : Nat) :
    ((t.ent r).ecc && (t.ent r).st == .present) = true ↔ (t.ent r).st = .present ∧ (t.ent r).ecc = true := by
  rw [Bool.and_eq_true, beq_iff_eq, and_comm]

theorem eccRead_of_entry {t : Thread} {f : Fields} {l m : List (Nat × Nat)} {fd r : Nat} (hs : entrySrcs t f = l ++ (fd, r) :: m)
    (hl : ∀ p ∈ l, ¬ ((t.ent p.2).st = .present ∧ (t.ent p.2).ecc = true)) (hr : (t.ent r).st = .present ∧ (t.ent r).ecc = true) :
    ∃ k, eccRead t f = r :: k := by
  rw [eccRead, hs, filter_append_cons (fun p hp => Bool.eq_false_iff.mpr ((not_congr (eccTest_iff t p.2)).mpr (hl p hp))) ((eccTest_iff t r).mpr hr)]
  exact ⟨_, rfl⟩

theorem eccRead_of_sound_entries {t : Thread} {f : Fields} (h : ∀ p ∈ entrySrcs t f, ¬ ((t.ent p.2).st = .present ∧ (t.ent p.2).ecc = true)) :
    eccRead t f = (itemsRead t f).filter (fun n => t.ecc.contains n) := by
  rw [eccRead, List.filter_eq_nil_iff.mpr fun p hp => (not_congr (eccTest_iff t p.2)).mpr (h p hp)]
  rfl

/-! ### The outcome -/

theorem runIns_issue {s : State} {a : Agent} {t : Thread} {i : Instr} {f : Fields} (body : Env → Res) (hcur : s.cur = some a)
    (hth : s.getTh a = some t) : runIns s i f body = .next { issue s a t i f body with cur := none } := by
  simp only [runIns, hcur, hth]

/-- Settles O12: every instruction of the classes runs behind the shared issue, which stops at the first check of 03 R75 that
finds something; the lists that the statement splits are those that the checks search. -/
theorem issueChecks : Obligations.IssueChecks := by
  intro s a t i f hi hcur hth hunit hblock hcsr hmode window names bad live sound
  obtain ⟨body, hrun⟩ := runsWith_issueFields hi
  have hadm : Admitted a t i f := ⟨hunit, hblock, hcsr, hmode⟩
  have hout : exec i s = .next { issue s a t i f body with cur := none } := (hrun s).trans (runIns_issue body hcur hth)
  rw [hout]
  refine ⟨fun l fd r m hf hl hr => ?_, fun l fd n m hw hf hl hn => ?_, fun l fd r m hn hf hl hr => ?_,
    fun l fd r m hlv hf hl hr => ?_, fun l n m hlv hsrc hf hl hn => ?_, fun l fd r m hs hf hl hr => ?_⟩
  · rw [issue_of_rangeBad hadm (rangeBad_first hf hl hr)]
    rfl
  · rw [issue_of_tileBad hadm (rangeBad_none hw) (tileBad_first hf hl hn)]
    rfl
  · obtain ⟨hwin, htile⟩ := hn
    have hfirst : (entrySrcs t f).find? (fun p => (t.ent p.2).st == .released) = some (fd, r) := by
      rw [hf]; exact find?_append_cons (fun p hp => by simpa using hl p hp) (by simpa using hr)
    rw [issue_of_released hadm (rangeBad_none hwin) (tileBad_none htile) (regCheck_of_released hfirst)]
    rfl
  · obtain ⟨⟨hwin, htile⟩, hsrcs⟩ := hlv
    obtain ⟨k, hk⟩ := eccRead_of_entry hf hl hr
    rw [issue_of_ecc hadm (rangeBad_none hwin) (tileBad_none htile) (regCheck_of_eccRead hsrcs hk)]
    rfl
  · obtain ⟨⟨hwin, htile⟩, hsrcs⟩ := hlv
    have hk : eccRead t f = n :: m.filter (fun k => t.ecc.contains k) := by
      rw [eccRead_of_sound_entries hsrc, hf, filter_append_cons hl hn]
    rw [issue_of_ecc hadm (rangeBad_none hwin) (tileBad_none htile) (regCheck_of_eccRead hsrcs hk)]
    rfl
  · obtain ⟨⟨⟨hwin, htile⟩, hsrcs⟩, hsrc, hitems⟩ := hs
    have hecc : eccRead t f = [] := by
      rw [eccRead_of_sound_entries hsrc, List.filter_eq_nil_iff]
      exact fun n hn => Bool.eq_false_iff.mp (hitems n hn)
    have hfirst : (entryNames t f).find? (fun p => (t.ent p.2).st == .pending) = some (fd, r) := by
      rw [hf]; exact find?_append_cons (fun p hp => by simpa using hl p hp) (by simpa using hr)
    refine ⟨fun hm => ?_, fun k hm => ?_⟩
    · rw [issue_of_pending hadm (rangeBad_none hwin) (tileBad_none htile) (regCheck_of_pending hsrcs hecc hfirst hm)]
      rfl
    · rw [issue_of_marked hadm (rangeBad_none hwin) (tileBad_none htile) (regCheck_of_marked hsrcs hecc hfirst hm)]
      rfl

end Sys2Proof.Laws
end

section
/-!
The standard fence on Sextant (03 R63, 19 R459): the unit runs the word, with the effect of fence.s.full.sys, and does not run
the word of fence.s itself, so that the two instructions end apart there.
-/
namespace Sys2Proof.Laws
open Sys2Proof.Machine Sys2Proof.Claims

/-- A hardware thread of Sextant at byte 16 of device memory. -/
def fencingThread : Thread := { pc := 16, mode := .k }

/-- Hardware thread 0 of die 0 is selected, and the word at its pc is `fence iorw, iorw` (07 R190). -/
def fencingState : State :=
  { State.reset with
    dies := [(0, { sx := [(0, { running := true, th := fencingThread })] })]
    mem := memWriteN [] (aDev 16) 0x0FF0000F 4
    selected := some (.sextant 0 0) }

/-- The machine on which that word runs. -/
def fencingIssue : State := { fetching fencingState with cur := some (.sextant 0 0) }

/-- The pc of hardware thread 0 of die 0 after an outcome. -/
def sextantPc : Outc → Option Word
  | .next b => (b.getTh (.sextant 0 0)).map Thread.pc
  | _ => none

theorem fetch_sextant {s : State} {d h p : Nat} {t : Thread} (hp : sxPlace d t.pc.toNat = some p) (hu : s.uncorr p 4 = false)
    (hs : s.poisoned p 4 = false) : fetch s (.sextant d h) t = .word (BitVec.ofNat 32 (s.rd p 4)) := by
  simp only [fetch, hp, hu, hs, Bool.false_eq_true, if_false]

theorem fencingState_fetch : fetch (fetching fencingState) (.sextant 0 0) fencingThread = .word 0x0FF0000F := by
  rw [fetch_sextant (p := aDev 16) (by decide) (by decide +kernel) (by decide +kernel)]
  exact congrArg Fetched.word (by decide +kernel)

theorem fence_opcode (fm : BitVec 1) (p q : BitVec 4) : fld (Instr.fence fm p q).word 0 7 = 0x0F := by
  rw [word_op rfl]
  simp only [at']
  omega

/-- Sextant runs the standard fence, whatever its fields (19 R459). -/
theorem sextant_runs_fence (d h : Nat) (fm : BitVec 1) (p q : BitVec 4) :
    unitRuns (.sextant d h) (Instr.fence fm p q).word = true := by
  simp [unitRuns, sextantRuns, fence_opcode]

theorem fencingIssue_ready (fm : BitVec 1) (p q : BitVec 4) :
    Ready fencingIssue (.sextant 0 0) fencingThread (.fence fm p q) {} where
  cur := rfl
  th := rfl
  unit := sextant_runs_fence 0 0 fm p q
  block h := absurd h (by decide)
  csr := rfl
  mode h := absurd h (by decide)
  window := by decide
  tiles := by decide
  live := by decide
  items := by decide
  settled := by decide
  words := by decide
  clean := by decide
  room h := absurd h (by decide)
  seq h := absurd h (by decide)

theorem fencingState_moves_on : sextantPc (step fencingState) = some 20 := by decide +kernel

/-- fence.s.full.sys traps ILLEGAL on Sextant, and without a handler the thread stops where it is (14 R346). -/
theorem fenceS_stops_on_sextant : sextantPc (exec (.fenceS 0b11 0b101) fencingIssue) = some 16 := by decide +kernel

/-- Refutes O51: its last part has a ready standard fence do what fence.s.full.sys does for every agent.  Sextant runs the
standard fence and no word of custom-2 (19 R459): on fencingState the step completes the fence, where fence.s.full.sys traps ILLEGAL. -/
theorem not_systemWords : ¬ Obligations.SystemWords := by
  rintro ⟨-, -, hfence⟩
  have hstep := hfence fencingState (.sextant 0 0) fencingThread 0x0FF0000F rfl rfl fencingState_fetch (by decide) (by decide)
  rw [if_pos (by decide)] at hstep
  obtain ⟨fm, p, q, -, hsame⟩ := hstep
  have hpc : some 20 = some (16 : Word) := calc
    some 20 = sextantPc (step fencingState) := fencingState_moves_on.symm
    _ = sextantPc (exec (.fenceS 0b11 0b101) fencingIssue) := congrArg sextantPc (hsame (fencingIssue_ready fm p q))
    _ = some 16 := fenceS_stops_on_sextant
  exact absurd hpc (by decide)

end Sys2Proof.Laws
end

section
/-!
Numbers (04 R79-R91): a code of a format is its sign and its magnitude, a value on the grid of a format rounds to its own code,
and the amounts of finite values over one power of two add and multiply as integers.
-/
namespace Sys2Proof.Laws
open Sys2Proof.Machine Sys2Proof.Claims

/-! ### Codes of a floating-point format (04 R79, R80) -/

/-- The width of a floating-point format is one sign bit, its exponent bits and its fraction bits (04 R79). -/
theorem fpOf_width {c : Nat} {f : Fp} (h : fpOf c = some f) : 0 < f.eb ∧ fmtBits c = f.eb + f.fb + 1 := by
  unfold fpOf at h
  split at h <;> cases h <;> exact ⟨by decide, rfl⟩

theorem enc_sign_magnitude (f : Fp) {code : Nat} (h : code < 2 ^ (f.eb + f.fb + 1)) :
    f.enc (bitAt code (f.eb + f.fb)) (code % 2 ^ (f.eb + f.fb)) = code := by
  have hsign : code / 2 ^ (f.eb + f.fb) < 2 := Nat.div_lt_of_lt_mul (by rwa [Nat.pow_succ] at h)
  have hone : ∀ k < 2, (k % 2 == 1).toNat = k := by decide
  have hbit : (bitAt code (f.eb + f.fb)).toNat = code / 2 ^ (f.eb + f.fb) := hone _ hsign
  rw [Fp.enc, hbit, Nat.div_add_mod']

theorem magnitude_exponent_fraction {f : Fp} (heb : 0 < f.eb) (code : Nat) :
    bits code (f.eb + f.fb - 1) f.fb * 2 ^ f.fb + code % 2 ^ f.fb = code % 2 ^ (f.eb + f.fb) := by
  have hw : f.eb + f.fb - 1 + 1 - f.fb = f.eb := by omega
  rw [bits, hw, Nat.add_comm f.eb, Nat.pow_add, Nat.mod_mul, Nat.mul_comm, Nat.add_comm]

/-- The values of a format that are no NaN: an infinity, a zero or subnormal number, a normal number (04 R80, R81). -/
theorem value_cases {f : Fp} {code : Nat} (hnan : (f.value code).isNan = false) :
    let neg := bitAt code (f.eb + f.fb)
    let mag := code % 2 ^ (f.eb + f.fb)
    let ex := bits code (f.eb + f.fb - 1) f.fb
    (f.inf = some mag ∧ f.value code = .inf neg) ∨
    (mag ≤ f.top ∧ ex = 0 ∧ f.value code = .fin neg (code % 2 ^ f.fb) (1 - (f.bias : Int) - f.fb)) ∨
    (mag ≤ f.top ∧ 0 < ex ∧ f.value code = .fin neg (2 ^ f.fb + code % 2 ^ f.fb) ((ex : Int) - f.bias - f.fb)) := by
  intro neg mag ex
  by_cases hinf : f.inf = some mag
  · have hnum : ¬ (mag > f.top ∧ f.inf ≠ some mag) := fun h => h.2 hinf
    exact .inl ⟨hinf, (if_neg hnum).trans (if_pos hinf)⟩
  · have htop : mag ≤ f.top := Nat.le_of_not_gt fun hgt => by
      have hv : f.value code = .nan (!f.quiet && !bitAt (code % 2 ^ f.fb) (f.fb - 1)) := if_pos ⟨hgt, hinf⟩
      rw [hv] at hnan
      cases hnan
    have hfin : ¬ (mag > f.top ∧ f.inf ≠ some mag) := fun h => absurd htop (Nat.not_le_of_gt h.1)
    have hval : f.value code = if ex = 0 then .fin neg (code % 2 ^ f.fb) (1 - (f.bias : Int) - f.fb)
        else .fin neg (2 ^ f.fb + code % 2 ^ f.fb) ((ex : Int) - f.bias - f.fb) :=
      (if_neg hfin).trans (if_neg hinf)
    by_cases hex : ex = 0
    · exact .inr (.inl ⟨htop, hex, hval.trans (if_pos hex)⟩)
    · exact .inr (.inr ⟨htop, Nat.pos_of_ne_zero hex, hval.trans (if_neg hex)⟩)

/-! ### Rounding on the grid (04 R87) -/

@[simp] theorem roundAt_self (rm : Rm) (neg : Bool) (m : Nat) (e : Int) : roundAt rm neg m e e = (m, false) := by
  simp only [roundAt, Int.le_refl, if_true, Int.sub_self, Int.toNat_zero, Nat.pow_zero, Nat.mul_one]

theorem magCode_subnormal (f : Fp) {m : Nat} (h : m < 2 ^ f.fb) (q : Int) : f.magCode m q = m := if_pos h

theorem log2_implicit_bit {b m : Nat} (h : m < 2 ^ b) : (2 ^ b + m).log2 = b :=
  have h0 : 2 ^ b + m ≠ 0 := by have := Nat.two_pow_pos b; omega
  (Nat.log2_eq_iff h0).2 ⟨Nat.le_add_right .., by rw [Nat.pow_succ]; omega⟩

theorem magCode_normal (f : Fp) {m : Nat} (h : m < 2 ^ f.fb) (q : Int) :
    f.magCode (2 ^ f.fb + m) q = (q + f.fb + f.bias).toNat * 2 ^ f.fb + m := by
  have hbig : ¬ 2 ^ f.fb + m < 2 ^ f.fb := by omega
  simp only [Fp.magCode, hbig, if_false, log2_implicit_bit h, Nat.sub_self, Nat.pow_zero, Nat.div_one, Nat.add_sub_cancel_left]

/-- A multiple of the spacing at its own size, no larger than the largest finite value, is its own rounding. -/
theorem roundFin_on_grid {f : Fp} {m : Nat} {e : Int} (hgrid : max (e + m.log2 - f.fb) (1 - (f.bias : Int) - f.fb) = e)
    (htop : f.magCode m e ≤ f.top) (rm : Rm) (neg : Bool) : f.roundFin rm neg m e = (f.enc neg (f.magCode m e), 0) := by
  simp only [Fp.roundFin, hgrid, roundAt_self, gt_iff_lt, Nat.not_lt.2 htop, if_false, Bool.and_false, fIf, Bool.false_eq_true]
  rfl

theorem roundFin_subnormal {f : Fp} {m : Nat} (h0 : m ≠ 0) (hm : m < 2 ^ f.fb) (htop : m ≤ f.top) (rm : Rm) (neg : Bool) :
    f.roundFin rm neg m (1 - (f.bias : Int) - f.fb) = (f.enc neg m, 0) := by
  have hlog : m.log2 < f.fb := (Nat.log2_lt h0).2 hm
  have hmag := magCode_subnormal f hm (1 - (f.bias : Int) - f.fb)
  rw [roundFin_on_grid (by omega) (hmag.symm ▸ htop), hmag]

theorem roundFin_normal {f : Fp} {m ex : Nat} (hex : 0 < ex) (hm : m < 2 ^ f.fb) (htop : ex * 2 ^ f.fb + m ≤ f.top) (rm : Rm)
    (neg : Bool) : f.roundFin rm neg (2 ^ f.fb + m) ((ex : Int) - f.bias - f.fb) = (f.enc neg (ex * 2 ^ f.fb + m), 0) := by
  have hlog := log2_implicit_bit hm
  have hmag : f.magCode (2 ^ f.fb + m) ((ex : Int) - f.bias - f.fb) = ex * 2 ^ f.fb + m := by
    rw [magCode_normal f hm]
    congr 2
    omega
  rw [roundFin_on_grid (by omega) (hmag.symm ▸ htop), hmag]

theorem round_value {f : Fp} (heb : 0 < f.eb) {code : Nat} (hcode : code < 2 ^ (f.eb + f.fb + 1))
    (hnan : (f.value code).isNan = false) (rm : Rm) : f.round rm (f.value code) = (code, 0) := by
  have henc := enc_sign_magnitude f hcode
  have hmag := magnitude_exponent_fraction heb code
  have hfr : code % 2 ^ f.fb < 2 ^ f.fb := Nat.mod_lt _ (Nat.two_pow_pos f.fb)
  obtain ⟨hinf, hv⟩ | ⟨htop, hex, hv⟩ | ⟨htop, hex, hv⟩ := value_cases hnan
  · simp only [hv, Fp.round, hinf, henc]
  · rw [hex, Nat.zero_mul, Nat.zero_add] at hmag
    rw [← hmag] at htop henc
    by_cases h0 : code % 2 ^ f.fb = 0
    · rw [h0] at henc
      simp only [hv, Fp.round, h0, if_true, henc]
    · simp only [hv, Fp.round, h0, if_false]
      rw [roundFin_subnormal h0 hfr htop, henc]
  · rw [← hmag] at htop henc
    have h0 : 2 ^ f.fb + code % 2 ^ f.fb ≠ 0 := by omega
    simp only [hv, Fp.round, h0, if_false]
    rw [roundFin_normal hex hfr htop, henc]

/-! ### Integers (04 R89) -/

/-- Two's complement and unsigned codes: the value lies in the range of the format and the code is its remainder (04 R79). -/
theorem intValue_of_code {c code : Nat} {lo hi : Int} (hr : intRange c = some (lo, hi)) (hcode : code < 2 ^ fmtBits c) :
    lo ≤ intValue c code ∧ intValue c code ≤ hi ∧ intEnc c (intValue c code) = code := by
  unfold intRange at hr
  split at hr <;> cases hr <;> simp only [fmtBits] at hcode <;>
    simp only [intEnc, intValue, fmtBits, BitVec.toInt_eq_toNat_cond, BitVec.toNat_ofNat] <;> omega

theorem signed_natAbs (x : Int) : signed (x < 0) x.natAbs = x := by
  simp only [signed, decide_eq_true_eq]
  split <;> omega

/-- An exact multiple of 2^0 rounds to its own signed amount, which then saturates. -/
theorem roundInt_integer (lo hi : Int) (rm : Rm) (neg : Bool) (m : Nat) : roundInt lo hi rm (.fin neg m 0) =
    if signed neg m < lo then (lo, fNV) else if signed neg m > hi then (hi, fNV) else (signed neg m, 0) := by
  simp only [roundInt, roundAt_self]
  rfl

theorem roundInt_ofInt {lo hi x : Int} (hlo : lo ≤ x) (hhi : x ≤ hi) (rm : Rm) : roundInt lo hi rm (Val.ofInt x) = (x, 0) := by
  rw [Val.ofInt, roundInt_integer, signed_natAbs, if_neg (Int.not_lt.2 hlo), if_neg (Int.not_lt.2 hhi)]

theorem intRange_of_fpOf_none {c : Nat} (hc : c ≤ 9) (h : fpOf c = none) : ∃ r, intRange c = some r := by
  match c with
  | 0 | 1 | 2 | 3 | 4 | 5 | 6 => cases h
  | 7 | 8 | 9 => exact ⟨_, rfl⟩
  | n + 10 => omega

theorem roundTo_fmtValue {c code : Nat} (hc : c ≤ 9) (hcode : code < 2 ^ fmtBits c) (hnan : (fmtValue c code).isNan = false)
    (rm : Rm) : roundTo c rm (fmtValue c code) = (code, 0) := by
  cases hf : fpOf c with
  | some f =>
    obtain ⟨heb, hw⟩ := fpOf_width hf
    simp only [fmtValue, hf] at hnan
    simp only [roundTo, fmtValue, hf]
    exact round_value heb (hw ▸ hcode) hnan rm
  | none =>
    obtain ⟨⟨lo, hi⟩, hr⟩ := intRange_of_fpOf_none hc hf
    obtain ⟨hlo, hhi, henc⟩ := intValue_of_code hr hcode
    simp only [roundTo, fmtValue, hf, hr, roundInt_ofInt hlo hhi, henc]

/-! ### Exact sums and products (04 R88) -/

theorem amount_eq_signed (neg : Bool) (m : Nat) (e e0 : Int) : amount neg m e e0 = signed neg m * 2 ^ (e - e0).toNat := by
  cases neg with
  | false => rw [amount, signed, if_neg Bool.false_ne_true, if_neg Bool.false_ne_true, Int.one_mul]
  | true => rw [amount, signed, if_pos rfl, if_pos rfl, Int.neg_one_mul]

theorem signed_mul (na nb : Bool) (ma mb : Nat) : signed (na != nb) (ma * mb) = signed na ma * signed nb mb := by
  match na, nb with
  | false, false => exact Int.natCast_mul ma mb
  | false, true => exact (congrArg Neg.neg (Int.natCast_mul ma mb)).trans (Int.mul_neg ..).symm
  | true, false => exact (congrArg Neg.neg (Int.natCast_mul ma mb)).trans (Int.neg_mul ..).symm
  | true, true => exact (Int.natCast_mul ma mb).trans (Int.neg_mul_neg ..).symm

theorem signed_mul_pow (neg : Bool) (m k : Nat) : signed neg (m * 2 ^ k) = signed neg m * 2 ^ k := by
  have h := signed_mul neg false m (2 ^ k)
  rwa [Bool.bne_false, signed.eq_def false, if_neg Bool.false_ne_true, Int.natCast_pow] at h

theorem two_pow_through {a b c : Int} (hab : a ≤ b) (hbc : b ≤ c) :
    (2 : Int) ^ (c - b).toNat * 2 ^ (b - a).toNat = 2 ^ (c - a).toNat := by
  have hexp : (c - a).toNat = (c - b).toNat + (b - a).toNat := by omega
  rw [hexp, Int.pow_add]

/-- A mantissa moved to a smaller power of two stands for the same amount. -/
theorem signed_shifted_amount {e0 e ea : Int} (h0 : e0 ≤ e) (ha : e ≤ ea) (neg : Bool) (m : Nat) :
    signed neg (m * 2 ^ (ea - e).toNat) * 2 ^ (e - e0).toNat = amount neg m ea e0 := by
  rw [signed_mul_pow, Int.mul_assoc, two_pow_through h0 ha, amount_eq_signed]

theorem amount_mul (na nb : Bool) (ma mb : Nat) {ea eb fa fb : Int} (ha : fa ≤ ea) (hb : fb ≤ eb) :
    amount (na != nb) (ma * mb) (ea + eb) (fa + fb) = amount na ma ea fa * amount nb mb eb fb := by
  have hexp : (ea + eb - (fa + fb)).toNat = (ea - fa).toNat + (eb - fb).toNat := by omega
  rw [amount_eq_signed, amount_eq_signed, amount_eq_signed, signed_mul, hexp, Int.pow_add, Int.mul_assoc, Int.mul_assoc,
    Int.mul_left_comm (signed nb mb)]

@[simp] theorem amount_zero (neg : Bool) (e e0 : Int) : amount neg 0 e e0 = 0 := by
  rw [amount, Int.natCast_zero, Int.mul_zero, Int.zero_mul]

/-- The sum of two finite values as a multiple of the smaller of their powers of two. -/
def alignedSum (na : Bool) (ma : Nat) (ea : Int) (nb : Bool) (mb : Nat) (eb : Int) : Int :=
  signed na (ma * 2 ^ (ea - min ea eb).toNat) + signed nb (mb * 2 ^ (eb - min ea eb).toNat)

theorem addFin_of_zeros (rdn na nb : Bool) (ea eb : Int) :
    addFin rdn na 0 ea nb 0 eb = .fin (if na = nb then na else rdn) 0 0 := rfl

theorem addFin_of_nonzero {ma mb : Nat} (h : ¬ (ma = 0 ∧ mb = 0)) (rdn na nb : Bool) (ea eb : Int) :
    addFin rdn na ma ea nb mb eb = if alignedSum na ma ea nb mb eb = 0 then .fin rdn 0 0
      else .fin (alignedSum na ma ea nb mb eb < 0) (alignedSum na ma ea nb mb eb).natAbs (min ea eb) := if_neg h

theorem alignedSum_amount {ea eb e0 : Int} (ha : e0 ≤ ea) (hb : e0 ≤ eb) (na nb : Bool) (ma mb : Nat) :
    alignedSum na ma ea nb mb eb * 2 ^ (min ea eb - e0).toNat = amount na ma ea e0 + amount nb mb eb e0 := by
  have he : e0 ≤ min ea eb := Int.le_min.2 ⟨ha, hb⟩
  rw [alignedSum, Int.add_mul, signed_shifted_amount he (Int.min_le_left ..), signed_shifted_amount he (Int.min_le_right ..)]

/-- The exact sum stands for the sum of the amounts, and a zero sum of a nonzero value takes the sign of the mode. -/
theorem addFin_exact {ea eb e0 : Int} (ha : e0 ≤ ea) (hb : e0 ≤ eb) (rdn na nb : Bool) (ma mb : Nat) : ∃ n m e,
    addFin rdn na ma ea nb mb eb = .fin n m e ∧ (m = 0 ∨ e0 ≤ e) ∧
    amount n m e e0 = amount na ma ea e0 + amount nb mb eb e0 ∧ (m = 0 → ma ≠ 0 → n = rdn) := by
  by_cases hz : ma = 0 ∧ mb = 0
  · obtain ⟨rfl, rfl⟩ := hz
    exact ⟨_, 0, 0, addFin_of_zeros .., .inl rfl, by simp only [amount_zero, Int.add_zero], fun _ h => absurd rfl h⟩
  · rw [addFin_of_nonzero hz, ← alignedSum_amount ha hb]
    by_cases hs : alignedSum na ma ea nb mb eb = 0
    · exact ⟨rdn, 0, 0, if_pos hs, .inl rfl, by rw [hs, amount_zero, Int.zero_mul], fun _ _ => rfl⟩
    · refine ⟨_, _, _, if_neg hs, .inr (Int.le_min.2 ⟨ha, hb⟩), ?_, fun h => absurd (Int.natAbs_eq_zero.1 h) hs⟩
      rw [amount_eq_signed, signed_natAbs]

/-- Settles O36: a number of a format is on the format's grid at its own size, where rounding gives its code back; sums and
products are those of the signed amounts over one power of two. -/
theorem numbers : Obligations.Numbers := by
  refine ⟨fun c code rm hc hcode hnan => roundTo_fmtValue hc hcode hnan rm, fun rdn na nb ma mb ea eb e0 ha hb => ?_,
    fun na nb ma mb ea eb fa fb ha hb => ?_⟩
  · obtain ⟨n, m, e, hv, hrest⟩ := addFin_exact ha hb rdn na nb ma mb
    exact ⟨n, m, e, congrArg (·, 0) hv, hrest⟩
  · exact ⟨na != nb, ma * mb, ea + eb, rfl, by omega, amount_mul na nb ma mb ha hb⟩

end Sys2Proof.Laws
end

section
/-!
Tables of bytes: what setting entries does to a table, and the memory after the bytes of a table are written, granule by
granule and run by run (08 R206).
-/
namespace Sys2Proof.Laws
open Sys2Proof.Machine

/-! ### Tables in ascending order -/

/-- The keys of a table rise. -/
def Ascending {α : Type} (t : Tbl α) : Prop := t.Pairwise (fun x y => x.1 < y.1)

theorem mem_tset {α : Type} {t : Tbl α} {n : Nat} {v : α} {y : Nat × α} (h : y ∈ tset t n v) : y = (n, v) ∨ y ∈ t := by
  induction t with
  | nil => exact .inl (List.mem_singleton.1 h)
  | cons p r ih =>
    obtain ⟨k, w⟩ := p
    unfold tset at h
    split at h
    · next hk =>
      subst hk
      exact (List.mem_cons.1 h).imp_right (List.mem_cons_of_mem _)
    · split at h
      · exact List.mem_cons.1 h
      · rcases List.mem_cons.1 h with rfl | hy
        · exact .inr List.mem_cons_self
        · exact (ih hy).imp_right (List.mem_cons_of_mem _)

theorem Ascending.tset {α : Type} {t : Tbl α} (h : Ascending t) (n : Nat) (v : α) : Ascending (tset t n v) := by
  induction t with
  | nil => exact List.pairwise_singleton _ _
  | cons p r ih =>
    obtain ⟨k, w⟩ := p
    obtain ⟨hk, hr⟩ := List.pairwise_cons.1 h
    unfold Machine.tset
    split
    · exact List.pairwise_cons.2 ⟨hk, hr⟩
    · split
      · next hlt =>
        refine List.pairwise_cons.2 ⟨fun y hy => ?_, h⟩
        rcases List.mem_cons.1 hy with rfl | hy
        · exact hlt
        · exact Nat.lt_trans hlt (hk y hy)
      · refine List.pairwise_cons.2 ⟨fun y hy => ?_, ih hr⟩
        rcases mem_tset hy with rfl | hy
        · show k < n; omega
        · exact hk y hy

theorem mem_of_tfind {α : Type} {t : Tbl α} {n : Nat} {v : α} (h : tfind t n = some v) : (n, v) ∈ t := by
  induction t with
  | nil => cases h
  | cons p r ih =>
    obtain ⟨k, w⟩ := p
    unfold tfind at h
    split at h
    · next hk => cases h; exact hk ▸ List.mem_cons_self
    · split at h
      · cases h
      · exact List.mem_cons_of_mem _ (ih h)

theorem tfind_map {α β : Type} (f : Nat → α → β) (t : Tbl α) (n : Nat) :
    tfind (t.map fun p => (p.1, f p.1 p.2)) n = (tfind t n).map (f n) := by
  induction t with
  | nil => rfl
  | cons p r ih =>
    obtain ⟨k, w⟩ := p
    simp only [List.map_cons, tfind]
    split
    · subst_vars; rfl
    · split
      · rfl
      · exact ih

/-- The table with entries set one after the other. -/
def tsets {α : Type} (t : Tbl α) (l : Tbl α) : Tbl α := l.foldl (fun m y => tset m y.1 y.2) t

theorem mem_tsets {α : Type} {t l : Tbl α} {y : Nat × α} (h : y ∈ tsets t l) : y ∈ l ∨ y ∈ t := by
  induction l generalizing t with
  | nil => exact .inr h
  | cons x r ih =>
    rcases ih h with h | h
    · exact .inl (List.mem_cons_of_mem _ h)
    · exact (mem_tset h).imp_left fun e => List.mem_cons.2 (.inl e)

theorem Ascending.tsets {α : Type} {t : Tbl α} (h : Ascending t) (l : Tbl α) : Ascending (tsets t l) := by
  induction l generalizing t with
  | nil => exact h
  | cons x r ih => exact ih (h.tset _ _)

theorem tfind_tsets_other {α : Type} {t l : Tbl α} {n : Nat} (h : ∀ y ∈ l, n ≠ y.1) : tfind (tsets t l) n = tfind t n := by
  induction l generalizing t with
  | nil => rfl
  | cons x r ih =>
    exact (ih fun y hy => h y (List.mem_cons_of_mem _ hy)).trans (tfind_tset_other _ _ _ _ (h x List.mem_cons_self))

/-- An entry stands in the table where every entry set at its key has its value. -/
theorem tfind_tsets {α : Type} {t l : Tbl α} {y : Nat × α} (hy : y ∈ l) (hsame : ∀ z ∈ l, z.1 = y.1 → z.2 = y.2) :
    tfind (tsets t l) y.1 = some y.2 := by
  induction l generalizing t with
  | nil => cases hy
  | cons x r ih =>
    by_cases hr : ∃ z ∈ r, z.1 = y.1
    · obtain ⟨z, hz, hkey⟩ := hr
      have hval := hsame z (List.mem_cons_of_mem _ hz) hkey
      have hyr : y ∈ r := (Prod.ext hkey hval : z = y) ▸ hz
      exact ih hyr fun w hw => hsame w (List.mem_cons_of_mem _ hw)
    · have hxy : y = x := (List.mem_cons.1 hy).resolve_right fun hyr => hr ⟨y, hyr, rfl⟩
      subst hxy
      exact (tfind_tsets_other fun z hz he => hr ⟨z, hz, he.symm⟩).trans (tfind_tset_same _ _ _)

/-! ### Bytes written one by one -/

/-- A memory with the bytes of a table written at their addresses. -/
def memWriteT (m : List Host.Cell) (t : Tbl Nat) : List Host.Cell := t.foldl (fun m x => memWrite m x.1 (BitVec.ofNat 8 x.2)) m

theorem memWriteT_append (m : List Host.Cell) (t u : Tbl Nat) : memWriteT m (t ++ u) = memWriteT (memWriteT m t) u :=
  List.foldl_append

theorem memWriteT_wf {m : List Host.Cell} (t : Tbl Nat) (h : memWf m = true) : memWf (memWriteT m t) = true := by
  induction t generalizing m with
  | nil => exact h
  | cons x r ih => exact ih (memWrite_wf _ _ h)

theorem memRead_memWriteT_other {m : List Host.Cell} {t : Tbl Nat} {a : Nat} (h : memWf m = true) (ha : ∀ y ∈ t, y.1 ≠ a) :
    memRead (memWriteT m t) a = memRead m a := by
  induction t generalizing m with
  | nil => rfl
  | cons x r ih =>
    rw [show memWriteT m (x :: r) = memWriteT (memWrite m x.1 (BitVec.ofNat 8 x.2)) r from rfl,
      ih (memWrite_wf _ _ h) fun y hy => ha y (List.mem_cons_of_mem _ hy), memRead_memWrite _ _ _ h,
      if_neg (Ne.symm (ha x List.mem_cons_self))]

theorem memRead_memWriteT {m : List Host.Cell} {t : Tbl Nat} (h : memWf m = true) (ht : t.Pairwise (fun x y => x.1 ≠ y.1))
    {y : Nat × Nat} (hy : y ∈ t) : memRead (memWriteT m t) y.1 = BitVec.ofNat 8 y.2 := by
  induction t generalizing m with
  | nil => cases hy
  | cons x r ih =>
    obtain ⟨hx, hr⟩ := List.pairwise_cons.1 ht
    have hw := memWrite_wf x.1 (BitVec.ofNat 8 x.2) h
    rcases List.mem_cons.1 hy with rfl | hy
    · exact (memRead_memWriteT_other hw fun z hz => (hx z hz).symm).trans ((memRead_memWrite _ _ _ h).trans (if_pos rfl))
    · exact ih hw hr hy

theorem memReadN_of_bytes {m : List Host.Cell} {a v n : Nat} (h : ∀ k < n, memRead m (a + k) = BitVec.ofNat 8 (v / 256 ^ k)) :
    memReadN m a n = v % 256 ^ n := by
  induction n generalizing a v with
  | zero => rw [Nat.pow_zero, Nat.mod_one]; rfl
  | succ n ih =>
    have hrest : memReadN m (a + 1) n = v / 256 % 256 ^ n := ih fun k hk => by
      rw [Nat.add_assoc, Nat.add_comm 1 k, h (k + 1) (by omega), Nat.pow_succ', Nat.div_div_eq_div_mul]
    have hlow : (memRead m a).toNat = v % 256 := by
      have h0 := h 0 (by omega)
      rw [Nat.add_zero, Nat.pow_zero, Nat.div_one] at h0
      rw [h0, BitVec.toNat_ofNat]
    rw [memReadN, hrest, hlow, Nat.pow_succ', Nat.mod_mul]

/-- Every value of a table is that of a byte. -/
def IsBytes (t : Tbl Nat) : Prop := ∀ y ∈ t, y.2 < 256

theorem memWriteN_low_byte (m : List Host.Cell) (a v n : Nat) {b : Nat} (hb : b < 256) :
    memWriteN m a (b + 256 * v) (n + 1) = memWriteN (memWrite m a (BitVec.ofNat 8 b)) (a + 1) v n := by
  have hbyte : BitVec.ofNat 8 (b + 256 * v) = BitVec.ofNat 8 b := BitVec.eq_of_toNat_eq (by simp)
  rw [memWriteN, hbyte, show (b + 256 * v) / 256 = v by omega]

/-- Writing the runs of a table's bytes writes its bytes. -/
theorem memWrite_byteRuns {t : Tbl Nat} (ht : IsBytes t) (m : List Host.Cell) :
    (byteRuns t).foldl (fun m r => memWriteN m r.1 r.2.2 r.2.1) m = memWriteT m t := by
  induction t generalizing m with
  | nil => rfl
  | cons x r ih =>
    obtain ⟨a, b⟩ := x
    have hb : b < 256 := ht _ List.mem_cons_self
    have ih := ih (fun y hy => ht y (List.mem_cons_of_mem _ hy)) (memWrite m a (BitVec.ofNat 8 b))
    rw [show memWriteT m ((a, b) :: r) = memWriteT (memWrite m a (BitVec.ofNat 8 b)) r from rfl, ← ih, byteRuns]
    split
    · next c n v q hq =>
      rw [hq]
      split
      · next hc =>
        subst hc
        rw [List.foldl_cons, List.foldl_cons, memWriteN_low_byte m a v n hb]
      · rfl
    · next hq => rw [hq]; rfl

theorem flatten_granules (t : Tbl Nat) : (granules t).flatten = t := by
  induction t with
  | nil => rfl
  | cons x r ih =>
    obtain ⟨a, b⟩ := x
    unfold granules
    split
    · next c v g q hq =>
      rw [hq] at ih
      split
      · rw [← ih]; rfl
      · rw [← ih]; rfl
    · rw [List.flatten_cons, ih]; rfl

end Sys2Proof.Laws
end

section
/-!
Writes performed for every agent (08 R206, R216): which bytes they write, and what their side effects can touch.
-/
namespace Sys2Proof.Laws
open Sys2Proof.Machine

/-- What every step of a fold keeps, the fold keeps. -/
theorem foldl_keeps {σ α β : Type} {g : σ → β} {f : σ → α → σ} (h : ∀ s a, g (f s a) = g s) (l : List α) (s : σ) :
    g (l.foldl f s) = g s := by
  induction l generalizing s with
  | nil => rfl
  | cons a r ih => exact (ih _).trans (h s a)

/-! ### The use of die-cache lines (06 R148; 17 R423, R430) -/

/-- t is s with nothing but the records of dies changed. -/
def DiesOnly (s t : State) : Prop := ∃ d, t = { s with dies := d }

theorem DiesOnly.refl (s : State) : DiesOnly s s := ⟨s.dies, rfl⟩

theorem DiesOnly.trans {s t u : State} (h : DiesOnly s t) (k : DiesOnly t u) : DiesOnly s u := by
  obtain ⟨d, rfl⟩ := h
  obtain ⟨e, rfl⟩ := k
  exact ⟨e, rfl⟩

theorem DiesOnly.foldl {α : Type} {f : State → α → State} (h : ∀ s a, DiesOnly s (f s a)) (l : List α) (s : State) :
    DiesOnly s (l.foldl f s) := by
  induction l generalizing s with
  | nil => exact .refl s
  | cons a r ih => exact (h s a).trans (ih _)

theorem diesOnly_modDie (s : State) (d : Nat) (f : Die → Die) : DiesOnly s (s.modDie d f) := ⟨_, rfl⟩

theorem diesOnly_keyDraw (s : State) (die key slice : Nat) : DiesOnly s (keyDraw s die key slice).2 := by
  unfold keyDraw
  split <;> exact ⟨_, rfl⟩

theorem diesOnly_dieFill (s : State) (a o key : Nat) (valid dirty : BitVec 8) : DiesOnly s (dieFill s a o key valid dirty) := by
  unfold dieFill
  dsimp only
  split
  · exact ⟨_, rfl⟩
  · split
    · exact .refl s
    · have hdraw := diesOnly_keyDraw s (homeDie a) key (homeSlice a)
      split
      · exact hdraw.trans ⟨_, rfl⟩
      · exact hdraw

theorem diesOnly_dieLookup (s : State) (a o : Nat) : DiesOnly s (dieLookup s a o) := by
  unfold dieLookup relocate lineDrop
  split
  · exact .refl s
  · split
    · split
      · exact .refl s
      · exact (diesOnly_modDie s _ _).trans (diesOnly_dieFill _ _ _ _ _ _)
    · exact .refl s

theorem diesOnly_sectorFill (s : State) (a o key : Nat) (v : BitVec 8) : DiesOnly s (sectorFill s a o key v) := by
  unfold sectorFill
  split
  · exact diesOnly_dieFill _ _ _ _ _ _
  · exact diesOnly_modDie _ _ _

/-- A unit's use of lines touches dies alone. -/
theorem diesOnly_unitLine (s : State) (o die a n : Nat) (shared : Bool) : DiesOnly s (unitLine s o die a n shared) := by
  unfold unitLine
  split
  · exact .refl s
  · refine DiesOnly.foldl (fun s p => ?_) _ s
    exact (diesOnly_dieLookup s p.1 o).trans (diesOnly_sectorFill (dieLookup s p.1 o) _ _ _ _)

theorem unitLine_mem (s : State) (o die a n : Nat) (shared : Bool) : (unitLine s o die a n shared).mem = s.mem := by
  obtain ⟨d, hd⟩ := diesOnly_unitLine s o die a n shared
  rw [hd]

/-! ### What goes with a write (06 R147, R156; 07 R186; 08 R216) -/

theorem logCode_mem (s : State) (a n : Nat) : (logCode s a n).mem = s.mem := by
  unfold logCode; split <;> rfl

theorem logCode_threads (s : State) (a n : Nat) : (logCode s a n).threads = s.threads := by
  unfold logCode; split <;> rfl

/-- The bytes and the threads of a machine. -/
def bytesAndThreads (s : State) : List Host.Cell × Tbl Thread := (s.mem, s.threads)

theorem invalidating_keeps (s : State) (r : Agent × Nat × Nat) (a n : Nat) : bytesAndThreads (invalidating s r a n) = bytesAndThreads s := rfl

theorem backInvalidate_keeps (s : State) (w : Writer) (a n : Nat) : bytesAndThreads (backInvalidate s w a n) = bytesAndThreads s := by
  unfold backInvalidate
  split
  · rfl
  · refine foldl_keeps (fun s p => ?_) _ s
    dsimp only
    split
    · split <;> rfl
    · rfl

theorem lineDirty_keeps (s : State) (a n : Nat) : bytesAndThreads (lineDirty s a n) = bytesAndThreads s := rfl

/-- The thread of a slot after a write of n bytes at a: a reservation on their granules is lost, unless the thread is the writer
(06 R156). -/
def resvAfterWrite (w : Machine.Writer) (a n k : Nat) (t : Thread) : Thread :=
  match t.resv with
  | some r => if !w.is (.thread k) t && r.granule * 32 < a + n && a < r.granule * 32 + 32 then { t with resv := none } else t
  | none => t

theorem resvAfterWrite_only (w : Machine.Writer) (a n k : Nat) (t : Thread) : ∃ r, resvAfterWrite w a n k t = { t with resv := r } := by
  unfold resvAfterWrite
  split
  · split
    · exact ⟨none, rfl⟩
    · exact ⟨t.resv, rfl⟩
  · exact ⟨t.resv, rfl⟩

/-- The thread of a slot after a write: its wait of rwait reads the block again as well (15 R398). -/
def threadAfterWrite (s : State) (w : Machine.Writer) (a n k : Nat) (t : Thread) : Thread :=
  rereadRing ((loseResv s a n w).dues (watchEvents s a n w)) a n (resvAfterWrite w a n k t)

/-- Of a thread a write leaves all but its reservation and its wait. -/
theorem threadAfterWrite_only (s : State) (w : Machine.Writer) (a n k : Nat) (t : Thread) :
    ∃ r p g, threadAfterWrite s w a n k t = { t with resv := r, park := p, prog := g } := by
  obtain ⟨r, hr⟩ := resvAfterWrite_only w a n k t
  unfold threadAfterWrite rereadRing
  rw [hr]
  split
  · split
    · split
      · exact ⟨r, t.park, .met, rfl⟩
      · exact ⟨r, _, _, rfl⟩
    · exact ⟨r, t.park, t.prog, rfl⟩
  · exact ⟨r, t.park, t.prog, rfl⟩

theorem wrote_keeps (s : State) (w : Writer) (a n : Nat) :
    bytesAndThreads (s.wrote w a n) = (s.mem, s.threads.map fun p => (p.1, threadAfterWrite s w a n p.1 p.2)) := by
  have hnotes : bytesAndThreads (noteQueueWaits (noteRings ((loseResv s a n w).dues (watchEvents s a n w)) a n) a n) =
      (s.mem, s.threads.map fun p => (p.1, threadAfterWrite s w a n p.1 p.2)) :=
    Prod.ext rfl List.map_map
  unfold State.wrote
  dsimp only
  split
  · refine (foldl_keeps (fun (s : State) (p : Nat × Nat) => lineDirty_keeps s p.1 p.2) _ _).trans (Eq.trans ?_ hnotes)
    split
    · exact backInvalidate_keeps _ w a n
    · rfl
  · exact hnotes

@[simp] theorem wrote_mem (s : State) (w : Writer) (a n : Nat) : (s.wrote w a n).mem = s.mem := congrArg Prod.fst (wrote_keeps s w a n)

/-- The data of a write are its bytes. -/
@[simp] theorem perfWrite_mem (s : State) (w : Writer) (a v n : Nat) : (s.perfWrite w a v n).mem = memWriteN s.mem a v n := by
  rw [State.perfWrite, wrote_mem, wr_mem, logCode_mem]

theorem perfWrite_memOk {s : State} (w : Writer) (a v n : Nat) (h : s.MemOk) : (s.perfWrite w a v n).MemOk := by
  rw [State.MemOk, perfWrite_mem]
  exact memWriteN_wf _ _ _ h

theorem perfWrite_thread {s : State} (w : Writer) (a v n : Nat) {k : Nat} {t : Thread} (h : tfind s.threads k = some t) :
    ∃ r p g, tfind (s.perfWrite w a v n).threads k = some { t with resv := r, park := p, prog := g } := by
  have hthreads := congrArg Prod.snd (wrote_keeps ((logCode s a n).wr a v n) w a n)
  obtain ⟨r, p, g, hu⟩ := threadAfterWrite_only ((logCode s a n).wr a v n) w a n k t
  refine ⟨r, p, g, ?_⟩
  rw [State.perfWrite, show (State.wrote _ w a n).threads = _ from hthreads, tfind_map, wr_threads, logCode_threads, h,
    Option.map_some, hu]

/-! ### Bytes of a table (08 R206) -/

theorem writeRuns_mem (l : List (Nat × Nat × Nat)) (s : State) :
    (l.foldl (fun s r => (logCode s r.1 r.2.1).wr r.1 r.2.2 r.2.1) s).mem = l.foldl (fun m r => memWriteN m r.1 r.2.2 r.2.1) s.mem := by
  induction l generalizing s with
  | nil => rfl
  | cons r l ih => rw [List.foldl_cons, ih, wr_mem, logCode_mem]; rfl

theorem perfRuns_mem (s : State) (w : Writer) (l : List (Nat × Nat × Nat)) :
    (s.perfRuns w l).mem = l.foldl (fun m r => memWriteN m r.1 r.2.2 r.2.1) s.mem := by
  cases l with
  | nil => rfl
  | cons x r =>
    rw [← writeRuns_mem, State.perfRuns]
    split
    · exact wrote_mem _ _ _ _
    · next h => exact absurd (List.getLast?_eq_some_getLast (List.cons_ne_nil x r)) (h x _ rfl)

/-- Where each step writes the bytes of its group, all of them write the bytes of all groups. -/
theorem foldl_groups_mem {f : State → Tbl Nat → State} (hf : ∀ s g, IsBytes g → (f s g).mem = memWriteT s.mem g) (l : List (Tbl Nat))
    (s : State) (hl : IsBytes l.flatten) : (l.foldl f s).mem = memWriteT s.mem l.flatten := by
  induction l generalizing s with
  | nil => rfl
  | cons g l ih =>
    rw [List.flatten_cons, memWriteT_append, List.foldl_cons, ih _ fun y hy => hl y (List.mem_append_right _ hy),
      hf _ _ fun y hy => hl y (List.mem_append_left _ hy)]

/-- Bytes written at their places are written one by one, whatever the uses of their lines. -/
theorem writeBytes_mem {use : State → Nat → Nat → State} (huse : ∀ s a n, (use s a n).mem = s.mem) (s : State) (w : Writer)
    {t : Tbl Nat} (ht : IsBytes t) : (writeBytes s w use t).mem = memWriteT s.mem t := by
  refine (foldl_groups_mem (fun s g hg => ?_) (granules t) s (by rwa [flatten_granules])).trans (by rw [flatten_granules])
  cases g with
  | nil => rfl
  | cons x r =>
    split
    · rw [perfRuns_mem, huse, memWrite_byteRuns hg]
    · next h => exact absurd (List.getLast?_eq_some_getLast (List.cons_ne_nil x r)) (h x _ rfl)

/-! ### Marks, filters and counts -/

theorem markGranules_mem (s : State) (l : List Nat) : (markGranules s l).mem = s.mem :=
  foldl_keeps (g := State.mem) (fun s a => foldl_keeps (g := State.mem) (fun s k => markPoison_mem s (a - a % 32 + 8 * k)) _ s) l s

theorem enterFilter_mem (s : State) (a i : Nat) : (enterFilter s a i).mem = s.mem := by
  unfold enterFilter; split <;> rfl

end Sys2Proof.Laws
end

section
/-!
Transfers (11 R277-R288; 08 R206): the rows that drive them, their waits and their ends, and the units that a copy engine writes.
-/
namespace Sys2Proof.Laws
open Sys2Proof.Machine Sys2Proof.Claims

/-! ### Rows -/

theorem does_of_row {s : State} {e : Event} {b : State} (h : s.ev = some e → exec e.row s = evDo e b) : Does s e b :=
  fun hev hwf => (h hev).trans (evDo_of_wf hwf b)

theorem does_copyUnitWrite (s : State) (id : Nat) : Does s (.copyUnitWrite id) (doCopyUnit s id) :=
  does_of_row fun hev => by show execCopyUnitWrite s = _; rw [execCopyUnitWrite, hev]

theorem does_copyCompletion (s : State) (id : Nat) : Does s (.copyCompletion id) (doCopyCompletion s id) :=
  does_of_row fun hev => by show execCopyCompletion s = _; rw [execCopyCompletion, hev]

theorem does_sbindStreamPush (s : State) (id : Nat) : Does s (.sbindStreamPush id) (doStream s id) :=
  does_of_row fun hev => by show execSbindStreamPush s = _; rw [execSbindStreamPush, hev]

theorem does_redContributionArrival (s : State) (id : Nat) : Does s (.redContributionArrival id) (doRed s id) :=
  does_of_row fun hev => by show execRedContributionArrival s = _; rw [execRedContributionArrival, hev]

theorem does_reductionDelivery (s : State) (die blk : Nat) : Does s (.reductionDelivery die blk) (doDelivery s die blk) :=
  does_of_row fun hev => by show execReductionDelivery s = _; rw [execReductionDelivery, hev]

theorem due_mem_agenda (s : State) (e : Event) : e ∈ (s.due e).agenda := List.mem_append_right _ List.mem_cons_self

theorem rd_of_mem {s t : State} (h : t.mem = s.mem) (a n : Nat) : t.rd a n = s.rd a n := by rw [State.rd, State.rd, h]

/-! ### Past the points (17 R422-R425) -/

theorem die_red_of_modDie {f : Die → Die} (hf : ∀ r, (f r).red = r.red) (s : State) (d k : Nat) :
    ((s.modDie d f).die k).red = (s.die k).red := by
  rw [die_modDie]
  split
  · subst_vars; exact hf _
  · rfl

theorem die_red_setRow (s : State) (p : Point) (row k : Nat) : ((setRow s p row).die k).red = (s.die k).red := by
  unfold setRow
  split
  · exact die_red_of_modDie (fun _ => by rfl) s _ k
  · rfl

theorem die_red_leavePoint (s : State) (die o cls l k : Nat) : ((s.leavePoint die o cls l).die k).red = (s.die k).red := by
  unfold State.leavePoint State.modOwner
  exact die_red_of_modDie (fun _ => by rfl) s _ k

/-- A request that nothing holds back goes on; its passage leaves all but the claims and what dies count of points. -/
theorem claimStep_through {s : State} {id : Nat} {way : List Stop} (h : Through s id way) (owner : Nat) :
    ∃ d c, claimStep s id owner way = .thru { s with dies := d, claims := c } ∧ ∀ k, (tget d k {}).red = (s.die k).red := by
  rcases h with ⟨hnone, rfl⟩ | ⟨c, p, row, hc, hpath, hfull, hbehind, hserved⟩
  · exact ⟨s.dies, s.claims, claimStep_free s id owner hnone, fun _ => rfl⟩
  · obtain ⟨d, hd⟩ := passedPoint_dies s p c.owner c.lost row
    have hred : ∀ k, (tget d k {}).red = (s.die k).red := fun k => by
      have hrow := die_red_setRow (s.leavePoint p.2.1 c.owner p.1 c.lost) p row k
      rw [hd, die_red_leavePoint] at hrow
      exact hrow
    have hrival : (!c.granted && rivalAt s c.owner p) = false := by rcases hserved with h | h <;> simp [h]
    refine ⟨d, terase s.claims id, ?_, hred⟩
    simp [claimStep, hc, hpath, hfull, hbehind, hrival, hd]

/-! ### The end of a transfer (11 R278) -/

theorem tfind_putTransfer (s : State) (id : Nat) (t : Transfer) : tfind (putTransfer s id t).transfers id = some t :=
  tfind_tset_same _ _ _

/-- To leave what a transfer waits at touches dies and claims. -/
theorem leaveWaits_only (s : State) (id : Nat) (t : Transfer) : ∃ d c, leaveWaits s id t = { s with dies := d, claims := c } := by
  unfold leaveWaits
  split <;> exact ⟨_, _, rfl⟩

theorem endTransfer_of_open {t : Transfer} (h : t.ended = none) (s : State) (id code sub row col : Nat) :
    endTransfer s id t code sub row col =
      (putTransfer (leaveWaits s id t) id { t with fault := none, ended := some (code, sub, row, col) }).due (.copyCompletion id) := by
  simp [endTransfer, h]

theorem ended_endTransfer {t : Transfer} (h : t.ended = none) (s : State) (id code sub row col : Nat) :
    Ended (endTransfer s id t code sub row col) id code sub row col := by
  rw [endTransfer_of_open h]
  exact ⟨⟨_, tfind_putTransfer _ _ _, rfl⟩, due_mem_agenda _ _⟩

@[simp] theorem endTransfer_mem (s : State) (id : Nat) (t : Transfer) (code sub row col : Nat) :
    (endTransfer s id t code sub row col).mem = s.mem := by
  unfold endTransfer
  split
  · rfl
  · obtain ⟨d, c, hw⟩ := leaveWaits_only s id t
    rw [hw]; rfl

theorem endTransfer_cores (s : State) (id : Nat) (t : Transfer) (code sub row col : Nat) :
    (endTransfer s id t code sub row col).cores = s.cores := by
  unfold endTransfer
  split
  · rfl
  · obtain ⟨d, c, hw⟩ := leaveWaits_only s id t
    rw [hw]; rfl

/-- A transfer ends with OK, or with POISONED at its first marked element (11 R288). -/
def endByFirst (s : State) (id : Nat) (t : Transfer) : State :=
  match t.first with
  | some (i, j) => endTransfer s id t 2 0 i j
  | none => endTransfer s id t 1 0 0 0

theorem endByFirst_mem (s : State) (id : Nat) (t : Transfer) : (endByFirst s id t).mem = s.mem := by
  unfold endByFirst
  split <;> exact endTransfer_mem _ _ _ _ _ _ _

theorem ended_endByFirst {t : Transfer} (h : t.ended = none) (s : State) (id : Nat) :
    ∃ code i j, (code = 1 ∨ code = 2) ∧ Ended (endByFirst s id t) id code 0 i j := by
  unfold endByFirst
  split
  · next i j _ => exact ⟨2, i, j, .inr rfl, ended_endTransfer h s id 2 0 i j⟩
  · exact ⟨1, 0, 0, .inl rfl, ended_endTransfer h s id 1 0 0 0⟩

/-! ### A step of a copy engine -/

section
variable {s : State} {id : Nat} {t : Transfer}

theorem doCopyUnit_waits (ht : tfind s.transfers id = some t) (ho : t.ended = none) (hm : misnumbered s t = none)
    (hw : running s id t = false ∨ t.wait.isSome = true ∨ faultWaits s id t = true) : doCopyUnit s id = s.due (t.event id) := by
  have hcond : (!running s id t || t.wait.isSome || faultWaits s id t) = true := by rcases hw with h | h | h <;> simp [h]
  simp [doCopyUnit, ht, ho, hm, hcond, again]

theorem doCopyUnit_misnumbered (ht : tfind s.transfers id = some t) (ho : t.ended = none) {p : Nat} (hm : misnumbered s t = some p) :
    doCopyUnit s id = discardTransfer s id t p := by
  simp [doCopyUnit, ht, ho, hm]

theorem doCopyUnit_finished (h : Works s id t) {p : Plan} (hp : t.plan s = .ok p) (hcells : p.cells.drop t.unit = []) :
    doCopyUnit s id = planEnd s id t p := by
  simp [doCopyUnit, h.here, h.going, h.own, h.run, h.free, h.clear, hp, hcells]

theorem doCopyUnit_writes (h : Works s id t) {p : Plan} (hp : t.plan s = .ok p) {c : Cell} {rest : List Cell}
    (hcells : p.cells.drop t.unit = c :: rest) : doCopyUnit s id = writeUnit s id t (c :: rest) := by
  simp [doCopyUnit, h.here, h.going, h.own, h.run, h.free, h.clear, hp, hcells]

@[simp] theorem part_due (s : State) (e : Event) (p : Nat) : (s.due e).part p = s.part p := rfl

theorem ufaults_of_modPart {f : Part → Part} (hf : ∀ r, (f r).ufaults = r.ufaults) (s : State) (q p : Nat) :
    ((s.modPart q f).part p).ufaults = (s.part p).ufaults := by
  rw [part_modPart]
  split
  · subst_vars; exact hf _
  · rfl

theorem unrecoverable_effect (s : State) (p : Nat) : (unrecoverable s p).mem = s.mem ∧ (unrecoverable s p).transfers = s.transfers ∧
    ((unrecoverable s p).part p).ufaults = min ((s.part p).ufaults + 1) 0xFFFF := by
  have hcount : ((s.modPart p (fun r => { r with ufaults := min (r.ufaults + 1) 0xFFFF })).part p).ufaults =
      min ((s.part p).ufaults + 1) 0xFFFF := by rw [part_modPart, if_pos rfl]
  unfold unrecoverable requestReset
  dsimp only
  split
  · exact ⟨rfl, rfl, hcount⟩
  · split
    · exact ⟨rfl, rfl, (ufaults_of_modPart (fun _ => by rfl) _ p p).trans hcount⟩
    · refine ⟨rfl, rfl, ?_⟩
      rw [part_due]
      exact (ufaults_of_modPart (fun _ => by rfl) _ p p).trans hcount

/-- A discarded transfer is gone, and its die's partition counts an unrecoverable fault (18 R441, R448). -/
theorem discardTransfer_effect (s : State) (id : Nat) (t : Transfer) (p : Nat) : (discardTransfer s id t p).mem = s.mem ∧
    (discardTransfer s id t p).transfers = terase s.transfers id ∧
    ((discardTransfer s id t p).part p).ufaults = min ((s.part p).ufaults + 1) 0xFFFF := by
  obtain ⟨d, c, hw⟩ := leaveWaits_only s id t
  unfold discardTransfer
  rw [hw]
  exact unrecoverable_effect _ p

theorem planEnd_mem (s : State) (id : Nat) (t : Transfer) (p : Plan) : (planEnd s id t p).mem = s.mem := by
  unfold planEnd
  split
  · exact endTransfer_mem _ _ _ _ _ _ _
  · split <;> exact endTransfer_mem _ _ _ _ _ _ _

theorem ended_planEnd (ho : t.ended = none) (s : State) (id : Nat) (p : Plan) :
    if p.code ≠ 1 then Ended (planEnd s id t p) id p.code 0 p.row p.col
    else match t.first with | some (i, j) => Ended (planEnd s id t p) id 2 0 i j | none => Ended (planEnd s id t p) id 1 0 0 0 := by
  unfold planEnd
  split
  · exact ended_endTransfer ho _ _ _ _ _ _
  · cases t.first with
    | none => exact ended_endTransfer ho s id 1 0 0 0
    | some f => exact ended_endTransfer ho s id 2 0 f.1 f.2

end

end Sys2Proof.Laws
end

section
/-!
The unit that a copy engine writes (08 R206; 11 R282): the bytes of its cells, and the memory once they are written.
-/
namespace Sys2Proof.Laws
open Sys2Proof.Machine Sys2Proof.Claims

/-! ### Cells -/

/-- Cells of which none is unready are evaluated one for one. -/
theorem evalCells_cells {l : List Cell} {ready : List (Cell × Nat × FlagSet × Bool)} (h : evalCells l = (ready, none)) :
    ready.map Prod.fst = l := by
  induction l generalizing ready with
  | nil => cases h; rfl
  | cons c r ih =>
    unfold evalCells at h
    split at h
    · cases h
    · next v _ =>
      cases hr : evalCells r with
      | mk l w =>
        rw [hr] at h
        cases h
        exact congrArg (c :: ·) (ih hr)

theorem foldl_min_le (l : List Cell) (m : Nat) :
    l.foldl (fun m x => min m x.at_) m ≤ m ∧ ∀ c ∈ l, l.foldl (fun m x => min m x.at_) m ≤ c.at_ := by
  induction l generalizing m with
  | nil => exact ⟨Nat.le_refl _, fun _ h => nomatch h⟩
  | cons x r ih =>
    obtain ⟨hm, hr⟩ := ih (min m x.at_)
    refine ⟨by rw [List.foldl_cons]; omega, fun c hc => ?_⟩
    rw [List.foldl_cons]
    rcases List.mem_cons.1 hc with rfl | hc
    · omega
    · exact hr c hc

theorem lowCell_le {l : List Cell} {c : Cell} (h : c ∈ l) : lowCell l ≤ c.at_ := by
  cases l with
  | nil => cases h
  | cons x r =>
    obtain ⟨hx, hr⟩ := foldl_min_le r x.at_
    rcases List.mem_cons.1 h with rfl | h
    · exact hx
    · exact hr c h

/-- A table of bytes that stand at or after an address. -/
structure BytesFrom (low : Nat) (t : Tbl Nat) : Prop where
  rising : Ascending t
  bytes : IsBytes t
  after : ∀ y ∈ t, low ≤ y.1

theorem BytesFrom.tset {low : Nat} {t : Tbl Nat} (h : BytesFrom low t) {a b : Nat} (ha : low ≤ a) (hb : b < 256) :
    BytesFrom low (tset t a b) where
  rising := h.rising.tset a b
  bytes y hy := by
    rcases mem_tset hy with rfl | hy
    · exact hb
    · exact h.bytes y hy
  after y hy := by
    rcases mem_tset hy with rfl | hy
    · exact ha
    · exact h.after y hy

theorem BytesFrom.tget_lt {low : Nat} {t : Tbl Nat} (h : BytesFrom low t) (a : Nat) {b : Nat} (hb : b < 256) : tget t a b < 256 := by
  unfold tget
  cases hf : tfind t a with
  | none => exact hb
  | some v => exact h.bytes _ (mem_of_tfind hf)

theorem bits_byte_lt (v k : Nat) : bits v (8 * k + 7) (8 * k) < 256 := by
  have h : 8 * k + 7 + 1 - 8 * k = 8 := by omega
  rw [bits, h]
  exact Nat.mod_lt _ (by decide)

theorem BytesFrom.code {low : Nat} {t : Tbl Nat} (h : BytesFrom low t) {a : Nat} (ha : low ≤ a) (v : Nat) (l : List Nat) :
    BytesFrom low (l.foldl (fun m k => Machine.tset m (a + k) (bits v (8 * k + 7) (8 * k))) t) :=
  List.foldlRecOn l _ h fun _ hm k _ => hm.tset (Nat.le_add_right_of_le ha) (bits_byte_lt v k)

theorem nibbles_lt {b : Nat} (hb : b < 256) (v : Nat) : b % 16 + v % 16 * 16 < 256 ∧ b / 16 * 16 + v % 16 < 256 := by omega

/-- The bytes of cells over bytes stand where the cells do. -/
theorem cellBytes_from {old : Nat → Nat} (hold : ∀ a, old a < 256) {l : List (Cell × Nat × FlagSet × Bool)} {low : Nat}
    (hl : ∀ x ∈ l, low ≤ x.1.at_) : BytesFrom low (cellBytes old l) := by
  refine List.foldlRecOn l _ ⟨List.Pairwise.nil, (fun _ h => nomatch h), (fun _ h => nomatch h)⟩ fun t ht x hx => ?_
  dsimp only
  split
  · have hb := nibbles_lt (ht.tget_lt x.1.at_ (hold x.1.at_)) x.2.1
    refine ht.tset (hl x hx) ?_
    split
    · exact hb.1
    · exact hb.2
  · exact ht.code (hl x hx) _ _

/-- Bytes moved from after one address to after another stand at different places. -/
theorem BytesFrom.moved {low : Nat} {t : Tbl Nat} (h : BytesFrom low t) (place : Nat) :
    (t.map fun x => (place + (x.1 - low), x.2)).Pairwise (fun x y => x.1 ≠ y.1) := by
  rw [List.pairwise_map]
  refine h.rising.imp_of_mem fun hx hy hlt => ?_
  have := h.after _ hx
  have := h.after _ hy
  show place + (_ - low) ≠ place + (_ - low)
  omega

/-! ### The unit -/

/-- To count an event of a slot's thread touches threads. -/
theorem monEv_only (s : State) (k e n : Nat) : ∃ x, s.monEv (.thread k) e n = { s with threads := x } := by
  refine List.foldlRecOn (motive := fun u : State => ∃ x : Tbl Thread, u = { s with threads := x }) (s.slotsOn (coreOf k)) _
    ⟨s.threads, rfl⟩ fun u hu j _ => ?_
  obtain ⟨x, rfl⟩ := hu
  unfold State.modSlot State.modTh
  split <;> exact ⟨_, rfl⟩

theorem monEv_cores (s : State) (k e n : Nat) : (s.monEv (.thread k) e n).cores = s.cores := by
  obtain ⟨x, hx⟩ := monEv_only s k e n
  rw [hx]

theorem monEv_transfers (s : State) (k e n : Nat) : (s.monEv (.thread k) e n).transfers = s.transfers := by
  obtain ⟨x, hx⟩ := monEv_only s k e n
  rw [hx]

theorem rd_byte_lt (s : State) (a : Nat) : s.rd a 1 < 256 := (memRead s.mem a).isLt

/-- Cells that are written have their bytes in memory, and the transfer counts them. -/
theorem writeCells_effect (s : State) (id : Nat) (t : Transfer) (p : Nat) (sh : Bool) {l : List (Cell × Nat × FlagSet × Bool)} (hl : l ≠ []) :
    (writeCells s id t p sh l).2.mem = memWriteT s.mem
      ((cellBytes (fun a => s.rd (p + (a - lowCell (l.map Prod.fst))) 1) l).map fun x => (p + (x.1 - lowCell (l.map Prod.fst)), x.2)) ∧
    ∃ u, tfind (writeCells s id t p sh l).2.transfers id = some u ∧ u.unit = t.unit + l.length ∧ u.ended = t.ended := by
  have hbytes : BytesFrom (lowCell (l.map Prod.fst)) (cellBytes (fun a => s.rd (p + (a - lowCell (l.map Prod.fst))) 1) l) :=
    cellBytes_from (fun _ => rd_byte_lt _ _) fun x hx => lowCell_le (List.mem_map_of_mem hx)
  have hplaced : IsBytes ((cellBytes (fun a => s.rd (p + (a - lowCell (l.map Prod.fst))) 1) l).map
      fun x => (p + (x.1 - lowCell (l.map Prod.fst)), x.2)) := fun y hy => by
    obtain ⟨x, hx, rfl⟩ := List.mem_map.1 hy
    exact hbytes.bytes x hx
  obtain ⟨x, r, rfl⟩ := List.exists_cons_of_ne_nil hl
  unfold writeCells
  dsimp only
  rw [monEv_mem, monEv_transfers]
  exact ⟨(markGranules_mem _ _).trans ((enterFilter_mem _ _ _).trans (writeBytes_mem (fun s a n => unitLine_mem s _ _ a n sh) _ _ hplaced)),
    _, tfind_putTransfer _ _ _, rfl, rfl⟩

section
variable {s : State} {id : Nat} {t : Transfer} {c : Cell} {rest : List Cell} {ready : List (Cell × Nat × FlagSet × Bool)}

/-- The cells in the unit of a transfer's first cell (08 R206). -/
def unitCells (t : Transfer) (c : Cell) (rest : List Cell) : List Cell :=
  (c :: rest).takeWhile (fun x => x.at_ / unitSize t.target.kind == c.at_ / unitSize t.target.kind)

theorem unitCells_ne_nil (t : Transfer) (c : Cell) (rest : List Cell) : unitCells t c rest ≠ [] := by
  unfold unitCells
  rw [List.takeWhile_cons_of_pos (by simp)]
  exact List.cons_ne_nil _ _

/-- Where the lowest of cells stands, for a destination that is not translated. -/
def cellPlace (t : Transfer) (l : List Cell) : Nat := placeOfKind t.target.core t.target.kind (lowCell l)

/-- A unit within the module whose cells are all ready and whose way is free (08 R206; 17 R424). -/
structure UnitGoes (s : State) (id : Nat) (t : Transfer) (c : Cell) (rest : List Cell) (ready : List (Cell × Nat × FlagSet × Bool)) : Prop where
  eval : evalCells (unitCells t c rest) = (ready, none)
  untranslated : t.target.kind ≠ 3
  inside : t.target.kind ≠ 5
  allowed : t.deny = 0
  space : spaceOf (cellPlace t (unitCells t c rest)) ≠ 7
  free : engineBlocked s id t (cellPlace t (unitCells t c rest)) (unitSize t.target.kind) = false
  way : Through s id (engineWay s t true (cellPlace t (unitCells t c rest)) (cellSpan ready))

/-- The engine writes such a unit once it has passed its points. -/
theorem writeUnit_within (h : UnitGoes s id t c rest ready) : ∃ s', s'.mem = s.mem ∧
    writeUnit s id t (c :: rest) = (writeCells s' id t (cellPlace t (unitCells t c rest)) false ready).2.due (t.event id) := by
  obtain ⟨d, k, hthru, -⟩ := claimStep_through h.way t.owner
  refine ⟨{ s with dies := d, claims := k }, rfl, ?_⟩
  have hcells := evalCells_cells h.eval
  have hready : ready.isEmpty = false := by
    rw [← List.isEmpty_map (f := Prod.fst), hcells]
    exact List.isEmpty_eq_false_iff.2 (unitCells_ne_nil t c rest)
  have hunit : (c :: rest).takeWhile (fun x => x.at_ / unitSize t.target.kind == c.at_ / unitSize t.target.kind &&
      (t.target.kind ≠ 5 || c.at_ ≤ x.at_)) = unitCells t c rest := by
    simp [unitCells, h.inside]
  have hloc : locate s id t t.target true (lowCell (ready.map Prod.fst)) = .place (cellPlace t (unitCells t c rest)) false s := by
    simp [locate, h.allowed, h.untranslated, hcells, cellPlace]
  unfold writeUnit
  dsimp only
  rw [hunit, h.eval]
  simp only [hready, h.inside, hloc, h.space, h.free, onWay, hthru, again, if_false, Bool.false_eq_true]

end

/-- The bytes of the cells of a unit, over what stands at their places. -/
def unitBytes (s : State) (t : Transfer) (l : List Cell) (ready : List (Cell × Nat × FlagSet × Bool)) : Tbl Nat :=
  cellBytes (fun k => s.rd (cellPlace t l + (k - lowCell l)) 1) ready

/-- A unit written within the module: the encodings of its cells at their bytes, and nothing else (08 R206; 11 R282). -/
theorem unit_written {s : State} {id : Nat} {t : Transfer} {p : Plan} {c : Cell} {rest : List Cell}
    {ready : List (Cell × Nat × FlagSet × Bool)} (hmem : s.MemOk) (h : Works s id t) (hp : t.plan s = .ok p)
    (hcells : p.cells.drop t.unit = c :: rest) (hunit : UnitGoes s id t c rest ready) :
    ∃ b u, Does s (.copyUnitWrite id) b ∧ tfind b.transfers id = some u ∧ u.unit = t.unit + (unitCells t c rest).length ∧ u.ended = none ∧
      t.event id ∈ b.agenda ∧
      (∀ y ∈ unitBytes s t (unitCells t c rest) ready,
        memRead b.mem (cellPlace t (unitCells t c rest) + (y.1 - lowCell (unitCells t c rest))) = BitVec.ofNat 8 y.2) ∧
      ∀ x, (∀ y ∈ unitBytes s t (unitCells t c rest) ready, cellPlace t (unitCells t c rest) + (y.1 - lowCell (unitCells t c rest)) ≠ x) →
        memRead b.mem x = memRead s.mem x := by
  have hready := evalCells_cells hunit.eval
  have hne : ready ≠ [] := fun h => unitCells_ne_nil t c rest (by rw [← hready, h]; rfl)
  obtain ⟨s', hs', hwrite⟩ := writeUnit_within hunit
  obtain ⟨hbmem, u, hu, hcount, hended⟩ := writeCells_effect s' id t (cellPlace t (unitCells t c rest)) false hne
  have hstep : doCopyUnit s id = (writeCells s' id t (cellPlace t (unitCells t c rest)) false ready).2.due (t.event id) :=
    (doCopyUnit_writes h hp hcells).trans hwrite
  have hbytes : BytesFrom (lowCell (unitCells t c rest)) (unitBytes s t (unitCells t c rest) ready) :=
    cellBytes_from (fun _ => rd_byte_lt _ _) fun x hx => hready ▸ lowCell_le (List.mem_map_of_mem hx)
  have hfinal : (doCopyUnit s id).mem = memWriteT s.mem ((unitBytes s t (unitCells t c rest) ready).map
      fun x => (cellPlace t (unitCells t c rest) + (x.1 - lowCell (unitCells t c rest)), x.2)) := by
    rw [hstep, due_mem, hbmem, hready, hs']
    simp only [unitBytes, State.rd, hs']
  refine ⟨doCopyUnit s id, u, does_copyUnitWrite s id, ?_, ?_, hended.trans h.going, ?_, fun y hy => ?_, fun x hx => ?_⟩
  · rw [hstep]; exact hu
  · rw [hcount, ← hready, List.length_map]
  · rw [hstep]; exact due_mem_agenda _ _
  · rw [hfinal]
    exact memRead_memWriteT hmem (hbytes.moved _) (List.mem_map_of_mem hy)
  · rw [hfinal]
    refine memRead_memWriteT_other hmem fun y hy => ?_
    obtain ⟨z, hz, rfl⟩ := List.mem_map.1 hy
    exact hx z hz

end Sys2Proof.Laws
end

section
/-!
The completion of a transfer (11 R278; 04 R93) and the pushes of a copy stream (11 R295).
-/
namespace Sys2Proof.Laws
open Sys2Proof.Machine Sys2Proof.Claims

/-! ### COPY_COMPLETION -/

/-- Only a codec writes at its end, into its parameter block (11 R296). -/
theorem codecDone_mem {t : Transfer} (h : ∀ d a, t.ins ≠ .czip d a ∧ t.ins ≠ .cunzip d a) (s : State) (code row col : Nat) :
    (codecDone s t code row col).mem = s.mem := by
  unfold codecDone
  dsimp only
  split
  · next d a hi => exact absurd hi (h d a).1
  · next d a hi => exact absurd hi (h d a).2
  · rfl

theorem codecDone_thread {s : State} {k : Nat} {th : Thread} (h : tfind s.threads k = some th) (t : Transfer) (code row col : Nat) :
    ∃ r p g, tfind (codecDone s t code row col).threads k = some { th with resv := r, park := p, prog := g } := by
  unfold codecDone
  dsimp only
  split
  · exact perfWrite_thread _ _ _ _ h
  · exact perfWrite_thread _ _ _ _ h
  · exact ⟨th.resv, th.park, th.prog, h⟩

theorem modTag_thread {s : State} {k : Nat} {th : Thread} (h : tfind s.threads k = some th) (f : Thread → Thread) :
    s.modTag (.thread k) th.tag f = { s with threads := tset s.threads k (f th) } := by
  have hget : s.getTh (.thread k) = some th := h
  simp [State.modTag, hget, State.setTh]

/-- What a completion makes of its thread: the final status in the ring, the flags joined, C one less (11 R278; 04 R93). -/
def completed (t : Transfer) (code sub row col : Nat) (th : Thread) : Thread :=
  { th with
    ring := tset th.ring (t.seq.toNat % 16) (statusBits t.seq.toNat code sub row col t.bytes)
    cnt := { th.cnt with c := th.cnt.c - 1 }
    fstat := th.fstat ||| t.flags.setWidth 64 }

theorem doCopyCompletion_thread {s : State} {id : Nat} {t : Transfer} {code sub row col : Nat} {th : Thread}
    (ht : tfind s.transfers id = some t) (hend : t.ended = some (code, sub, row, col)) (hwait : t.wait = none)
    (hth : tfind s.threads t.slot = some th) (htag : th.tag = t.tag) :
    ∃ r p g, tfind (doCopyCompletion s id).threads t.slot = some (completed t code sub row col { th with resv := r, park := p, prog := g }) := by
  obtain ⟨r, p, g, hu⟩ := codecDone_thread hth t code row col
  refine ⟨r, p, g, ?_⟩
  have hmod := fun f => modTag_thread (s := { codecDone s t code row col with transfers := terase (codecDone s t code row col).transfers id }) hu f
  simp only [doCopyCompletion, ht, hend, hwait, Option.isSome_none, Bool.false_eq_true, if_false, ← htag, hmod, modCluster_threads]
  exact tfind_tset_same _ _ _

theorem doCopyCompletion_mem {s : State} {id : Nat} {t : Transfer} {code sub row col : Nat}
    (ht : tfind s.transfers id = some t) (hend : t.ended = some (code, sub, row, col)) (hwait : t.wait = none) :
    (doCopyCompletion s id).mem = (codecDone s t code row col).mem := by
  simp only [doCopyCompletion, ht, hend, hwait, Option.isSome_none, Bool.false_eq_true, if_false, modCluster_mem, modTag_mem]

/-! ### SBIND_STREAM_PUSH -/

section
variable {s : State} {id : Nat} {t : Transfer}

theorem doStream_full (h : Works s id t) (hq : 8 ≤ ((s.core t.core).queue 4).used) : doStream s id = s.due (.sbindStreamPush id) := by
  simp [doStream, h.here, h.going, h.own, hq, again]

/-- A word that has been read is pushed while the queue has room. -/
theorem doStream_read (h : Works s id t) (hq : ((s.core t.core).queue 4).used < 8) {v : BitVec 64} {bad : Bool}
    (hseen : tfind t.seen (t.at_ + t.unit * streamStride t.xs) = some (v, bad)) :
    doStream s id = pushStream s id t v (if bad then some (t.err.getD .poison) else none) := by
  simp [doStream, h.here, h.going, h.own, h.run, h.free, h.clear, hseen, Nat.not_le.2 hq]

/-- A stream after a push (11 R295). -/
def pushed (t : Transfer) (m : Option Cause) : Transfer :=
  { t with unit := t.unit + 1, bytes := t.bytes + 8, seen := [], fault := none, first := if m.isSome then some (0, 0) else t.first }

/-- A word enters queue 4 of a core (11 R295). -/
def withWord (s : State) (core : Nat) (w : PortWord) : State :=
  noteWaits (s.modCore core (fun c => c.setQueue 4 { c.queue 4 with words := (c.queue 4).words ++ [w], tail := ((c.queue 4).tail + 1) % 16 }))

theorem withWord_words (s : State) (core : Nat) (w : PortWord) :
    (((withWord s core w).core core).queue 4).words = ((s.core core).queue 4).words ++ [w] := by
  simp only [withWord, State.core, noteWaits, modCore_cores, tget_tset_same, Core.queue, Core.setQueue]

/-- The state with a word pushed and counted, from which the stream goes on or ends. -/
def afterPush (s : State) (id : Nat) (t : Transfer) (v : BitVec 64) (m : Option Cause) : State :=
  (putTransfer (withWord s t.core { val := v, mark := m.map streamMark, slot := t.slot }) id (pushed t m)).monEv (.thread t.slot) 7
    ((pushed t m).bytes / 32 - ((pushed t m).bytes - 8) / 32)

theorem pushStream_eq (s : State) (id : Nat) (t : Transfer) (v : BitVec 64) (m : Option Cause) :
    pushStream s id t v m = if t.unit + 1 < streamCount t.xs then (afterPush s id t v m).due (.sbindStreamPush id)
      else endTransfer (afterPush s id t v m) id (pushed t m) (if (pushed t m).first.isSome then 2 else 1) 0 0 0 := rfl

theorem afterPush_mem (s : State) (id : Nat) (t : Transfer) (v : BitVec 64) (m : Option Cause) : (afterPush s id t v m).mem = s.mem :=
  monEv_mem _ _ _ _

theorem afterPush_cores (s : State) (id : Nat) (t : Transfer) (v : BitVec 64) (m : Option Cause) :
    (afterPush s id t v m).cores = (withWord s t.core { val := v, mark := m.map streamMark, slot := t.slot }).cores :=
  monEv_cores _ _ _ _

theorem afterPush_transfer (s : State) (id : Nat) (t : Transfer) (v : BitVec 64) (m : Option Cause) :
    tfind (afterPush s id t v m).transfers id = some (pushed t m) := by
  unfold afterPush
  rw [monEv_transfers]
  exact tfind_putTransfer _ _ _

theorem pushStream_mem (s : State) (id : Nat) (t : Transfer) (v : BitVec 64) (m : Option Cause) : (pushStream s id t v m).mem = s.mem := by
  rw [pushStream_eq]
  split
  · exact afterPush_mem _ _ _ _ _
  · exact (endTransfer_mem _ _ _ _ _ _ _).trans (afterPush_mem _ _ _ _ _)

theorem pushStream_cores (s : State) (id : Nat) (t : Transfer) (v : BitVec 64) (m : Option Cause) :
    (pushStream s id t v m).cores = (withWord s t.core { val := v, mark := m.map streamMark, slot := t.slot }).cores := by
  rw [pushStream_eq]
  split
  · exact afterPush_cores _ _ _ _ _
  · exact (endTransfer_cores _ _ _ _ _ _ _).trans (afterPush_cores _ _ _ _ _)

theorem pushStream_words (s : State) (id : Nat) (t : Transfer) (v : BitVec 64) (m : Option Cause) :
    (((pushStream s id t v m).core t.core).queue 4).words =
      ((s.core t.core).queue 4).words ++ [{ val := v, mark := m.map streamMark, slot := t.slot }] := by
  rw [State.core, pushStream_cores]
  exact withWord_words _ _ _

theorem pushStream_more {s : State} {id : Nat} {t : Transfer} (v : BitVec 64) (m : Option Cause) (h : t.unit + 1 < streamCount t.xs) :
    .sbindStreamPush id ∈ (pushStream s id t v m).agenda ∧ tfind (pushStream s id t v m).transfers id = some (pushed t m) := by
  rw [pushStream_eq, if_pos h]
  exact ⟨due_mem_agenda _ _, afterPush_transfer _ _ _ _ _⟩

theorem pushStream_last {s : State} {id : Nat} {t : Transfer} (v : BitVec 64) (m : Option Cause) (ho : t.ended = none)
    (h : streamCount t.xs ≤ t.unit + 1) : Ended (pushStream s id t v m) id (if m.isSome ∨ t.first.isSome then 2 else 1) 0 0 0 := by
  rw [pushStream_eq, if_neg (Nat.not_lt.2 h)]
  have hfirst : ((pushed t m).first.isSome = true) = (m.isSome = true ∨ t.first.isSome = true) := by
    cases m <;> simp [pushed]
  simp only [hfirst]
  exact ended_endTransfer (t := pushed t m) ho _ _ _ _ _ _

end

end Sys2Proof.Laws
end

section
/-!
The ordered reduction engine (11 R299-R301): contributions refused and staged, and the delivery of a round.
-/
namespace Sys2Proof.Laws
open Sys2Proof.Machine Sys2Proof.Claims

/-! ### The control block -/

theorem redBlk_of_mem {s t : State} (h : t.mem = s.mem) (p : Nat) : redBlk t p = redBlk s p := by
  simp only [redBlk, rd_of_mem h]

theorem bits_setBits_arrived (v : Nat) {n : Nat} (h : n < 2 ^ 25) : bits (setBits v 56 32 n % 256 ^ 8) 56 32 = n := by
  simp only [bits, setBits]; omega

theorem setArrived_mem (s : State) (w : Machine.Writer) (p n : Nat) :
    (setArrived s w p n).mem = memWriteN s.mem (p + 24) (setBits (s.rd (p + 24) 8) 56 32 n) 8 := perfWrite_mem _ _ _ _ _

/-- ARRIVED reads as it was set. -/
theorem arrived_setArrived {s : State} (h : s.MemOk) (w : Machine.Writer) (p : Nat) {n : Nat} (hn : n < 2 ^ 25) :
    (redBlk (setArrived s w p n) p).arrived = n := by
  show bits ((setArrived s w p n).rd (p + 24) 8) 56 32 = n
  rw [State.rd, setArrived_mem, memReadN_memWriteN _ _ _ h]
  exact bits_setBits_arrived _ hn

/-! ### Contributions (11 R300) -/

/-- The place of a contribution's control block. -/
abbrev redPlace (t : Transfer) : Nat := placeOfKind t.core t.kind t.at_

/-- The operand of a contribution. -/
abbrev redOpnd (t : Transfer) : Opnd := mkOpnd 0 t.desc t.code.toNat false false

section
variable {s : State} {id : Nat} {t : Transfer}

/-- A contribution past its points meets the engine, in a state that differs in claims and in what dies count of points. -/
theorem doRed_arrives (ht : tfind s.transfers id = some t) (ho : t.ended = none) (hu : t.unit = 0) (hm : misnumbered s t = none)
    (hrun : running s id t = true) (hfoot : (redOpnd t).foot.any (fun x => engineBlocked s id t (aLocal t.core x.1) x.2) = false)
    (hway : Through s id (plain (crossed (clusterOf t.core) (diePlace (redDie (redPlace t)))))) :
    ∃ d c, doRed s id = contribute { s with dies := d, claims := c } id t ∧ ∀ k, (tget d k {}).red = (s.die k).red := by
  obtain ⟨d, c, hthru, hred⟩ := claimStep_through hway t.owner
  refine ⟨d, c, ?_, hred⟩
  simp [doRed, ht, ho, hu, hm, hrun, hfoot, hthru]

theorem contribute_unsound (hok : (redBlk s (redPlace t)).ok = false) : contribute s id t = endTransfer s id t 9 1 0 0 := by
  simp [contribute, hok]

/-- A contribution to a sound block whose number is one of the block's contributors and whose BUF is one that it may use. -/
structure Counted (s : State) (t : Transfer) (b : RedBlk) (buf : Nat) : Prop where
  block : redBlk s (redPlace t) = b
  sound : b.ok = true
  inside : t.xs.toNat < b.n
  buffer : ∃ k, redTarget s t b.buf (b.area + b.map) true [2] = some (k, buf)

/-- Whether the round has this contributor already. -/
abbrev redSeen (s : State) (t : Transfer) (b : RedBlk) (buf : Nat) : Bool := bitAt (s.rd (buf + b.area + t.xs.toNat / 8) 1) (t.xs.toNat % 8)

/-- A contribution of the block's shape and of a format that the block takes, from a contributor that the round has not yet. -/
structure Fits (s : State) (t : Transfer) (b : RedBlk) (buf : Nat) : Prop extends Counted s t b buf where
  unseen : redSeen s t b buf = false
  rows : dRows t.desc = b.rows
  cols : dCols t.desc = b.cols
  format : b.int = true → fmtInt t.code.toNat = true

theorem Fits.takes {b : RedBlk} {buf : Nat} (h : Fits s t b buf) : ¬ (b.int = true ∧ fmtInt t.code.toNat = false) := by
  rintro ⟨hi, hf⟩
  rw [h.format hi] at hf
  cases hf

theorem contribute_outside (hok : (redBlk s (redPlace t)).ok = true) (hn : (redBlk s (redPlace t)).n ≤ t.xs.toNat) :
    contribute s id t = endTransfer s id t 9 2 0 0 := by
  simp [contribute, hok, hn]

variable {b : RedBlk} {buf : Nat}

theorem contribute_seen (h : Counted s t b buf) (hseen : redSeen s t b buf = true) : contribute s id t = endTransfer s id t 9 3 0 0 := by
  obtain ⟨hb, hok, hn, k, hbuf⟩ := h
  simp [contribute, hb, hok, Nat.not_le.2 hn, hbuf, hseen]

theorem contribute_misshapen (h : Counted s t b buf) (hseen : redSeen s t b buf = false) (hs : dRows t.desc ≠ b.rows ∨ dCols t.desc ≠ b.cols) :
    contribute s id t = endTransfer s id t 9 4 0 0 := by
  obtain ⟨hb, hok, hn, k, hbuf⟩ := h
  simp only [contribute, hb, hok, hbuf, hseen, hs, Nat.not_le.2 hn, if_true, if_false, Bool.not_true, Bool.false_eq_true]

theorem contribute_unformatted (h : Counted s t b buf) (hseen : redSeen s t b buf = false) (hr : dRows t.desc = b.rows)
    (hc : dCols t.desc = b.cols) (hi : b.int = true) (hf : fmtInt t.code.toNat = false) : contribute s id t = endTransfer s id t 9 5 0 0 := by
  obtain ⟨hb, hok, hn, k, hbuf⟩ := h
  simp [contribute, hb, hok, Nat.not_le.2 hn, hbuf, hseen, hr, hc, hi, hf]

theorem contribute_undelivered (h : Fits s t b buf) (hd : redTarget s t b.dst b.out false [1, 2, 3] = none) :
    contribute s id t = endTransfer s id t 9 6 0 0 := by
  have hfmt := h.takes
  obtain ⟨⟨hb, hok, hn, k, hbuf⟩, hseen, hr, hc, -⟩ := h
  simp [contribute, hb, hok, Nat.not_le.2 hn, hbuf, hseen, hr, hc, hd, hfmt]

theorem contribute_elsewhere (h : Fits s t b buf) {w : Nat × Nat} (hd : redTarget s t b.dst b.out false [1, 2, 3] = some w) {x : RedRound}
    (hx : tfind (s.die (redDie (redPlace t))).red (redPlace t) = some x) (hne : x.dst ≠ w ∨ x.buf ≠ buf) :
    contribute s id t = endTransfer s id t 9 7 0 0 := by
  have hfmt := h.takes
  obtain ⟨⟨hb, hok, hn, k, hbuf⟩, hseen, hr, hc, -⟩ := h
  simp [contribute, hb, hok, Nat.not_le.2 hn, hbuf, hseen, hr, hc, hd, hx, hfmt, hne]

/-! ### Staging -/

/-- The staging of a contribution ends with ARRIVED one more (11 R300). -/
theorem stage_effect (hs : s.MemOk) (o : Opnd) (blk : Nat) (hroom : b.arrived + 1 < 2 ^ 25) :
    (redBlk (stage s id t b o blk buf).2 blk).arrived = b.arrived + 1 ∧ (stage s id t b o blk buf).1.ended = t.ended := by
  have hmarked : ∀ (u : State) (l : List Nat), u.MemOk → (markGranules u l).MemOk := fun u l hu => by
    rw [State.MemOk, markGranules_mem]; exact hu
  exact ⟨arrived_setArrived (perfWrite_memOk _ _ _ _ (hmarked _ _ (perfWrite_memOk _ _ _ _ hs))) _ _ hroom, rfl⟩

/-- The round of a block with a contribution accepted: its targets stay, and the completing contribution is noted (11 R299, R300). -/
def roundWith (s : State) (id : Nat) (t : Transfer) (b : RedBlk) (buf : Nat) (w : Nat × Nat) : RedRound :=
  let r := (tfind (s.die (redDie (redPlace t))).red (redPlace t)).getD { dst := w, buf := buf, owner := t.owner }
  { r with last := if b.arrived + 1 == b.n then some id else none }

/-- An accepted contribution is staged, its round is kept, and the last one makes the delivery due (11 R300). -/
theorem contribute_accepted (h : Fits s t b buf) {w : Nat × Nat} (hd : redTarget s t b.dst b.out false [1, 2, 3] = some w)
    (hround : ∀ x, tfind (s.die (redDie (redPlace t))).red (redPlace t) = some x → x.dst = w ∧ x.buf = buf) :
    ∃ u : State, u.mem = (stage s id t b (redOpnd t) (redPlace t) buf).2.mem ∧
      contribute s id t = if b.arrived + 1 = b.n then u.due (.reductionDelivery (redDie (redPlace t)) (redPlace t))
        else endByFirst u id (stage s id t b (redOpnd t) (redPlace t) buf).1 := by
  have hfmt := h.takes
  obtain ⟨⟨hb, hok, hn, k, hbuf⟩, hseen, hr, hc, -⟩ := h
  refine ⟨(stage s id t b (redOpnd t) (redPlace t) buf).2.modDie (redDie (redPlace t))
    (fun x => { x with red := tset x.red (redPlace t) (roundWith s id t b buf w) }), rfl, ?_⟩
  cases hx : tfind (s.die (redDie (redPlace t))).red (redPlace t) with
  | none =>
    simp [contribute, hb, hok, Nat.not_le.2 hn, hbuf, hseen, hr, hc, hd, hfmt, hx, roundWith]
    rfl
  | some x =>
    simp [contribute, hb, hok, Nat.not_le.2 hn, hbuf, hseen, hr, hc, hd, hfmt, hx, roundWith, hround x hx]
    rfl

/-- The contribution is counted in ARRIVED; the last one makes the delivery due, and any other one ends (11 R300). -/
theorem contribute_counts (h : Fits s t b buf) (hs : s.MemOk) (ho : t.ended = none) {w : Nat × Nat}
    (hd : redTarget s t b.dst b.out false [1, 2, 3] = some w)
    (hround : ∀ x, tfind (s.die (redDie (redPlace t))).red (redPlace t) = some x → x.dst = w ∧ x.buf = buf) (hroom : b.arrived + 1 < 2 ^ 25) :
    (redBlk (contribute s id t) (redPlace t)).arrived = b.arrived + 1 ∧
    (b.arrived + 1 = b.n → Event.reductionDelivery (redDie (redPlace t)) (redPlace t) ∈ (contribute s id t).agenda) ∧
    (b.arrived + 1 ≠ b.n → ∃ code i j, (code = 1 ∨ code = 2) ∧ Ended (contribute s id t) id code 0 i j) := by
  obtain ⟨harrived, hended⟩ := stage_effect (id := id) (t := t) (b := b) (buf := buf) hs (redOpnd t) (redPlace t) hroom
  obtain ⟨u, hu, hstep⟩ := contribute_accepted (id := id) h hd hround
  by_cases hfull : b.arrived + 1 = b.n
  · rw [hstep, if_pos hfull]
    exact ⟨(congrArg RedBlk.arrived (redBlk_of_mem hu _)).trans harrived, fun _ => due_mem_agenda _ _, fun hn => absurd hfull hn⟩
  · rw [hstep, if_neg hfull]
    exact ⟨(congrArg RedBlk.arrived (redBlk_of_mem ((endByFirst_mem _ _ _).trans hu) _)).trans harrived, fun hn => absurd hn hfull,
      fun _ => ended_endByFirst (hended.trans ho) _ _⟩

end

/-! ### Delivery (11 R301) -/

/-- Where a round's destination that is not translated has a byte. -/
def directPlace (r : RedRound) (o : Nat) : Nat × Bool := (r.dst.2 + o, false)

/-- The bytes of a round's sums at their places. -/
def roundBytes (s : State) (b : RedBlk) (r : RedRound) : Tbl Nat :=
  b.cells.flatMap (fun p => (List.range 4).map (fun k => (r.dst.2 + (b.offset p + k), (redSum s b r.buf p.1 p.2).1 / 256 ^ k % 256)))

section
variable {s : State} {id die blk : Nat} {t : Transfer} {r : RedRound}

theorem doDelivery_direct (ht : tfind s.transfers id = some t) (hr : tfind (s.die die).red blk = some r) (hlast : r.last = some id)
    (hw : faultWaits s id t = false) (hkind : r.dst.1 ≠ 3) :
    doDelivery s die blk = passRound s die blk (redBlk s blk) r id t (directPlace r) := by
  simp [doDelivery, hr, hlast, ht, hw, hkind]
  rfl

theorem passRound_through {b : RedBlk} (hfilters : filtersTake s (roundLines b (directPlace r)) = true)
    (hway : Through s id ((roundLines b (directPlace r)).flatMap (fun a => unitWrite s (unitPlace die) a 4))) :
    ∃ d c, passRound s die blk b r id t (directPlace r) = deliverRound { s with dies := d, claims := c } die blk b r id t (directPlace r) := by
  obtain ⟨d, c, hthru, -⟩ := claimStep_through hway r.owner
  exact ⟨d, c, by simp [passRound, hfilters, hthru]⟩

theorem mem_cells {b : RedBlk} {p : Nat × Nat} : p ∈ b.cells ↔ p.1 < b.rows ∧ p.2 < b.cols := by
  obtain ⟨i, j⟩ := p
  simp [RedBlk.cells]

/-- Rows that do not overlap have each byte of a round at a place of its own. -/
theorem offset_injective {b : RedBlk} (hrows : b.rows ≤ 1 ∨ 4 * b.cols ≤ b.dpitch) {p q : Nat × Nat} (hp : p ∈ b.cells) (hq : q ∈ b.cells)
    {k l : Nat} (hk : k < 4) (hl : l < 4) (he : b.offset p + k = b.offset q + l) : p = q ∧ k = l := by
  obtain ⟨i, j⟩ := p
  obtain ⟨i', j'⟩ := q
  obtain ⟨hi, hj⟩ := mem_cells.1 hp
  obtain ⟨hi', hj'⟩ := mem_cells.1 hq
  dsimp only [RedBlk.offset] at hi hj hi' hj' he
  have hii : i = i' := by
    rcases hrows with hrows | hrows
    · omega
    · rcases Nat.lt_trichotomy i i' with h | h | h
      · have := Nat.mul_le_mul_right b.dpitch h
        rw [Nat.succ_mul] at this
        omega
      · exact h
      · have := Nat.mul_le_mul_right b.dpitch h
        rw [Nat.succ_mul] at this
        omega
  subst hii
  exact ⟨Prod.ext rfl (by show j = j'; omega), by omega⟩

theorem mem_roundBytes {b : RedBlk} {y : Nat × Nat} : y ∈ roundBytes s b r ↔
    ∃ p ∈ b.cells, ∃ k < 4, y = (r.dst.2 + (b.offset p + k), (redSum s b r.buf p.1 p.2).1 / 256 ^ k % 256) := by
  simp only [roundBytes, List.mem_flatMap, List.mem_map, List.mem_range]
  exact ⟨fun ⟨p, hp, k, hk, he⟩ => ⟨p, hp, k, hk, he.symm⟩, fun ⟨p, hp, k, hk, he⟩ => ⟨p, hp, k, hk, he.symm⟩⟩

theorem isBytes_roundTable {b : RedBlk} : IsBytes (tsets [] (roundBytes s b r)) := fun y hy => by
  rcases mem_tsets hy with hy | hy
  · obtain ⟨p, -, k, -, rfl⟩ := mem_roundBytes.1 hy
    exact Nat.mod_lt _ (by decide)
  · cases hy

/-- The byte of each element stands in the table of a round's bytes. -/
theorem mem_roundTable {b : RedBlk} (hrows : b.rows ≤ 1 ∨ 4 * b.cols ≤ b.dpitch) {p : Nat × Nat} (hp : p ∈ b.cells) {k : Nat} (hk : k < 4) :
    (r.dst.2 + (b.offset p + k), (redSum s b r.buf p.1 p.2).1 / 256 ^ k % 256) ∈ tsets [] (roundBytes s b r) := by
  refine mem_of_tfind (tfind_tsets (mem_roundBytes.2 ⟨p, hp, k, hk, rfl⟩) fun z hz hkey => ?_)
  obtain ⟨q, hq, l, hl, rfl⟩ := mem_roundBytes.1 hz
  obtain ⟨rfl, rfl⟩ := offset_injective hrows hq hp hl hk (Nat.add_left_cancel hkey)
  rfl

/-- What is delivered: the bytes of every sum, then the round cleared and the transfer ended (11 R301). -/
theorem deliverRound_eq (b : RedBlk) (r : RedRound) (s : State) (die blk id : Nat) (t : Transfer) :
    ∃ v u, v.mem = memWriteT s.mem (tsets [] (roundBytes s b r)) ∧ u.ended = t.ended ∧
      deliverRound s die blk b r id t (directPlace r) = endByFirst (clearRound v die blk b r) id u := by
  have htable : (b.cells.map (fun p => (p, redSum s b r.buf p.1 p.2))).foldl (fun m x =>
      (((List.range 4).map (fun k => directPlace r (b.offset x.1 + k))).zipIdx).foldl (fun (m : Tbl Nat) y =>
        tset m y.1.1 (x.2.1 / 256 ^ y.2 % 256)) m) [] = tsets [] (roundBytes s b r) := by
    rw [tsets, roundBytes, List.foldl_flatMap, List.foldl_map]
    rfl
  refine ⟨_, _, ?_, ?_, rfl⟩
  · have hfilters : ∀ (u : State) a, ((enterFilter u a (identCls 2 die u.nextId)).fresh).mem = u.mem := fun u a => enterFilter_mem u a _
    refine (markGranules_mem _ _).trans ((foldl_keeps (g := State.mem) hfilters _ _).trans ?_)
    exact (congrArg (fun m => (writeBytes s (redWriter s r.owner) _ m).mem) htable).trans
      (writeBytes_mem (fun u a n => unitLine_mem u _ _ a n _) _ _ isBytes_roundTable)
  · rfl

theorem clearRound_mem (v : State) (die blk : Nat) (b : RedBlk) (r : RedRound) :
    (clearRound v die blk b r).mem = (setArrived (v.perfWrite (redWriter v r.owner) (r.buf + b.area) 0 b.map) (redWriter v r.owner) blk 0).mem := rfl

/-- A round that is over: ARRIVED is 0, and no byte but its own and the bitmap's has changed (11 R301). -/
theorem clearRound_effect {v : State} (hv : v.MemOk) (die blk : Nat) (b : RedBlk) (r : RedRound) :
    (redBlk (clearRound v die blk b r) blk).arrived = 0 ∧
    ∀ a, (a < blk ∨ blk + 32 ≤ a) → (a < r.buf ∨ r.buf + b.area + b.map ≤ a) →
      memRead (clearRound v die blk b r).mem a = memRead v.mem a := by
  have hcleared := perfWrite_memOk (redWriter v r.owner) (r.buf + b.area) 0 b.map hv
  refine ⟨arrived_setArrived hcleared _ _ (by decide), fun a hblk hbuf => ?_⟩
  rw [clearRound_mem, setArrived_mem, memRead_memWriteN_other _ _ _ _ hcleared (by omega), perfWrite_mem,
    memRead_memWriteN_other _ _ _ _ hv (by omega)]

theorem offset_lt_out {b : RedBlk} {p : Nat × Nat} (hp : p ∈ b.cells) {k : Nat} (hk : k < 4) : b.offset p + k < b.out := by
  obtain ⟨hi, hj⟩ := mem_cells.1 hp
  have hrow : p.1 * b.dpitch ≤ (b.rows - 1) * b.dpitch := Nat.mul_le_mul_right _ (by omega)
  unfold RedBlk.offset RedBlk.out
  omega

/-- A delivery writes the sum of every element and clears ARRIVED (11 R301). -/
theorem deliverRound_effect {b : RedBlk} (hs : s.MemOk) (ho : t.ended = none) (hrows : b.rows ≤ 1 ∨ 4 * b.cols ≤ b.dpitch)
    (hapart : ∀ x, r.dst.2 ≤ x → x < r.dst.2 + b.out → (x < blk ∨ blk + 32 ≤ x) ∧ (x < r.buf ∨ r.buf + b.area + b.map ≤ x)) :
    (redBlk (deliverRound s die blk b r id t (directPlace r)) blk).arrived = 0 ∧
    (∀ p ∈ b.cells, (deliverRound s die blk b r id t (directPlace r)).rd (r.dst.2 + b.offset p) 4 = (redSum s b r.buf p.1 p.2).1 % 2 ^ 32) ∧
    ∃ code x y, (code = 1 ∨ code = 2) ∧ Ended (deliverRound s die blk b r id t (directPlace r)) id code 0 x y := by
  obtain ⟨v, u, hvmem, hu, hstep⟩ := deliverRound_eq b r s die blk id t
  have hv : v.MemOk := by
    rw [State.MemOk, hvmem]
    exact memWriteT_wf _ hs
  obtain ⟨harrived, hkept⟩ := clearRound_effect hv die blk b r
  rw [hstep]
  have hmem := endByFirst_mem (clearRound v die blk b r) id u
  refine ⟨(congrArg RedBlk.arrived (redBlk_of_mem hmem _)).trans harrived, fun p hp => ?_, ended_endByFirst (hu.trans ho) _ _⟩
  rw [rd_of_mem hmem]
  refine memReadN_of_bytes fun k hk => ?_
  have hin := offset_lt_out hp hk
  obtain ⟨hblk, hbuf⟩ := hapart (r.dst.2 + b.offset p + k) (by omega) (by omega)
  rw [hkept _ hblk hbuf, hvmem, Nat.add_assoc]
  refine (memRead_memWriteT hs ?_ (mem_roundTable hrows hp hk)).trans ?_
  · exact (Ascending.tsets List.Pairwise.nil _).imp fun h => Nat.ne_of_lt h
  · exact BitVec.eq_of_toNat_eq (by simp)

end

end Sys2Proof.Laws
end

section
/-!
The obligation on transfers (08 R206; 11 R278-R301), assembled from the effects of the rows that drive them.
-/
namespace Sys2Proof.Laws
open Sys2Proof.Machine Sys2Proof.Claims

/-- A contribution that is refused ends with code 9 and its SUB, and writes nothing (11 R300). -/
theorem refused_contribution {s u : State} {id : Nat} {t : Transfer} {k : Nat} (ho : t.ended = none) (hmem : u.mem = s.mem)
    (h : doRed s id = endTransfer u id t 9 k 0 0) :
    ∃ b, Does s (.redContributionArrival id) b ∧ b.mem = s.mem ∧ Ended b id 9 k 0 0 := by
  refine ⟨doRed s id, does_redContributionArrival s id, ?_, ?_⟩ <;> rw [h]
  · exact (endTransfer_mem _ _ _ _ _ _ _).trans hmem
  · exact ended_endTransfer ho _ _ _ _ _ _

/-- Settles O39: each row's effect by the case that its transfer is in. -/
theorem transferEvents : Obligations.TransferEvents := by
  intro s id t hmem ht
  refine ⟨fun ho hm hw => ?waits, fun p ho hm => ?discarded, fun hworks p hp => ⟨fun hdone => ?finished, fun c rest ready hcells => ?unit⟩,
    fun code sub row col th hend hwait hth htag => ?completed, fun hworks => ⟨fun hfull => ?full, fun v bad hroom hseen => ?pushed⟩,
    ?contributed, ?delivered⟩
  case waits =>
    rw [← doCopyUnit_waits ht ho hm hw]
    exact does_copyUnitWrite s id
  case discarded =>
    obtain ⟨hbytes, htransfers, hfaults⟩ := discardTransfer_effect s id t p
    rw [← doCopyUnit_misnumbered ht ho hm] at hbytes htransfers hfaults
    exact ⟨_, does_copyUnitWrite s id, hbytes, htransfers, hfaults⟩
  case finished =>
    refine ⟨doCopyUnit s id, does_copyUnitWrite s id, ?_, ?_⟩ <;> rw [doCopyUnit_finished hworks hp hdone]
    · exact planEnd_mem s id t p
    · exact ended_planEnd hworks.going s id p
  case unit =>
    intro u unit low place bytes heval h3 h5 hdeny hspace hfree hway
    exact unit_written hmem hworks hp hcells ⟨heval, h3, h5, hdeny, hspace, hfree, hway⟩
  case completed =>
    obtain ⟨r, p, g, hu⟩ := doCopyCompletion_thread ht hend hwait hth htag
    refine ⟨_, _, does_copyCompletion s id, hu, rfl, rfl, rfl, rfl, tget_tset_same _ _ _ _, fun hins => ?_⟩
    rw [doCopyCompletion_mem ht hend hwait, codecDone_mem hins]
  case full =>
    rw [← doStream_full hworks hfull]
    exact does_sbindStreamPush s id
  case pushed =>
    refine ⟨doStream s id, does_sbindStreamPush s id, ?_, ?_, fun hmore => ?_, fun hlast => ?_⟩ <;> rw [doStream_read hworks hroom hseen]
    · exact pushStream_mem _ _ _ _ _
    · rw [pushStream_words]
      cases bad <;> rfl
    · obtain ⟨hdue, htr⟩ := pushStream_more v (if bad then some (t.err.getD .poison) else none) hmore
      exact ⟨hdue, _, htr, rfl, hworks.going⟩
    · have hends := pushStream_last (s := s) (id := id) v (if bad then some (t.err.getD .poison) else none) hworks.going hlast
      cases bad <;> exact hends
  case contributed =>
    intro blk r o no ho hu hm hrun hfoot hway
    obtain ⟨d, c, harr, hred⟩ := doRed_arrives ht ho hu hm hrun hfoot hway
    have hno : ∀ k, contribute { s with dies := d, claims := c } id t = endTransfer { s with dies := d, claims := c } id t 9 k 0 0 → no k :=
      fun k h => refused_contribution (u := { s with dies := d, claims := c }) ho rfl (harr.trans h)
    have hround : tfind (tget d (redDie blk) {}).red blk = tfind (s.die (redDie blk)).red blk := congrArg (tfind · blk) (hred _)
    refine ⟨fun hok => hno 1 (contribute_unsound hok), fun hok hn => hno 2 (contribute_outside hok hn), fun k buf w hok hn hbuf hdst => ?_⟩
    have hcounted : Counted { s with dies := d, claims := c } t r buf := ⟨rfl, hok, hn, k, hbuf⟩
    refine ⟨fun hseen => hno 3 (contribute_seen hcounted hseen), fun hseen hshape => hno 4 (contribute_misshapen hcounted hseen hshape),
      fun hseen hr hc hi hf => hno 5 (contribute_unformatted hcounted hseen hr hc hi hf), fun hseen hr hc hf hd => ?_,
      fun z x hseen hr hc hf hd hx hne => ?_, fun z hseen hr hc hf hd hsame hroom => ?_⟩ <;>
      have hfits : Fits { s with dies := d, claims := c } t r buf := ⟨hcounted, hseen, hr, hc, hf⟩
    · exact hno 6 (contribute_undelivered hfits (hdst.trans hd))
    · exact hno 7 (contribute_elsewhere hfits (hdst.trans hd) (hround.trans hx) hne)
    · have hcounts := contribute_counts (id := id) hfits hmem ho (hdst.trans hd) (fun x hx => hsame x (hround.symm.trans hx)) hroom
      rw [← harr] at hcounts
      exact ⟨doRed s id, does_redContributionArrival s id, hcounts⟩
  case delivered =>
    intro die blk r hr hlast hw ho hkind c hapart hrows hfilters hway
    obtain ⟨d, k, hpass⟩ := passRound_through (b := c) hfilters hway
    obtain ⟨harrived, hsums, hends⟩ :=
      deliverRound_effect (id := id) (s := { s with dies := d, claims := k }) (die := die) hmem ho hrows hapart
    rw [← hpass, ← doDelivery_direct ht hr hlast hw hkind] at harrived hsums hends
    exact ⟨_, does_reductionDelivery s die blk, harrived, fun i j hi hj => hsums (i, j) (mem_cells.2 ⟨hi, hj⟩), hends⟩

end Sys2Proof.Laws
end

section
/-!
A SIGNAL into a line of which the host holds a copy (07 R186, 19 R462): its store gives the copy up, and the host is told
before the vector could be sent.
-/
namespace Sys2Proof.Laws
open Sys2Proof.Machine Sys2Proof.Claims

/-- A SIGNAL packet (19 R462): 99 to byte 256 of die 0's device memory, and no vector. -/
def signalToLineOne : Packet :=
  { queue := 5, owner := 0, typ := 4, start := 0, time := 0, qcb := 0
    bytes := [0, 99, 256, 0x7FF].flatMap (fun v => (List.range 8).map (fun k => BitVec.ofNat 8 (v / 256 ^ k))) }

/-- The packet in flight as number 3 of partition 0 and its row drawn, while the host holds a copy of line 1, in which byte 256
lies. -/
def hostSharesLineOne : State :=
  { State.reset with
    ev := some (.signal 0 3)
    parts := [(0, { packets := [(3, signalToLineOne)] })]
    dies := [(0, { hostCopies := [1] })] }

/-- What has left the module after an outcome. -/
def outboxAfter : Outc → Option (List Out)
  | .next s => some s.outbox
  | _ => none

/-- The store gives the host's copy up, and the host is told (07 R186). -/
theorem signal_tells_host : outboxAfter (exec (Event.signal 0 3).row hostSharesLineOne) = some [.backInval 0 1] := by decide +kernel

/-- Refutes O50: its SIGNAL clause has nothing but the vector leave the module.  The store of a SIGNAL to device memory takes
back the host's copy of its line (07 R186): on hostSharesLineOne, whose packet sends no vector, the back-invalidation leaves. -/
theorem not_queuePackets : ¬ Obligations.QueuePackets := by
  intro h
  obtain ⟨-, hrest⟩ := h hostSharesLineOne 0 3 signalToLineOne rfl rfl
  obtain ⟨-, -, -, -, hsignal, -⟩ := hrest (by decide +kernel)
  obtain ⟨b, hdoes, -, -, hout⟩ := hsignal rfl 256 (by decide +kernel) (by decide +kernel) (by decide +kernel)
  have hvector : b.outbox = [] := hout.trans (if_pos (by decide +kernel))
  have hnext : outboxAfter (exec (Event.signal 0 3).row hostSharesLineOne) = some b.outbox :=
    congrArg outboxAfter (hdoes rfl (by decide +kernel))
  rw [signal_tells_host, hvector] at hnext
  exact absurd hnext (by decide)

end Sys2Proof.Laws
end

section
/-!
The issue of transfers (11 R277-R279, R295, R300): what begins with a transfer, the checks of a tile that is read, and red and
sbind behind their checks.
-/
namespace Sys2Proof.Laws
open Sys2Proof.Machine Sys2Proof.Claims

/-! ### The start of a transfer (11 R277, R278) -/

/-- The record of a thread that has begun one more transfer: the ring holds its status as running. -/
def withTransfer (t : Thread) : Thread :=
  { t with xseq := t.xseq + 1, ring := tset t.ring (t.xseq.toNat % 16) (statusBits t.xseq.toNat 0 0 0 0 0), cnt := { t.cnt with c := t.cnt.c + 1 } }

theorem ringEnt_withTransfer (t : Thread) : (withTransfer t).ringEnt t.xseq.toNat = statusBits t.xseq.toNat 0 0 0 0 0 :=
  tget_tset_same _ _ _ _

/-- The entry of a transfer into its engine touches the threads, the transfers, the clusters, the agenda and the next number. -/
theorem startTransfer_eq {s : State} {slot : Nat} {t : Thread} (h : tfind s.threads slot = some t) (tr : Transfer) (k : Nat) :
    ∃ c, startTransfer s slot tr k = { s with
      threads := tset s.threads slot (withTransfer t), clusters := c, nextId := s.nextId + 1,
      transfers := tset s.transfers s.nextId { tr with seq := t.xseq, engine := k }, agenda := s.agenda ++ [tr.event s.nextId] } := by
  unfold startTransfer
  rw [h]
  exact ⟨_, rfl⟩

theorem startTransfer_getTh {s : State} {slot : Nat} {t : Thread} (h : tfind s.threads slot = some t) (tr : Transfer) (k : Nat) :
    (startTransfer s slot tr k).getTh (.thread slot) = some (withTransfer t) := by
  obtain ⟨c, hc⟩ := startTransfer_eq h tr k
  rw [hc]
  exact tfind_tset_same _ _ _

/-- The admission of a cluster counts at its die alone (17 R428). -/
theorem admitted_diesOnly (s : State) (slot : Nat) (t : Thread) : DiesOnly s (admitted s slot t) := by
  unfold admitted State.leavePoint State.modOwner
  exact diesOnly_modDie _ _ _

theorem admitted_threads (s : State) (slot : Nat) (t : Thread) : (admitted s slot t).threads = s.threads := by
  obtain ⟨d, hd⟩ := admitted_diesOnly s slot t
  rw [hd]

theorem started_startTransfer {s : State} {slot : Nat} {t : Thread} (h : s.getTh (.thread slot) = some t) (tr : Transfer) (k : Nat) :
    Started s slot t tr (startTransfer (admitted s slot t) slot tr k) := by
  have hth : tfind (admitted s slot t).threads slot = some t := by rw [admitted_threads]; exact h
  obtain ⟨d, hd⟩ := admitted_diesOnly s slot t
  obtain ⟨c, hc⟩ := startTransfer_eq hth tr k
  rw [hc, hd]
  exact ⟨withTransfer t, k, tfind_tset_same _ _ _, rfl, rfl, ringEnt_withTransfer t, tfind_tset_same _ _ _, rfl⟩

/-! ### The issue to an engine (11 R279; 12 R322; 17 R428) -/

theorem start_of_no_dst {t : Thread} {f : Fields} (h : f.dst = none) (s : State) : start s t f = s := by
  simp [start, pushes, h]

theorem start_cluster (s : State) (t : Thread) (f : Fields) (c : Nat) : (start s t f).cluster c = s.cluster c := by
  unfold start
  split <;> rfl

theorem start_ownerOf (s : State) (t : Thread) (f : Fields) (c : Nat) : (start s t f).ownerOf c = s.ownerOf c := by
  unfold start
  split <;> rfl

/-- A transfer of the thread in a slot, on its core and for its owner. -/
structure OwnTransfer (s : State) (slot : Nat) (tr : Transfer) : Prop where
  ofSlot : tr.slot = slot
  onCore : tr.core = coreOf slot
  forOwner : tr.owner = s.ownerOf (coreOf slot)

/-- With room on C and T and in an engine, the issue of a transfer begins it past the admission of its cluster. -/
theorem issueTransfer_starts {e : Env} {slot k : Nat} {tr : Transfer} (hown : OwnTransfer e.s slot tr) (hroom : RoomOnC e.th e.i)
    (hfree : freeEngine (e.s.cluster (clusterOf (coreOf slot))) = some k) (w : DstW) :
    issueTransfer e tr w = .ok { s := startTransfer (admitted e.s slot e.th) slot tr k, dst := w } := by
  obtain ⟨hslot, hcore, howner⟩ := hown
  obtain ⟨hc, ht⟩ := hroom
  simp only [issueTransfer, if_neg (Nat.not_le.mpr hc), if_neg (Nat.not_lt.mpr ht), hslot, hcore, howner, hfree]
  rfl

section
variable {s : State} {slot : Nat} {t : Thread} {i : Instr} {f : Fields} {tr : Transfer} {k : Nat}

/-- A ready instruction whose own checks let its transfer through completes with the transfer begun. -/
theorem ready_starts {body : Env → Res} {w : DstW} (h : Ready s (.thread slot) t i f)
    (hbody : body (envOf s (.thread slot) t i f) = issueTransfer (envOf s (.thread slot) t i f) tr w) (hown : OwnTransfer s slot tr)
    (hroom : RoomOnC t i) (hfree : freeEngine (s.cluster (clusterOf (coreOf slot))) = some k) :
    Completes s (.thread slot) t i f (startTransfer (admitted (start s t f) slot t) slot tr k) w (t.pc + 4) none (runIns s i f body) := by
  have hth : tfind (admitted (start s t f) slot t).threads slot = some t := by
    rw [admitted_threads]
    exact (start_getTh s (.thread slot) t f).trans h.th
  have hown' : OwnTransfer (start s t f) slot tr := ⟨hown.ofSlot, hown.onCore, hown.forOwner.trans (start_ownerOf s t f _).symm⟩
  have hissue := issueTransfer_starts (e := envOf s (.thread slot) t i f) hown' hroom ((congrArg freeEngine (start_cluster s t f _)).trans hfree) w
  exact ready_completes h (hbody.trans hissue) (startTransfer_getTh hth tr k)

/-- The same for an instruction without a destination. -/
theorem ready_starts_silent {body : Env → Res} (h : Ready s (.thread slot) t i f) (hdst : f.dst = none)
    (hbody : body (envOf s (.thread slot) t i f) = issueTransfer (envOf s (.thread slot) t i f) tr .none) (hown : OwnTransfer s slot tr)
    (hroom : RoomOnC t i) (hfree : freeEngine (s.cluster (clusterOf (coreOf slot))) = some k) :
    Completes s (.thread slot) t i f (startTransfer (admitted s slot t) slot tr k) .none (t.pc + 4) none (runIns s i f body) ∧
    Started s slot t tr (startTransfer (admitted s slot t) slot tr k) := by
  have hcompletes := ready_starts h hbody hown hroom hfree
  rw [start_of_no_dst hdst] at hcompletes
  exact ⟨hcompletes, started_startTransfer h.th tr k⟩

end

/-! ### The checks of a tile that is read (10 R252) -/

/-- A name within the limit gives its descriptor, unmoved at the thread's own issue (10 R244; 12 R320). -/
theorem opndOf_own {t : Thread} {n : Nat} (h : n < t.tlim) (s : State) (core opnd : Nat) (view dest : Bool) :
    opndOf s core t {} n opnd view dest = .ok (tileOf s core t n opnd view dest) := by
  have hstride : (if dNull (t.desc n) then none else ({} : Stag).stride n) = none := by split <;> rfl
  simp only [opndOf, ge_iff_le, Nat.not_le.mpr h, if_false, hstride]
  rfl

/-- The code of a bank is read at any of its bytes (10 R242). -/
theorem bankCode_of_same_bank {x y : Nat} (h : x / 4096 = y / 4096) (bfmt : Word) : bankCode bfmt x = bankCode bfmt y := by
  simp only [bankCode, h]

/-- A range whose bytes all lie in banks of one code spans no other. -/
theorem spansCode_of_banks {bfmt : Word} {f : Nat} {p : Nat × Nat} (h : ∀ b, p.1 ≤ b → b < p.1 + max 1 p.2 → bankCode bfmt b = f) :
    spansCode bfmt f p = false := by
  refine List.any_eq_false.mpr fun k hk => ?_
  have hk := List.mem_range.mp hk
  have hsame : (p.1 + 4096 * k) / 4096 = max p.1 ((p.1 / 4096 + k) * 4096) / 4096 := by omega
  have hcode := h (max p.1 ((p.1 / 4096 + k) * 4096)) (Nat.le_max_left _ _) (by omega)
  simp [bankCode_of_same_bank hsame, hcode]

section
variable {exb : Nat} {bfmt : Word} {o : Opnd} (h : Stands exb bfmt o)
include h

theorem chkNull_of_stands : chkNull o = none := by
  simp [chkNull, dNull, h.named]

theorem chkPast_of_stands {rs : Ranges} (hrs : ∀ p ∈ rs, p ∈ o.foot) (opnd : Nat) : chkPast opnd rs = none := by
  refine if_neg fun hany => ?_
  obtain ⟨p, hp, hpast⟩ := List.any_eq_true.mp hany
  exact Nat.not_lt.mpr (h.place p (hrs p hp)).2 (of_decide_eq_true hpast)

theorem chkBelow_of_stands {rs : Ranges} (hrs : ∀ p ∈ rs, p ∈ o.foot) (opnd : Nat) : chkBelow exb opnd rs = none := by
  refine if_neg fun hany => ?_
  obtain ⟨p, hp, hbelow⟩ := List.any_eq_true.mp hany
  exact Nat.not_lt.mpr (h.place p (hrs p hp)).1 (of_decide_eq_true hbelow)

theorem chkPlace_of_stands : chkPlace exb o = none := by
  have hdata : ∀ p ∈ o.dataRanges, p ∈ o.foot := fun p hp => List.mem_append_left _ hp
  have hscale : ∀ p ∈ o.scaleRanges, p ∈ o.foot := fun p hp => List.mem_append_right _ hp
  simp only [chkPlace, chkPast_of_stands h hdata, chkPast_of_stands h hscale,
    chkBelow_of_stands h hdata, chkBelow_of_stands h hscale, Option.or_none]

theorem chkFmt_of_stands : chkFmt bfmt true o = none := by
  have hspans : ¬ o.dataRanges.any (spansCode bfmt o.fmt) = true := fun hany => by
    obtain ⟨p, hp, hspan⟩ := List.any_eq_true.mp hany
    rw [spansCode_of_banks (h.banks p hp)] at hspan
    cases hspan
  simp only [chkFmt, if_neg h.code, if_neg hspans, if_true]

end

theorem chkShape_of_source {o : Opnd} (h : o.dest = false) : chkShape true o = none := by
  simp [chkShape, h]

theorem firstBad_single {α : Type} {x : α} {f : α → Option TileBad} (h : f x = none) : firstBad [x] f = none := by
  simp [firstBad, h]

/-- A tile that stands, and whose format and shape its instruction takes, passes the checks of a source. -/
theorem tileChecks_of_source {c : Core} {r : TileRule} {o : Opnd} (h : Stands c.exb c.bfmt o) (hfmt : r.fmtOk o = true)
    (hshape : r.shapeOk o = true) (hsrc : o.dest = false) : tileChecks c r [o] = none := by
  have hf : chkFmt c.bfmt (r.fmtOk o) o = none := by rw [hfmt]; exact chkFmt_of_stands h
  have hs : chkShape (r.shapeOk o) o = none := by rw [hshape]; exact chkShape_of_source hsrc
  simp only [tileChecks, firstBad_single (chkNull_of_stands h), firstBad_single (chkPlace_of_stands h),
    firstBad_single (f := fun o => chkFmt c.bfmt (r.fmtOk o) o) hf,
    firstBad_single (f := fun o => chkShape (r.shapeOk o) o) hs, Option.none_or]
  rfl

/-! ### red (11 R300) -/

/-- The transfer that red begins, of the tile o and the block that its pointer reaches. -/
def redTransfer (e : Env) (slot : Nat) (o : Opnd) (kind p : Nat) : Transfer :=
  { slot := slot, tag := e.th.tag, core := coreOf slot, ins := e.i, owner := e.s.ownerOf (coreOf slot),
    desc := o.d, code := BitVec.ofNat 4 o.fmt, ea := e.a, kind := kind, at_ := p, xs := e.b, segs := e.th.sgs }

/-- What red needs of the pointer to its control block (11 R299). -/
def redSpec : AccSpec := { size := 32, align := 32, r := true, w := true, a := true, kinds := [1, 2], acc := 10 }

theorem redBody_issues {e : Env} {slot : Nat} {d : BitVec 4} {kind p : Nat} (hag : e.ag = .thread slot) (hname : d.toNat < e.th.tlim)
    (hstands : Stands (e.s.core (coreOf slot)).exb (e.s.core (coreOf slot)).bfmt (tileOf e.s (coreOf slot) e.th d.toNat 0 false false))
    (hptr : ptrCheck e.s slot e.th redSpec e.a = .ok (kind, p)) (hwatch : watchFind e.th e.a.toNat 32 true true = none) :
    redBody d e = issueTransfer e (redTransfer e slot (tileOf e.s (coreOf slot) e.th d.toNat 0 false false) kind p) .none := by
  have htile := tileChecks_of_source (r := { fmtOk := fun _ => true, shapeOk := fun _ => true }) hstands rfl rfl rfl
  rw [redSpec] at hptr
  simp only [redBody, hag, opndOf_own hname, htile, hptr, hwatch]
  rfl

/-- The fields of red. -/
def redFields (d : BitVec 4) (x y : BitVec 5) : Fields := { srcs := [(1, x), (2, y)], tiles := [(0, d)], items := [0x100 + d.toNat] }

theorem exec_red (s : State) (d : BitVec 4) (x y : BitVec 5) : exec (.red d x y) s = runIns s (.red d x y) (redFields d x y) (redBody d) := rfl

/-! ### sbind (11 R295) -/

/-- The transfer that sbind begins, of the range that its pointer reaches. -/
def streamTransfer (e : Env) (slot kind p : Nat) : Transfer :=
  { slot := slot, tag := e.th.tag, core := coreOf slot, ins := e.i, owner := e.s.ownerOf (coreOf slot),
    ea := e.a, kind := kind, at_ := p, len := (streamCount e.b - 1) * streamStride e.b + 8, xs := e.b, segs := e.th.sgs }

/-- What sbind needs of its pointer for the stream of a control word. -/
def streamSpec (w : Word) : AccSpec := { size := (streamCount w - 1) * streamStride w + 8, align := 8, r := true, acc := 10 }

/-- A count and a stride that sbind takes. -/
structure StreamForm (w : Word) : Prop where
  count : streamCount w ≠ 0
  reserved : bits w.toNat 63 48 = 0
  stride : bits w.toNat 47 32 % 8 = 0

theorem StreamForm.not_bad {w : Word} (h : StreamForm w) : ¬ (streamCount w = 0 ∨ bits w.toNat 63 48 ≠ 0 ∨ bits w.toNat 47 32 % 8 ≠ 0) := by
  simp [h.count, h.reserved, h.stride]

section
variable {e : Env} {slot kind p : Nat} (hag : e.ag = .thread slot) (hform : StreamForm e.b)
  (hptr : ptrCheck e.s slot e.th (streamSpec e.b) e.a = .ok (kind, p))
include hag hform hptr

theorem sbindBody_unbound (hport : (inPort e.th).map Prod.snd ≠ some 4) : sbindBody e = illegal e.i 2 0 := by
  rw [streamSpec] at hptr
  simp only [sbindBody, hag, if_neg hform.not_bad, hptr, if_pos hport]

theorem sbindBody_issues (hport : (inPort e.th).map Prod.snd = some 4)
    (hwatch : watchFind e.th e.a.toNat ((streamCount e.b - 1) * streamStride e.b + 8) true false = none) (hfree : streaming e.s slot e.th.tag = false) :
    sbindBody e = issueTransfer e (streamTransfer e slot kind p) .none := by
  rw [streamSpec] at hptr
  simp only [sbindBody, hag, if_neg hform.not_bad, hptr, if_neg (not_not_intro hport), hwatch, hfree, Bool.false_eq_true, if_false]
  rfl

end

/-- The fields of sbind. -/
def sbindFields (x y : BitVec 5) : Fields := { srcs := [(1, x), (2, y)] }

theorem exec_sbind (s : State) (x y : BitVec 5) : exec (.sbind x y) s = runIns s (.sbind x y) (sbindFields x y) sbindBody := rfl

/-- Settles O21: both bodies, behind their checks, end in the issue of their transfer, and sbind without the copy stream at its
in-port in its trap. -/
theorem reductionAndStream : Obligations.ReductionAndStream := by
  intro s slot t
  refine ⟨fun d x y kind p k hready hname hstands hptr hwatch hroom hfree => ?_,
    fun x y kind p hready hcount hreserved hstride hptr => ⟨fun hport => ?_, fun k hport hwatch hidle hroom hfree => ?_⟩⟩
  · have hbody := redBody_issues (e := envOf s (.thread slot) t (.red d x y) (redFields d x y)) rfl hname hstands hptr hwatch
    rw [exec_red]
    obtain ⟨hcompletes, hstarted⟩ := ready_starts_silent hready rfl hbody ⟨rfl, rfl, rfl⟩ hroom hfree
    exact ⟨_, hcompletes, hstarted, rfl, rfl, rfl, rfl, rfl⟩
  · rw [exec_sbind]
    exact ready_traps hready (sbindBody_unbound (e := envOf s (.thread slot) t (.sbind x y) (sbindFields x y)) rfl
      ⟨hcount, hreserved, hstride⟩ hptr hport)
  · have hbody := sbindBody_issues (e := envOf s (.thread slot) t (.sbind x y) (sbindFields x y)) rfl ⟨hcount, hreserved, hstride⟩ hptr
      hport hwatch hidle
    rw [exec_sbind]
    obtain ⟨hcompletes, hstarted⟩ := ready_starts_silent hready rfl hbody ⟨rfl, rfl, rfl⟩ hroom hfree
    exact ⟨_, hcompletes, hstarted, rfl, rfl, rfl, rfl⟩

end Sys2Proof.Laws
end

section
/-!
The status ring and the end of transfers by their thread (11 R289, R290).
-/
namespace Sys2Proof.Laws
open Sys2Proof.Machine Sys2Proof.Claims

/-! ### The ring (11 R289) -/

theorem bits_15_0 (v : Nat) : bits v 15 0 = v % 2 ^ 16 := by simp [bits]

theorem bits_63_48 (w : Word) : bits w.toNat 63 48 = w.toNat / 2 ^ 48 := by
  simp only [bits]
  omega

theorem ringHolds_eq (t : Thread) (n : Nat) : ringHolds t n = ((t.ringEnt n).toNat / 2 ^ 48 == n) := by
  rw [ringHolds, bits_63_48]

/-- The status UNKNOWN (CODE 15) of a sequence. -/
theorem statusBits_unknown {n : Nat} (h : n < 2 ^ 16) : statusBits n 15 0 0 0 0 = BitVec.ofNat 64 (n * 2 ^ 48 + 15 * 2 ^ 44) := by
  rw [statusBits, Nat.mod_eq_of_lt h]
  simp

/-- What cstat answers to the word v. -/
def statusAnswer (t : Thread) (v : Nat) : Word :=
  if bitAt v 63 then t.xseq.setWidth 64
  else if (t.ringEnt (v % 2 ^ 16)).toNat / 2 ^ 48 = v % 2 ^ 16 then t.ringEnt (v % 2 ^ 16)
  else BitVec.ofNat 64 (v % 2 ^ 16 * 2 ^ 48 + 15 * 2 ^ 44)

theorem exec_cstat (s : State) (d x : BitVec 5) :
    exec (.cstat d x) s = runIns s (.cstat d x) (oneSrc d x) (fun e => done e (statusAnswer e.th e.a.toNat)) := by
  refine congrArg (runIns s (.cstat d x) (oneSrc d x)) (funext fun e => ?_)
  simp only [bits_15_0, bits_63_48, statusBits_unknown (Nat.mod_lt _ (by decide : 0 < 2 ^ 16))]
  exact (apply_ite (done e) _ _ _).symm

/-! ### ccancel (11 R290) -/

/-- Only a core's thread runs a word of the copy class (03 R74, 19 R459). -/
theorem thread_of_copy_word {s : State} {a : Agent} {t : Thread} {i : Instr} {f : Fields} (h : Ready s a t i f)
    (hop : fld i.word 0 7 = 0x5B) : ∃ slot, a = .thread slot := by
  cases a with
  | thread slot => exact ⟨slot, rfl⟩
  | sextant d k =>
    have hunit := h.unit
    simp [unitRuns, sextantRuns, hop] at hunit

theorem ccancel_opcode (x : BitVec 5) : fld (Instr.ccancel x).word 0 7 = 0x5B := by
  rw [word_op rfl]
  simp only [at']
  omega

/-- The transfers of a thread that the word v of ccancel names and whose sequence the ring still holds. -/
def namedTransfers (s : State) (a : Agent) (t : Thread) (v : Nat) : Tbl Transfer :=
  (s.transfers.filter (fun p => p.2.slot == a.num && p.2.tag == t.tag)).filter
    (fun p => (bitAt v 63 || p.2.seq.toNat == v % 2 ^ 16) && (t.ringEnt p.2.seq.toNat).toNat / 2 ^ 48 == p.2.seq.toNat)

/-- The machine with those transfers cancelled, one after the other. -/
def cancelNamed (s : State) (a : Agent) (t : Thread) (v : Nat) : State := ((namedTransfers s a t v).map Prod.fst).foldl cancelTransfer s

theorem exec_ccancel (s : State) (x : BitVec 5) :
    exec (.ccancel x) s = runIns s (.ccancel x) { srcs := [(1, x)] } (fun e => doneS (cancelNamed e.s e.ag e.th e.a.toNat)) := by
  refine congrArg (runIns s (.ccancel x) { srcs := [(1, x)] }) (funext fun e => ?_)
  simp only [bits_15_0, ringHolds_eq]
  rfl

theorem endTransfer_threads (s : State) (id : Nat) (t : Transfer) (code sub row col : Nat) :
    (endTransfer s id t code sub row col).threads = s.threads := by
  unfold endTransfer
  split
  · rfl
  · obtain ⟨d, c, hw⟩ := leaveWaits_only s id t
    rw [hw]; rfl

theorem cancelTransfer_threads (s : State) (id : Nat) : (cancelTransfer s id).threads = s.threads := by
  unfold cancelTransfer
  split
  · rfl
  · split
    · rfl
    · exact endTransfer_threads _ _ _ _ _ _ _

theorem cancelNamed_threads (s : State) (a : Agent) (t : Thread) (v : Nat) : (cancelNamed s a t v).threads = s.threads :=
  foldl_keeps (g := State.threads) cancelTransfer_threads _ s

section
variable {s : State} {id : Nat} {tr : Transfer} (h : tfind s.transfers id = some tr)
include h

/-- A transfer that has ended, or whose contribution has been accepted, stays as it is. -/
theorem cancelTransfer_of_over (hover : tr.ended.isSome ∨ tr.accepted) : cancelTransfer s id = s := by
  have hcond : (tr.ended.isSome || tr.accepted) = true := Bool.or_eq_true_iff.mpr hover
  simp only [cancelTransfer, h, hcond, if_true]

theorem cancelTransfer_of_open (hopen : ¬ (tr.ended.isSome ∨ tr.accepted)) : ∃ r c, cancelTransfer s id = endTransfer s id tr 6 0 r c := by
  have hcond : (tr.ended.isSome || tr.accepted) = false := Bool.eq_false_iff.mpr fun x => hopen (Bool.or_eq_true_iff.mp x)
  simp only [cancelTransfer, h, hcond, Bool.false_eq_true, if_false]
  exact ⟨_, _, rfl⟩

end

theorem endTransfer_eq {tr : Transfer} (h : tr.ended = none) (s : State) (id code sub row col : Nat) :
    endTransfer s id tr code sub row col = { leaveWaits s id tr with
      transfers := tset s.transfers id { tr with fault := none, ended := some (code, sub, row, col) }, agenda := s.agenda ++ [.copyCompletion id] } := by
  rw [endTransfer_of_open h]
  obtain ⟨d, c, hw⟩ := leaveWaits_only s id tr
  rw [hw]
  rfl

/-- Settles O22: cstat answers from the ring, ccancel cancels what it names one by one, and a cancelled transfer ends with
CODE 6 once it has left its waits. -/
theorem statusAndCancel : Obligations.StatusAndCancel := by
  intro s a t
  refine ⟨fun d x hready => ?_, fun x hready => ?_, fun id tr htr => ?_⟩
  · rw [exec_cstat]
    exact ready_completes (r := { s := start s t (oneSrc d x), dst := .val (statusAnswer t (operand s a t (oneSrc d x) 1).toNat) }) hready rfl
      ((start_getTh s a t _).trans hready.th)
  · obtain ⟨slot, rfl⟩ := thread_of_copy_word hready (ccancel_opcode x)
    rw [exec_ccancel]
    exact ready_completes (r := { s := cancelNamed s (.thread slot) t (operand s (.thread slot) t { srcs := [(1, x)] } 1).toNat }) hready rfl
      ((congrArg (tfind · slot) (cancelNamed_threads _ _ _ _)).trans hready.th)
  · split
    · next hover => exact cancelTransfer_of_over htr hover
    · next hopen =>
      obtain ⟨r, c, hcancel⟩ := cancelTransfer_of_open htr hopen
      have hended : tr.ended = none := Option.not_isSome_iff_eq_none.mp fun x => hopen (.inl x)
      exact ⟨r, c, hcancel.trans (endTransfer_eq hended s id 6 0 r c)⟩

end Sys2Proof.Laws
end
